-- ==== Sys2Proof/Word.lean ====
section
/-! DEFINITION. The plainest types of the TS-48: bytes, line numbers, account names, timers. -/

namespace Sys2Proof

/-- A byte of the host link or of a line (section 4.1 of 00_scope.md). -/
abbrev Byte := BitVec 8

/-- One of the 48 lines, numbered 0 to 47 (section 1.1 of 00_scope.md). -/
abbrev LineId := Fin 48

/-- An account name, its 1 to 8 characters without padding (R79). -/
abbrev Name := List Byte

/-- A speed code, 0 to 7 (section 4.1 of 00_scope.md). -/
abbrev SpeedCode := Fin 8

/-- A caller class, 0 to 3 (05_accounts.md section 5.1). -/
abbrev Cls := Fin 4

/-- A timer: stopped, or the whole 10 ms scan intervals it still has to run (log 1). -/
abbrev Timer := Option Nat

end Sys2Proof
end

