-- ==== Sys2Proof/Syntax.lean ====
section
/-! DEFINITION. The commands of the TS-48: one constructor per row of spec/opcode_table.json. -/

namespace Sys2Proof

/-- The pins a start-up reads: the two strap pins as a number (00_scope.md section 3), and RI and CD of the
48 lines as the first latch-bus scan finds them, bit i being line i (R21, R170). -/
structure Pins where
  strap : Fin 4
  ri : BitVec 48
  cd : BitVec 48
  deriving DecidableEq, Repr

/-- What power-on finds in the battery-backed RAM: what it held, or contents that give a bad header, as after
a failed battery or on a part fitted new (R157). -/
inductive RamFound where
  | kept
  | bad
  deriving DecidableEq, Repr

/-- A command of the part. The request rows (`keepalive` to `unknownKind`) are the taking of the frame at the
head of the intake queue (R161); their fields stand in that frame's body (log 4). -/
inductive Instr where
  /-- KEEPALIVE (R167) -/
  | keepalive
  /-- STATUS (R167) -/
  | status
  /-- OPEN_SERVICE (R164) -/
  | openService
  /-- CLOSE_SERVICE (R138) -/
  | closeService
  /-- SET_CLOCK (R98) -/
  | setClock
  /-- ADJUST_CLOCK (R99) -/
  | adjustClock
  /-- LOAD_TARIFF (R104) -/
  | loadTariff
  /-- LOAD_TEXT (R76) -/
  | loadText
  /-- SET_MONITOR (R166) -/
  | setMonitor
  /-- RESET (R141): the pins are those its start-up reads. -/
  | reset (pins : Pins)
  /-- CONFIGURE_LINE (R17) -/
  | configureLine
  /-- ENABLE_LINE (R13) -/
  | enableLine
  /-- DISABLE_LINE (R14) -/
  | disableLine
  /-- LINE_STATUS (R19) -/
  | lineStatus
  /-- BROADCAST (R77) -/
  | broadcast
  /-- LOAD_ACCOUNT (R88) -/
  | loadAccount
  /-- DELETE_ACCOUNT (R90) -/
  | deleteAccount
  /-- CREDIT_ACCOUNT (R91) -/
  | creditAccount
  /-- READ_ACCOUNT (R93) -/
  | readAccount
  /-- SET_ACCOUNT_STATE (R94) -/
  | setAccountState
  /-- OUTPUT (R54) -/
  | output
  /-- SET_SESSION (R129) -/
  | setSession
  /-- END_SESSION (R134) -/
  | endSession
  /-- READ_CHARGES (R151) -/
  | readCharges
  /-- RELEASE_CHARGES (R152) -/
  | releaseCharges
  /-- LABEL_ZERO_FRAME (R161) -/
  | labelZeroFrame
  /-- UNKNOWN_KIND (R172) -/
  | unknownKind
  /-- FRAME_RECEIVED (R159): the bytes that arrive, each less than 20 ms after the one before. -/
  | frameReceived (bytes : List Byte)
  /-- FRAME_TIMEOUT (R159) -/
  | frameTimeout
  /-- ARBITER_CHOICE (R162) -/
  | arbiterChoice
  /-- HOST_SILENCE_EXPIRY (R165) -/
  | hostSilenceExpiry
  /-- POWER_FAIL_WARNING (R169) -/
  | powerFailWarning
  /-- POWER_RECOVERY (R169) -/
  | powerRecovery (pins : Pins)
  /-- RESET_PIN_ASSERTED (R168) -/
  | resetPinAsserted
  /-- RESET_PIN (R168): `pfw` is the PFW level found when the start-up completes (R170). -/
  | resetPin (pins : Pins) (pfw : Bool)
  /-- POWER_ON (R170): `pfw` as for RESET_PIN; `ram` is what the retained memory holds. -/
  | powerOn (pins : Pins) (pfw : Bool) (ram : RamFound)
  /-- RING (R3) -/
  | ringSeen (line : LineId)
  /-- CARRIER_DETECT (R5) -/
  | carrierDetect (line : LineId)
  /-- CARRIER_DROP (R8) -/
  | carrierDrop (line : LineId)
  /-- CARRIER_WAIT_EXPIRY (R7) -/
  | carrierWaitExpiry (line : LineId)
  /-- CARRIER_LOSS (R9) -/
  | carrierLoss (line : LineId)
  /-- HANGUP_GUARD_EXPIRY (R11) -/
  | hangupGuardExpiry (line : LineId)
  /-- LOCKOUT_EXPIRY (R12) -/
  | lockoutExpiry (line : LineId)
  /-- DRAIN_TIMER_EXPIRY (R135) -/
  | drainTimerExpiry (line : LineId)
  /-- QUIET_LINE (R24) -/
  | quietLine (line : LineId)
  /-- END_OF_CHARACTER (R28) -/
  | endOfCharacter (line : LineId)
  /-- NO_END (R26) -/
  | noEnd (line : LineId)
  /-- TOO_MANY (R26): the samples counted since the previous transition. -/
  | tooMany (line : LineId) (samples : Nat)
  /-- DETECTION_TIMER_EXPIRY (R31) -/
  | detectionTimerExpiry (line : LineId)
  /-- CHARACTER_RECEIVED (R35): the eight bits between start and stop bit, the first in bit 0; in 7E1 and 7O1
  bit 7 is the parity bit (R33). -/
  | characterReceived (line : LineId) (bits : Byte)
  /-- FRAMING_ERROR (R34) -/
  | framingError (line : LineId)
  /-- BREAK (R39) -/
  | breakReceived (line : LineId)
  /-- INPUT_STORE (R42) -/
  | inputStore (line : LineId)
  /-- FORWARDING_TIMER_EXPIRY (R45) -/
  | forwardingTimerExpiry (line : LineId)
  /-- TRANSMIT_CHARACTER (R56) -/
  | transmitCharacter (line : LineId)
  /-- NAME_CHARACTER (R64) -/
  | nameCharacter (line : LineId)
  /-- PASSWORD_CHARACTER (R65) -/
  | passwordCharacter (line : LineId)
  /-- DIALOG_TIMER_EXPIRY (R66) -/
  | dialogTimerExpiry (line : LineId)
  /-- REJECTING_TIMER_EXPIRY (R74) -/
  | rejectingTimerExpiry (line : LineId)
  /-- METERING_TICK (R111) -/
  | meteringTick
  /-- GRACE_EXPIRY (R117) -/
  | graceExpiry (line : LineId)
  /-- INACTIVITY (R118) -/
  | inactivity (line : LineId)
  /-- START_EDGE (R24) -/
  | startEdge (line : LineId)
  /-- TRANSITION (R25): the samples counted since the previous transition. -/
  | transition (line : LineId) (samples : Nat)
  /-- POWER_LOSS (R145) -/
  | powerLoss
  deriving DecidableEq, Repr

end Sys2Proof
end

