-- ==== Sys2Proof/Config.lean ====
section
/-! DEFINITION. What the part fixes once: its sizes and limits, and the one opaque free value. -/

namespace Sys2Proof.Config

/-- Places of a line's receive FIFO (R36). -/
def fifoSize : Nat := 16
/-- Waiting characters at which input pacing sends DC3 (R38). -/
def fifoStopLevel : Nat := 8
/-- Bytes of a line's output queue (section 3.4 of 03). -/
def queueSize : Nat := 512
/-- Output queue level at which an armed queue reports OUTPUT READY (R54). -/
def queueReadyLevel : Nat := 128
/-- Bytes of an input buffer (R43). -/
def bufferSize : Nat := 256
/-- Most characters of one expanded notice (R59). -/
def noticeSize : Nat := 96
/-- Most bytes of one text of the text table (R75). -/
def textSize : Nat := 80
/-- Places of the request intake queue and of the reply queue (R160, R161). -/
def linkQueueSize : Nat := 4
/-- Frames waiting in the intake queue at which HOLD is asserted (R160). -/
def holdLevel : Nat := 3
/-- Record slots of the charge store (R143). -/
def storeSize : Nat := 2048
/-- Entries of the account table (R79). -/
def accountsSize : Nat := 1024
/-- Intervals of the detector's list (R26). -/
def intervalsSize : Nat := 24
/-- Longest run, in samples, that the detector takes as noise (R25). -/
def noiseSamples : Nat := 7
/-- Mark samples that end a character (R26). -/
def quietSamples : Nat := 4096
/-- Space samples that fail a character with NO_END (R26). -/
def longSpaceSamples : Nat := 65535
/-- Residue parts of one unit (07_connect_time_metering.md). -/
def residueParts : Nat := 28800

/-- 10 ms scan intervals of one second (R1). -/
def scansPerSecond : Nat := 100
/-- Carrier-loss persistence, 500 ms (R8). -/
def carrierLossScans : Nat := 50
/-- Hangup guard, 2 s (R10). -/
def guardScans : Nat := 200
/-- Drain timer, 30 s (R135). -/
def drainScans : Nat := 3000
/-- Rejecting timer, 10 s (R74). -/
def rejectingScans : Nat := 1000

/-- FREE VALUE: whether the RI of a line, high at the previous scan, is still high at a scan. The table has no
row for RI falling, so the level at a later scan is an input nothing constrains (log 5, DESIGN CHOICE, safe). -/
opaque riStillHigh : Nat → LineId → Bool

end Sys2Proof.Config
end

