-- ==== Sys2Proof/Machine/Types.lean ====
section
/-! DEFINITION. The data of the twelve blocks, as the chapters list it. -/

namespace Sys2Proof.Machine

/-! ### Lines (01_lines_and_calls.md) -/

/-- The eleven line states (section 1.1). -/
inductive LineState where
  | disabled | idle | answering | detecting | dialog | active | grace | draining | rejecting | hangup | lockout
  deriving DecidableEq, Repr

/-- The answered states, ANSWERING to REJECTING: DTR is high in these and low in the others (section 1.1, R2). -/
def LineState.answered : LineState → Bool
  | .answering | .detecting | .dialog | .active | .grace | .draining | .rejecting => true
  | .disabled | .idle | .hangup | .lockout => false

/-- The metered states (section 1.1). -/
def LineState.metered : LineState → Bool
  | .active | .grace => true
  | .disabled | .idle | .answering | .detecting | .dialog | .draining | .rejecting | .hangup | .lockout => false

/-- The states in which CD is watched (R8). -/
def LineState.watched : LineState → Bool
  | .detecting | .dialog | .active | .grace | .draining | .rejecting => true
  | .disabled | .idle | .answering | .hangup | .lockout => false

/-- Line mode (section 1.7). -/
inductive Mode where
  | auto | fixed
  deriving DecidableEq, Repr

/-- Character format (section 1.7, R33). -/
inductive Format where
  | f7E1 | f7O1 | f8N1
  deriving DecidableEq, Repr

/-- The configuration of a line (section 1.7). -/
structure LineConfig where
  mode : Mode
  fixedSpeed : SpeedCode
  format : Format
  /-- seconds -/
  carrierWait : Nat
  detAttempts : Nat
  /-- seconds -/
  detTime : Nat
  /-- seconds -/
  dialogLimit : Nat
  attemptLimit : Nat
  /-- minutes -/
  lockout : Nat
  /-- minutes; 0 is off -/
  inactivity : Nat
  echo : Bool
  fwdChars : List Byte
  /-- tenths of a second; 0 is off -/
  fwdTimer : Nat
  attention : Option Byte
  outPacing : Bool
  inPacing : Bool
  deriving DecidableEq, Repr

/-- The six tallies of a line (R20). -/
structure Tallies where
  parity : Nat
  framing : Nat
  overruns : Nat
  inputLost : Nat
  echoLost : Nat
  detFailures : Nat
  deriving DecidableEq, Repr

/-- LINE EVENT kinds (R16). -/
inductive LineEventKind where
  | answerFail | speedFail | dialogTimeout | refused | lockoutStart | lockoutEnd
  deriving DecidableEq, Repr

/-- Reasons of a refused sign-on (R16). -/
inductive RefusalReason where
  | service | storeFull | noFunds | limit
  deriving DecidableEq, Repr

/-! ### Speed detection and characters (02) -/

/-- Detector phases (section 2.1). -/
inductive DetPhase where
  | arming | waiting | measuring
  deriving DecidableEq, Repr

/-- The two levels of a line. -/
inductive Level where
  | space | mark
  deriving DecidableEq, Repr

/-- The opposite level. -/
def Level.flip : Level → Level
  | .space => .mark
  | .mark => .space

/-- Detection results (section 2.1). -/
inductive DetResult where
  | none | ok | noMatch | badChar | noEnd | tooMany
  deriving DecidableEq, Repr

/-- The speed detector's state for one line (section 2.1); its failure tally is `Tallies.detFailures`. -/
structure Detector where
  phase : DetPhase
  /-- completed runs in samples, in the order measured, the first being space -/
  intervals : List Nat
  cur : Nat
  curLevel : Level
  /-- bit k is the flag of speed code k -/
  presence : BitVec 8
  attempts : Nat
  last : DetResult
  timer : Timer
  deriving DecidableEq, Repr

/-- The character unit's state for one line (section 2.3); its tallies are in `Tallies`. -/
structure CharUnit where
  receiving : Bool
  speed : Option SpeedCode
  format : Format
  fifo : List Byte
  spaceTimer : Timer
  inputHeld : Bool
  outputStopped : Bool
  deriving DecidableEq, Repr

/-! ### Input and output (03) -/

/-- Why an input buffer was completed (R43). -/
inductive Cause where
  | fwdChar | full | timer
  deriving DecidableEq, Repr

/-- A completed input buffer in the held slot (section 3.1). -/
structure Buffer where
  bytes : List Byte
  cause : Cause
  deriving DecidableEq, Repr

/-- The six session copies (R129). -/
structure Copies where
  echo : Bool
  fwdChars : List Byte
  fwdTimer : Nat
  attention : Option Byte
  outPacing : Bool
  inPacing : Bool
  deriving DecidableEq, Repr

/-- The two prompts: text 1 and text 2 (section 4.2). -/
inductive Prompt where
  | user | password
  deriving DecidableEq, Repr

/-- The output delivery unit's state for one line (sections 3.4, 3.5, R56). An empty `noticeCur` is no notice
begun and an empty `noticeWait` no notice waiting, since a notice of no characters is never kept (R58). -/
structure Output where
  queue : List Byte
  armed : Bool
  noticeCur : List Byte
  noticeWait : List Byte
  /-- MODEL: the prompt that the waiting notice is, if it is one (R63). -/
  waitPrompt : Option Prompt
  control : Option Byte
  /-- the eight bits between start and stop bit of the character being sent, the first in bit 0 (R55) -/
  tx : Option Byte
  deriving DecidableEq, Repr

/-! ### Dialog (04) -/

/-- Dialog phases (section 4.1). -/
inductive DialogPhase where
  | name | password | waiting
  deriving DecidableEq, Repr

/-- The dialog timer: stopped, running, or held with its remaining time (section 4.1, R62, R71). -/
inductive HeldTimer where
  | stopped
  | running (scans : Nat)
  | held (scans : Nat)
  deriving DecidableEq, Repr

/-- The dialog controller's state for one line (section 4.1). -/
structure Dialog where
  phase : DialogPhase
  name : Name
  password : List Byte
  attempts : Nat
  attemptLimit : Nat
  timer : HeldTimer
  promptDue : Option Prompt
  matched : Option Name
  rejecting : Timer
  /-- MODEL: the name kept over a re-detection, still to be echoed after the prompt (R62). -/
  nameEcho : Name
  deriving DecidableEq, Repr

/-! ### Accounts, clock, tariff, meter (05, 06, 07) -/

/-- Account states (R87). -/
inductive AcctState where
  | opened | locked | suspended
  deriving DecidableEq, Repr

/-- Budget states (R81). -/
inductive BudgetState where
  | normal | warned | exhausted
  deriving DecidableEq, Repr

/-- Contents of a BUDGET pending flag (R85); the name is the entry's. -/
structure BudgetFlag where
  budget : Int
  state : BudgetState
  count : Nat
  deriving DecidableEq, Repr

/-- An entry of the account table (section 5.1). -/
structure Account where
  name : Name
  check : BitVec 32
  cls : Cls
  budget : Int
  overdraft : Nat
  limit : Nat
  state : AcctState
  failures : Nat
  failLimit : Nat
  bstate : BudgetState
  active : Nat
  notice : Option BudgetFlag
  deriving DecidableEq, Repr

/-- The clock (section 6.1). -/
structure Clock where
  day : BitVec 16
  second : Nat
  isSet : Bool
  offset : Int
  slew : Nat
  deriving DecidableEq, Repr

/-- Day types (R100). -/
inductive DayType where
  | weekday | holiday
  deriving DecidableEq, Repr

/-- Speed tiers (section 6.3). -/
inductive Tier where
  | low | medium | high
  deriving DecidableEq, Repr

/-- Close rounding rules (R120). -/
inductive Rounding where
  | down | nearest | up
  deriving DecidableEq, Repr

/-- An entry of a schedule: start minute and band (section 6.3). -/
structure SchedEntry where
  start : Nat
  band : Nat
  deriving DecidableEq, Repr

/-- A tariff set (section 6.3). -/
structure Tariff where
  bands : List (Vector Nat 4)
  weekday : List SchedEntry
  holiday : List SchedEntry
  weightLow : Nat
  weightMedium : Nat
  weightHigh : Nat
  setup : Vector Nat 4
  warn : Vector Nat 4
  grace : Nat
  rounding : Rounding
  deriving DecidableEq, Repr

/-- A meter record (section 7.1). -/
structure Meter where
  account : Name
  cls : Cls
  tier : Tier
  startDay : BitVec 16
  startSecond : Nat
  seconds : Nat
  units : Nat
  residue : Nat
  /-- seconds remaining, or stopped -/
  grace : Option Nat
  inactLimit : Nat
  inactCount : Nat
  clockSet : Bool
  saturated : Bool
  graceFlag : Bool
  deriving DecidableEq, Repr

/-- What exists while a session is open on a line (R128): meter record, session copies, input state. -/
structure Session where
  meter : Meter
  copies : Copies
  filling : List Byte
  /-- the closing cause of a CLOSED filling buffer; none while it is OPEN -/
  closed : Option Cause
  held : Option Buffer
  fwdTimer : Timer
  deriving DecidableEq, Repr

/-! ### End reasons, records, the charge store (08, 09) -/

/-- End reasons (R130), with LOST, which only a recovered record carries (R156). -/
inductive EndReason where
  | requested | carrierLost | inactivity | budget | linkLost | serviceClosed | lineDisabled | power | reset | lost
  deriving DecidableEq, Repr

/-- A charge: the fields that a charge record and a checkpoint entry share (sections 9.3, 9.4). -/
structure Charge where
  account : Name
  cls : Cls
  line : LineId
  speed : SpeedCode
  startDay : BitVec 16
  startSecond : Nat
  endDay : BitVec 16
  endSecond : Nat
  seconds : Nat
  units : Nat
  clockSet : Bool
  saturated : Bool
  graceFlag : Bool
  deriving DecidableEq, Repr

/-- A closed charge record (section 9.3). -/
structure Record where
  serial : BitVec 32
  charge : Charge
  reason : EndReason
  recovered : Bool
  deriving DecidableEq, Repr

/-- The retained contents of the charge store (section 9.1): the record list oldest first, the header, the
checkpoint entries. -/
structure Store where
  records : List Record
  count : Nat
  oldest : Nat
  nextSerial : BitVec 32
  integrity : Nat
  checkpoints : Vector (Option Charge) 48
  deriving DecidableEq, Repr

/-- The store's verdict at a start-up (R155). -/
inductive Verdict where
  | intact | lost
  deriving DecidableEq, Repr

/-! ### Reports and the host link (10, 11) -/

/-- LINE EVENT pending flag (R16, R163). -/
structure LineEventFlag where
  kind : LineEventKind
  count : Nat
  detail : Byte
  deriving DecidableEq, Repr

/-- END pending flag (R133). -/
structure EndFlag where
  tag : BitVec 16
  reason : EndReason
  serial : BitVec 32
  units : Nat
  seconds : Nat
  discarded : Nat
  deriving DecidableEq, Repr

/-- SIGNON pending flag (R72). -/
structure SignonFlag where
  tag : BitVec 16
  account : Name
  cls : Cls
  speed : SpeedCode
  startDay : BitVec 16
  startSecond : Nat
  /-- MODEL: the lines whose END the acceptance itself caused, and which this SIGNON therefore precedes (R72; log 41) -/
  ahead : List LineId
  deriving DecidableEq, Repr

/-- ATTENTION pending flag (R51). -/
structure AttentionFlag where
  tag : BitVec 16
  count : Nat
  inputLost : Nat
  outputLost : Nat
  deriving DecidableEq, Repr

/-- OUTPUT READY pending flag (R54). -/
structure OutputReadyFlag where
  tag : BitVec 16
  level : Nat
  deriving DecidableEq, Repr

/-- The pending reports of one line (R163). -/
structure LineReports where
  ended : Option EndFlag
  event : Option LineEventFlag
  signon : Option SignonFlag
  attention : Option AttentionFlag
  outReady : Option OutputReadyFlag
  deriving DecidableEq, Repr

/-- Everything the blocks keep for one line. -/
structure Line where
  state : LineState
  ri : Bool
  cd : Bool
  /-- the level being driven, written at each scan (R1) -/
  dtr : Bool
  carrierWait : Timer
  carrierLoss : Timer
  guard : Timer
  drain : Timer
  lockout : Timer
  disablePending : Bool
  lockoutDue : Bool
  config : LineConfig
  generation : BitVec 8
  tallies : Tallies
  detector : Detector
  unit : CharUnit
  out : Output
  dialog : Dialog
  session : Option Session
  /-- output and input pacing copies of the ended session, in DRAINING (R35, R128) -/
  endedPacing : Option (Bool × Bool)
  reports : LineReports
  deriving DecidableEq, Repr

/-- Start-up kinds (R170). -/
inductive StartKind where
  | powerOn | resetPin | resetRequest | powerRecovery
  deriving DecidableEq, Repr

/-- The READY report owed (R170). -/
structure Ready where
  kind : StartKind
  verdict : Verdict
  count : Nat
  recovered : Nat
  deriving DecidableEq, Repr

/-- Service states (section 10.4). -/
inductive Service where
  | closed | opened | linkLost | powerdown
  deriving DecidableEq, Repr

/-- Host-silence actions (R166). -/
inductive SilenceAction where
  | none | refuse | hangup
  deriving DecidableEq, Repr

/-- The mask: a class is masked where its field is true (R163). -/
structure Mask where
  outputReady : Bool
  budget : Bool
  lineEvent : Bool
  chargeLevel : Bool
  deriving DecidableEq, Repr

/-- A SERVICE EVENT flag: occurrence count and value A (R163, R173). -/
structure ServiceFlag where
  count : Nat
  value : Nat
  deriving DecidableEq, Repr

/-- The frame receiver (section 10.1): in LENGTH the length bytes already in, in BODY the two length bytes and
the body and check bytes already in. -/
inductive Receiver where
  | hunting
  | length (got : List Byte)
  | body (hi lo : Byte) (got : List Byte)
  deriving DecidableEq, Repr

/-- Result codes (R161). -/
inductive Result where
  | done | partly | stale | state | badField | notReady | inUse | tableFull | noSuch | unknown
  deriving DecidableEq, Repr

/-- A reply: kind, label, result, and the bytes after the result, its fields or its two detail bytes (R172). -/
structure Reply where
  kind : Byte
  label : Byte
  result : Result
  fields : List Byte
  deriving DecidableEq, Repr

/-- The link controller's state (10_the_host_link.md), but for the service state. -/
structure Link where
  receiver : Receiver
  intake : List (List Byte)
  replies : List Reply
  badLength : Nat
  timeout : Nat
  badCheck : Nat
  overflow : Nat
  ready : Option Ready
  powerWarning : Option ServiceFlag
  linkLost : Option ServiceFlag
  linkRestored : Option ServiceFlag
  chargesPending : Option ServiceFlag
  linePtr : LineId
  dataPtr : LineId
  budgetOrder : List Name
  /-- the frame being sent, from its start byte to its check -/
  tx : Option (List Byte)
  period : Nat
  action : SilenceAction
  mask : Mask
  chargeLevel : Nat
  monitor : Timer
  /-- the host-silence action that the last expiry applied, in force through the LINK_LOST it brought (R139, R166) -/
  applied : SilenceAction
  lostSessions : Nat
  deriving DecidableEq, Repr

/-- Whether the controller runs, is held by its RESET pin (R168), or has no power (R145). -/
inductive RunMode where
  | running | inReset | unpowered
  deriving DecidableEq, Repr

end Sys2Proof.Machine
end

