-- ==== Sys2Proof/Machine/Codes.lean ====
section
/-! DEFINITION. The codes of section 11.4 of 11_message_and_record_formats.md, both ways where a request
carries the field. -/

namespace Sys2Proof.Machine

/-- 0 or 1 (R171). -/
def boolCode (b : Bool) : Byte := if b then 1 else 0

/-- An on/off byte: 0 or 1, any other value out of range (R171). -/
def boolOf (b : Byte) : Option Bool := if b = 0 then some false else if b = 1 then some true else none

def Result.code : Result → Byte
  | .done => 0 | .partly => 1 | .stale => 2 | .state => 3 | .badField => 4 | .notReady => 5 | .inUse => 6
  | .tableFull => 7 | .noSuch => 8 | .unknown => 9

def EndReason.code : EndReason → Byte
  | .requested => 1 | .carrierLost => 2 | .inactivity => 3 | .budget => 4 | .linkLost => 5 | .serviceClosed => 6
  | .lineDisabled => 7 | .power => 8 | .reset => 9 | .lost => 10

def LineEventKind.code : LineEventKind → Byte
  | .answerFail => 1 | .speedFail => 2 | .dialogTimeout => 3 | .refused => 4 | .lockoutStart => 5 | .lockoutEnd => 6

def RefusalReason.code : RefusalReason → Byte
  | .service => 1 | .storeFull => 2 | .noFunds => 3 | .limit => 4

def DetResult.code : DetResult → Byte
  | .none => 0 | .ok => 1 | .noMatch => 2 | .badChar => 3 | .noEnd => 4 | .tooMany => 5

/-- Service state codes; POWERDOWN has none, since no STATUS is taken in it (R161). -/
def Service.code : Service → Byte
  | .closed => 0 | .opened => 1 | .linkLost => 2 | .powerdown => 0xFF

def LineState.code : LineState → Byte
  | .disabled => 0 | .idle => 1 | .answering => 2 | .detecting => 3 | .dialog => 4 | .active => 5 | .grace => 6
  | .draining => 7 | .rejecting => 8 | .hangup => 9 | .lockout => 10

/-- A speed code, or FFh for none. -/
def speedByte : Option SpeedCode → Byte
  | some k => BitVec.ofNat 8 k.val
  | none => 0xFF

def Format.code : Format → Byte
  | .f7E1 => 0 | .f7O1 => 1 | .f8N1 => 2

def Format.ofCode (b : Byte) : Option Format :=
  if b = 0 then some .f7E1 else if b = 1 then some .f7O1 else if b = 2 then some .f8N1 else none

def Mode.code : Mode → Byte
  | .auto => 0 | .fixed => 1

def Mode.ofCode (b : Byte) : Option Mode :=
  if b = 0 then some .auto else if b = 1 then some .fixed else none

/-- A speed code 0 to 7 in a request. -/
def speedOf (b : Byte) : Option SpeedCode := if h : b.toNat < 8 then some ⟨b.toNat, h⟩ else none

/-- A class 0 to 3 in a request. -/
def clsOf (b : Byte) : Option Cls := if h : b.toNat < 4 then some ⟨b.toNat, h⟩ else none

def Cause.code : Cause → Byte
  | .fwdChar => 1 | .full => 2 | .timer => 3

def BudgetState.code : BudgetState → Byte
  | .normal => 0 | .warned => 1 | .exhausted => 2

def AcctState.code : AcctState → Byte
  | .opened => 0 | .locked => 1 | .suspended => 2

def AcctState.ofCode (b : Byte) : Option AcctState :=
  if b = 0 then some .opened else if b = 1 then some .locked else if b = 2 then some .suspended else none

def Rounding.ofCode (b : Byte) : Option Rounding :=
  if b = 0 then some .down else if b = 1 then some .nearest else if b = 2 then some .up else none

def SilenceAction.code : SilenceAction → Byte
  | .none => 0 | .refuse => 1 | .hangup => 2

def SilenceAction.ofCode (b : Byte) : Option SilenceAction :=
  if b = 0 then some .none else if b = 1 then some .refuse else if b = 2 then some .hangup else Option.none

def StartKind.code : StartKind → Byte
  | .powerOn => 1 | .resetPin => 2 | .resetRequest => 3 | .powerRecovery => 4

def Verdict.code : Verdict → Byte
  | .intact => 0 | .lost => 1

/-- The index of a prompt's text (section 4.2 of 04). -/
def Prompt.text : Prompt → Fin 16
  | .user => 1
  | .password => 2

/-- Request codes (the kind table of 11_message_and_record_formats.md). -/
def kKeepalive : Byte := 0x01
def kStatus : Byte := 0x02
def kOpenService : Byte := 0x03
def kCloseService : Byte := 0x04
def kSetClock : Byte := 0x05
def kAdjustClock : Byte := 0x06
def kLoadTariff : Byte := 0x07
def kLoadText : Byte := 0x08
def kSetMonitor : Byte := 0x09
def kReset : Byte := 0x0A
def kConfigureLine : Byte := 0x10
def kEnableLine : Byte := 0x11
def kDisableLine : Byte := 0x12
def kLineStatus : Byte := 0x13
def kBroadcast : Byte := 0x14
def kLoadAccount : Byte := 0x18
def kDeleteAccount : Byte := 0x19
def kCreditAccount : Byte := 0x1A
def kReadAccount : Byte := 0x1B
def kSetAccountState : Byte := 0x1C
def kOutput : Byte := 0x20
def kSetSession : Byte := 0x21
def kEndSession : Byte := 0x22
def kReadCharges : Byte := 0x28
def kReleaseCharges : Byte := 0x29

/-- Every request code. -/
def requestKinds : List Byte :=
  [kKeepalive, kStatus, kOpenService, kCloseService, kSetClock, kAdjustClock, kLoadTariff, kLoadText, kSetMonitor,
   kReset, kConfigureLine, kEnableLine, kDisableLine, kLineStatus, kBroadcast, kLoadAccount, kDeleteAccount,
   kCreditAccount, kReadAccount, kSetAccountState, kOutput, kSetSession, kEndSession, kReadCharges, kReleaseCharges]

/-- Report codes. -/
def kReady : Byte := 0x40
def kServiceEvent : Byte := 0x41
def kLineData : Byte := 0x48
def kAttention : Byte := 0x49
def kSignon : Byte := 0x4A
def kSessionEnd : Byte := 0x4B
def kOutputReady : Byte := 0x4C
def kBudgetNotice : Byte := 0x4D
def kLineEvent : Byte := 0x4E

end Sys2Proof.Machine
end

