-- ==== Sys2Proof/Machine/Defaults.lean ====
section
/-! DEFINITION. The value of each piece of state after a start-up, as the chapters give it. -/

namespace Sys2Proof.Machine

/-- CR, LF, BS, SP, DEL, DC1, DC3 (section 4.2 of 00_scope.md). -/
def chCR : Byte := 0x0D
def chLF : Byte := 0x0A
def chBS : Byte := 0x08
def chSP : Byte := 0x20
def chDEL : Byte := 0x7F
def chDC1 : Byte := 0x11
def chDC3 : Byte := 0x13

/-- The defaults of section 1.7 of 01_lines_and_calls.md. -/
def LineConfig.default : LineConfig where
  mode := .auto
  fixedSpeed := 4
  format := .f7E1
  carrierWait := 30
  detAttempts := 4
  detTime := 30
  dialogLimit := 90
  attemptLimit := 3
  lockout := 5
  inactivity := 30
  echo := true
  fwdChars := [chCR]
  fwdTimer := 0
  attention := some 0x03
  outPacing := true
  inPacing := false

/-- All six tallies 0 (R21). -/
def Tallies.zero : Tallies := ⟨0, 0, 0, 0, 0, 0⟩

/-- The detector after a start-up (R23). The level of the empty current interval is mark, the level of a line
at rest (log 16, DESIGN CHOICE, safe). -/
def Detector.atStart : Detector where
  phase := .arming
  intervals := []
  cur := 0
  curLevel := .mark
  presence := 0
  attempts := 0
  last := .none
  timer := none

/-- The character unit after a start-up (R32). -/
def CharUnit.atStart : CharUnit where
  receiving := false
  speed := none
  format := LineConfig.default.format
  fifo := []
  spaceTimer := none
  inputHeld := false
  outputStopped := false

/-- The output delivery unit after a start-up (R53, R55, R56, R58). -/
def Output.atStart : Output := ⟨[], false, [], [], none, none, none⟩

/-- The dialog state after HANGUP and after a start-up (R62). The phase and the attempt limit, which have no
meaning there, are NAME and 0 (log 35, DESIGN CHOICE, safe). -/
def Dialog.cleared : Dialog where
  phase := .name
  name := []
  password := []
  attempts := 0
  attemptLimit := 0
  timer := .stopped
  promptDue := none
  matched := none
  rejecting := none
  nameEcho := []

/-- No report pending (R170). -/
def LineReports.clear : LineReports := ⟨none, none, none, none, none⟩

/-- A line after a start-up, with the levels of RI and CD that the first scan finds (R21). -/
def Line.atStart (ri cd : Bool) : Line where
  state := .hangup
  ri := ri
  cd := cd
  dtr := false
  carrierWait := none
  carrierLoss := none
  guard := some Config.guardScans
  drain := none
  lockout := none
  disablePending := false
  lockoutDue := false
  config := LineConfig.default
  generation := 0
  tallies := Tallies.zero
  detector := Detector.atStart
  unit := CharUnit.atStart
  out := Output.atStart
  dialog := Dialog.cleared
  session := none
  endedPacing := none
  reports := LineReports.clear

/-- The 48 lines after a start-up that reads the pins `p`. -/
def linesAtStart (p : Pins) : Vector Line 48 :=
  Vector.ofFn fun i => Line.atStart (p.ri.getLsbD i.val) (p.cd.getLsbD i.val)

/-- The clock after a start-up (R95). -/
def Clock.atStart : Clock := ⟨0, 0, false, 0, 0⟩

/-- The bytes of a text given as ASCII. -/
def asciiBytes (t : String) : List Byte := t.toList.map fun c => BitVec.ofNat 8 c.toNat

/-- CR LF. -/
def crLf : List Byte := [chCR, chLF]

/-- The default texts (R75). -/
def defaultTexts : Vector (List Byte) 16 :=
  #v[asciiBytes "CONNECTED" ++ crLf,
     asciiBytes "USER: ",
     asciiBytes "PASSWORD: ",
     asciiBytes "INVALID" ++ crLf,
     asciiBytes "NO FUNDS" ++ crLf,
     asciiBytes "LIMIT REACHED" ++ crLf,
     asciiBytes "SERVICE NOT AVAILABLE" ++ crLf,
     asciiBytes "BUDGET LOW ^" ++ crLf,
     asciiBytes "BUDGET EXHAUSTED ^" ++ crLf,
     asciiBytes "TIMED OUT ~" ++ crLf,
     asciiBytes "GOODBYE ~" ++ crLf,
     asciiBytes "TIME LIMIT" ++ crLf,
     asciiBytes "BUSY" ++ crLf,
     asciiBytes "BUDGET RESTORED ^" ++ crLf,
     [], []]

/-- The link controller after a start-up (R166, R170), owing the READY report `r`. The applied action, which no expiry
has set yet, is NONE (log 39, DESIGN CHOICE). -/
def Link.atStart (r : Option Ready) : Link where
  receiver := .hunting
  intake := []
  replies := []
  badLength := 0
  timeout := 0
  badCheck := 0
  overflow := 0
  ready := r
  powerWarning := none
  linkLost := none
  linkRestored := none
  chargesPending := none
  linePtr := 47
  dataPtr := 47
  budgetOrder := []
  tx := none
  period := 30
  action := .refuse
  mask := ⟨false, false, false, false⟩
  chargeLevel := 0
  monitor := none
  applied := .none
  lostSessions := 0

/-- The charge store emptied by a start-up with a bad header (R157); the integrity word of a header of zeros
is 65,535 (R144). -/
def Store.emptied : Store where
  records := []
  count := 0
  oldest := 0
  nextSerial := 0
  integrity := 65535
  checkpoints := Vector.replicate 48 none

end Sys2Proof.Machine
end

