-- ==== Sys2Proof/Machine/Wire.lean ====
section
/-! DEFINITION. Bytes on the host link: field encodings (R171), frames and their check (R158), and the bodies of
reports and charge records (R173). -/

namespace Sys2Proof.Machine

/-- A field of 2, 3 or 4 bytes, most significant byte first (R171). -/
def be16 (n : Nat) : List Byte := [BitVec.ofNat 8 (n / 256), BitVec.ofNat 8 n]
def be24 (n : Nat) : List Byte := [BitVec.ofNat 8 (n / 65536), BitVec.ofNat 8 (n / 256), BitVec.ofNat 8 n]
def be32 (n : Nat) : List Byte :=
  [BitVec.ofNat 8 (n / 16777216), BitVec.ofNat 8 (n / 65536), BitVec.ofNat 8 (n / 256), BitVec.ofNat 8 n]

/-- Signed fields, two's complement (R171). -/
def beInt16 (z : Int) : List Byte := be16 (BitVec.ofInt 16 z).toNat
def beInt32 (z : Int) : List Byte := be32 (BitVec.ofInt 32 z).toNat

/-- One byte. -/
def byteOf (n : Nat) : Byte := BitVec.ofNat 8 n

/-- A name padded on the right with spaces to 8 bytes (R171). -/
def padName (n : Name) : List Byte := (n ++ List.replicate 8 chSP).take 8

/-- Whether a character is a name character, A–Z or 0–9. -/
def isNameChar (c : Byte) : Bool := (0x41 ≤ c && c ≤ 0x5A) || (0x30 ≤ c && c ≤ 0x39)

/-- Forwarding characters: a count and always four bytes, unused ones 0 (R171). -/
def fwdField (cs : List Byte) : List Byte := byteOf cs.length :: (cs ++ List.replicate 4 0).take 4

/-- An optional character: presence and value, 0 when absent (R171). -/
def optCharField : Option Byte → List Byte
  | some c => [1, c]
  | none => [0, 0]

/-- The configuration block of 22 bytes (section 11.2). -/
def configBlock (c : LineConfig) : List Byte :=
  [c.mode.code, byteOf c.fixedSpeed.val, c.format.code, byteOf c.carrierWait, byteOf c.detAttempts, byteOf c.detTime]
  ++ be16 c.dialogLimit
  ++ [byteOf c.attemptLimit, byteOf c.lockout, byteOf c.inactivity, boolCode c.echo]
  ++ fwdField c.fwdChars ++ [byteOf c.fwdTimer] ++ optCharField c.attention
  ++ [boolCode c.outPacing, boolCode c.inPacing]

/-- The six session settings, 11 bytes (section 11.2). -/
def copiesBlock (c : Copies) : List Byte :=
  [boolCode c.echo] ++ fwdField c.fwdChars ++ [byteOf c.fwdTimer] ++ optCharField c.attention
  ++ [boolCode c.outPacing, boolCode c.inPacing]

/-- The flags byte of a charge record: CLOCK_SET in bit 0, then SATURATED, GRACE, RECOVERED (R173). -/
def flagsByte (c : Charge) (recovered : Bool) : Byte :=
  byteOf (c.clockSet.toNat + 2 * c.saturated.toNat + 4 * c.graceFlag.toNat + 8 * recovered.toNat)

/-- The 35 bytes that a charge record and a checkpoint entry lay out alike (R173). -/
def chargeBytes (serial : Nat) (c : Charge) (recovered : Bool) (reason : Byte) : List Byte :=
  be32 serial ++ padName c.account
  ++ [byteOf c.cls.val, byteOf c.line.val, byteOf c.speed.val, flagsByte c recovered]
  ++ be16 c.startDay.toNat ++ be24 c.startSecond ++ be16 c.endDay.toNat ++ be24 c.endSecond
  ++ be32 c.seconds ++ be32 c.units ++ [reason]

/-- A charge record, in the READ CHARGES reply and in its slot of retained memory (R173). -/
def recordBytes (r : Record) : List Byte := chargeBytes r.serial.toNat r.charge r.recovered r.reason.code

/-- A checkpoint entry in retained memory: serial and end reason written as 0, RECOVERED 0 (R173). -/
def checkpointBytes (c : Charge) : List Byte := chargeBytes 0 c false 0

/-! ### Frames (R158) -/

/-- One bit step of the CRC with generator 1021h, most significant bit first. -/
def crcStep (c : BitVec 16) : BitVec 16 := if c.msb then (c <<< 1) ^^^ 0x1021#16 else c <<< 1

/-- One byte into the CRC. -/
def crcByte (c : BitVec 16) (b : Byte) : BitVec 16 :=
  crcStep (crcStep (crcStep (crcStep (crcStep (crcStep (crcStep (crcStep (c ^^^ (b.setWidth 16 <<< 8)))))))))

/-- The check over the length bytes and the body: initial value FFFFh, no final inversion (R158). -/
def crc (bs : List Byte) : BitVec 16 := bs.foldl crcByte 0xFFFF#16

/-- The start byte (R158). -/
def startByte : Byte := 0xA5

/-- The frame of a body: start byte, length, body, check (R158). -/
def frameOf (body : List Byte) : List Byte :=
  let covered := be16 body.length ++ body
  startByte :: covered ++ be16 (crc covered).toNat

/-! ### Bodies -/

/-- A reply's body (R172). -/
def Reply.body (r : Reply) : List Byte := r.kind :: r.label :: r.result.code :: r.fields

/-- Report bodies (section 11.3): kind, label 0, fields. -/
def Ready.body (r : Ready) : List Byte :=
  [kReady, 0, r.kind.code, r.verdict.code] ++ be16 r.count ++ [byteOf r.recovered]

def serviceEventBody (kind : Byte) (count a b : Nat) : List Byte :=
  [kServiceEvent, 0, kind, byteOf count] ++ be16 a ++ be16 b

def lineDataBody (tag : BitVec 16) (b : Buffer) : List Byte :=
  [kLineData, 0] ++ be16 tag.toNat ++ [b.cause.code] ++ be16 b.bytes.length ++ b.bytes

def AttentionFlag.body (f : AttentionFlag) : List Byte :=
  [kAttention, 0] ++ be16 f.tag.toNat ++ [byteOf f.count] ++ be16 f.inputLost ++ be16 f.outputLost

def SignonFlag.body (f : SignonFlag) : List Byte :=
  [kSignon, 0] ++ be16 f.tag.toNat ++ padName f.account ++ [byteOf f.cls.val, byteOf f.speed.val]
  ++ be16 f.startDay.toNat ++ be24 f.startSecond

def EndFlag.body (f : EndFlag) : List Byte :=
  [kSessionEnd, 0] ++ be16 f.tag.toNat ++ [f.reason.code] ++ be32 f.serial.toNat ++ be32 f.units ++ be32 f.seconds
  ++ be16 f.discarded

def OutputReadyFlag.body (f : OutputReadyFlag) : List Byte :=
  [kOutputReady, 0] ++ be16 f.tag.toNat ++ be16 f.level

def budgetNoticeBody (name : Name) (f : BudgetFlag) : List Byte :=
  [kBudgetNotice, 0] ++ padName name ++ beInt32 f.budget ++ [f.state.code, byteOf f.count]

def lineEventBody (line : LineId) (f : LineEventFlag) : List Byte :=
  [kLineEvent, 0, byteOf line.val, f.kind.code, byteOf f.count, f.detail]

end Sys2Proof.Machine
end

