-- ==== Sys2Proof/Machine/Operands.lean ====
section
/-! DEFINITION. Reading the fields of a request body in the order of its layout (R171), and the checks of the
fields that stand in more than one request. Each reader answers none where the body is too short for its layout;
surplus bytes are ignored. -/

namespace Sys2Proof.Machine

/-- Fields of one to four bytes, most significant byte first, with the bytes that follow (R171). -/
def u8 : List Byte → Option (Byte × List Byte)
  | b :: r => some (b, r)
  | [] => none

def u16 : List Byte → Option (Nat × List Byte)
  | a :: b :: r => some (a.toNat * 256 + b.toNat, r)
  | _ => none

def u24 : List Byte → Option (Nat × List Byte)
  | a :: b :: c :: r => some (a.toNat * 65536 + b.toNat * 256 + c.toNat, r)
  | _ => none

def u32 : List Byte → Option (Nat × List Byte)
  | a :: b :: c :: d :: r => some (a.toNat * 16777216 + b.toNat * 65536 + c.toNat * 256 + d.toNat, r)
  | _ => none

/-- Signed fields, two's complement (R171). -/
def s16 (bs : List Byte) : Option (Int × List Byte) := (u16 bs).map fun p => ((BitVec.ofNat 16 p.1).toInt, p.2)
def s32 (bs : List Byte) : Option (Int × List Byte) := (u32 bs).map fun p => ((BitVec.ofNat 32 p.1).toInt, p.2)

/-- A string of exactly n bytes (R171). -/
def takeBytes (n : Nat) (bs : List Byte) : Option (List Byte × List Byte) :=
  if n ≤ bs.length then some (bs.take n, bs.drop n) else none

/-- n fields of one kind, one after another. -/
def many {α : Type} (read : List Byte → Option (α × List Byte)) : Nat → List Byte → Option (List α × List Byte)
  | 0, bs => some ([], bs)
  | n + 1, bs => do
    let (a, r) ← read bs
    let (as, r) ← many read n r
    some (a :: as, r)

/-- The name in an 8-byte field, if it is well formed (R79, R171). -/
def nameOf (field : List Byte) : Option Name :=
  let n := field.takeWhile (· ≠ chSP)
  if n ≠ [] ∧ n.all isNameChar ∧ (field.drop n.length).all (· = chSP) then some n else none

/-- An 8-byte name field, and what it names if it is well formed. -/
def readName (bs : List Byte) : Option (Option Name × List Byte) := (takeBytes 8 bs).map fun p => (nameOf p.1, p.2)

/-- A forwarding character field: count and four characters; none inside if the count is above 4 (R171). -/
def readFwd : List Byte → Option (Option (List Byte) × List Byte)
  | n :: a :: b :: c :: d :: r => some (if n.toNat ≤ 4 then some ([a, b, c, d].take n.toNat) else none, r)
  | _ => none

/-- An optional character: none inside if the presence byte is neither 0 nor 1 (R171). -/
def readOptChar : List Byte → Option (Option (Option Byte) × List Byte)
  | p :: c :: r => some (if p = 0 then some none else if p = 1 then some (some c) else none, r)
  | _ => none

/-- A line number 0 to 47. -/
def lineOf (b : Byte) : Option LineId := if h : b.toNat < 48 then some ⟨b.toNat, h⟩ else none

/-- A checked field, or the number of the field that failed. -/
def orField {α : Type} (n : Nat) : Option α → Except Nat α
  | some a => .ok a
  | none => .error n

/-! ### The configuration block (section 11.2) -/

/-- The fields of CONFIGURE LINE after the line, unchecked. -/
structure RawConfig where
  mode : Byte
  speed : Byte
  format : Byte
  carrierWait : Byte
  detAttempts : Byte
  detTime : Byte
  dialogLimit : Nat
  attemptLimit : Byte
  lockout : Byte
  inactivity : Byte
  echo : Byte
  fwd : Option (List Byte)
  fwdTimer : Byte
  attention : Option (Option Byte)
  outPacing : Byte
  inPacing : Byte
  deriving DecidableEq, Repr

/-- The configuration block read. -/
def readConfig (bs : List Byte) : Option RawConfig := do
  let (mode, r) ← u8 bs
  let (speed, r) ← u8 r
  let (format, r) ← u8 r
  let (carrierWait, r) ← u8 r
  let (detAttempts, r) ← u8 r
  let (detTime, r) ← u8 r
  let (dialogLimit, r) ← u16 r
  let (attemptLimit, r) ← u8 r
  let (lockout, r) ← u8 r
  let (inactivity, r) ← u8 r
  let (echo, r) ← u8 r
  let (fwd, r) ← readFwd r
  let (fwdTimer, r) ← u8 r
  let (attention, r) ← readOptChar r
  let (outPacing, r) ← u8 r
  let (inPacing, _) ← u8 r
  some ⟨mode, speed, format, carrierWait, detAttempts, detTime, dialogLimit, attemptLimit, lockout, inactivity, echo,
    fwd, fwdTimer, attention, outPacing, inPacing⟩

/-- A limit field clamped to the nearer end of its range (R17). -/
def clampField (lo hi n : Nat) : Nat := if n < lo then lo else if hi < n then hi else n

/-- The checks and clamps of R17 on the block: the configuration as taken, or the number of the first enumerated
field that fails (the line is field 1, R172). -/
def RawConfig.check (c : RawConfig) : Except Nat LineConfig := do
  let mode ← orField 2 (Mode.ofCode c.mode)
  let speed ← orField 3 (speedOf c.speed)
  let format ← orField 4 (Format.ofCode c.format)
  let echo ← orField 12 (boolOf c.echo)
  let fwd ← orField 13 c.fwd
  let attention ← orField 15 c.attention
  let outPacing ← orField 16 (boolOf c.outPacing)
  let inPacing ← orField 17 (boolOf c.inPacing)
  .ok {
    mode := mode
    fixedSpeed := speed
    format := format
    carrierWait := clampField 5 60 c.carrierWait.toNat
    detAttempts := clampField 1 9 c.detAttempts.toNat
    detTime := clampField 10 60 c.detTime.toNat
    dialogLimit := clampField 30 300 c.dialogLimit
    attemptLimit := clampField 1 9 c.attemptLimit.toNat
    lockout := clampField 0 60 c.lockout.toNat
    inactivity := clampField 0 240 c.inactivity.toNat
    echo := echo
    fwdChars := fwd
    fwdTimer := c.fwdTimer.toNat
    attention := attention
    outPacing := outPacing
    inPacing := inPacing }

/-! ### The session settings of SET SESSION -/

/-- The six settings, unchecked. -/
structure RawCopies where
  echo : Byte
  fwd : Option (List Byte)
  fwdTimer : Byte
  attention : Option (Option Byte)
  outPacing : Byte
  inPacing : Byte
  deriving DecidableEq, Repr

def readCopies (bs : List Byte) : Option RawCopies := do
  let (echo, r) ← u8 bs
  let (fwd, r) ← readFwd r
  let (fwdTimer, r) ← u8 r
  let (attention, r) ← readOptChar r
  let (outPacing, r) ← u8 r
  let (inPacing, _) ← u8 r
  some ⟨echo, fwd, fwdTimer, attention, outPacing, inPacing⟩

/-- The field checks of R129 in their order; the tag is field 1 (R172). -/
def RawCopies.check (c : RawCopies) : Except Nat Copies := do
  let echo ← orField 2 (boolOf c.echo)
  let fwd ← orField 3 c.fwd
  let attention ← orField 5 c.attention
  let outPacing ← orField 6 (boolOf c.outPacing)
  let inPacing ← orField 7 (boolOf c.inPacing)
  .ok ⟨echo, fwd, c.fwdTimer.toNat, attention, outPacing, inPacing⟩

/-! ### The tariff set of LOAD TARIFF -/

/-- A tariff set as carried, unchecked. -/
structure RawTariff where
  bandCount : Nat
  rates : List Nat
  weekday : List (Nat × Byte)
  holiday : List (Nat × Byte)
  weights : List Byte
  setup : List Nat
  warn : List Nat
  grace : Nat
  rounding : Byte
  deriving DecidableEq, Repr

/-- A schedule entry: start minute and band. -/
def readEntry (bs : List Byte) : Option ((Nat × Byte) × List Byte) := do
  let (start, r) ← u16 bs
  let (band, r) ← u8 r
  some ((start, band), r)

/-- A schedule: its count and entries. -/
def readSchedule (bs : List Byte) : Option (List (Nat × Byte) × List Byte) := do
  let (n, r) ← u8 bs
  many readEntry n.toNat r

def readTariff (bs : List Byte) : Option RawTariff := do
  let (b, r) ← u8 bs
  let (rates, r) ← many u16 (4 * b.toNat) r
  let (weekday, r) ← readSchedule r
  let (holiday, r) ← readSchedule r
  let (weights, r) ← many u8 3 r
  let (setup, r) ← many u16 4 r
  let (warn, r) ← many u32 4 r
  let (grace, r) ← u16 r
  let (rounding, _) ← u8 r
  some ⟨b.toNat, rates, weekday, holiday, weights, setup, warn, grace, rounding⟩

/-- The first start of a schedule that R104 refuses, from entry `k` with the start before it. -/
def badStart : Nat → Option Nat → List (Nat × Byte) → Option Nat
  | _, _, [] => none
  | k, none, (start, _) :: rest => if start ≠ 0 then some k else badStart (k + 1) (some start) rest
  | k, some before, (start, _) :: rest =>
    if 1439 < start ∨ start ≤ before then some k else badStart (k + 1) (some start) rest

/-- A violation: the item number of R104 and the position byte of R172. -/
abbrev Violation := Nat × Nat

/-- A violation of `item` at the first element that fails. -/
def firstBad {α : Type} (item base : Nat) (bad : α → Bool) (xs : List α) : Option Violation :=
  (xs.findIdx? bad).map fun k => (item, base + k)

/-- Items 3 to 5 for one schedule, whose day type is `day` (R104, R172). -/
def checkSchedule (day bandCount : Nat) (sched : List (Nat × Byte)) : Option Violation :=
  (if sched.length < 1 ∨ 6 < sched.length then some (3, day * 16) else none)
  <|> ((badStart 0 none sched).map fun k => (4, day * 16 + k))
  <|> firstBad 5 (day * 16) (fun e => bandCount ≤ e.2.toNat) sched

/-- The first violation of a tariff set in the order of R104. -/
def RawTariff.violation (t : RawTariff) : Option Violation :=
  (if t.bandCount < 1 ∨ 8 < t.bandCount then some (1, 0) else none)
  <|> firstBad 2 0 (fun r => 60000 < r) t.rates
  <|> checkSchedule 0 t.bandCount t.weekday
  <|> checkSchedule 1 t.bandCount t.holiday
  <|> firstBad 6 0 (fun w => w.toNat < 1 || 32 < w.toNat) t.weights
  <|> firstBad 7 0 (fun c => 9999 < c) t.setup
  <|> firstBad 8 0 (fun w => 1000000 < w) t.warn
  <|> (if 900 < t.grace then some (9, 0) else none)
  <|> (if (Rounding.ofCode t.rounding).isNone then some (10, 0) else none)

/-- Four values in class order. -/
def vec4 (xs : List Nat) : Vector Nat 4 := #v[xs.getD 0 0, xs.getD 1 0, xs.getD 2 0, xs.getD 3 0]

/-- The tariff set of a load that passes the checks. -/
def RawTariff.tariff (t : RawTariff) : Tariff where
  bands := (List.range t.bandCount).map fun b => vec4 (t.rates.drop (4 * b))
  weekday := t.weekday.map fun e => ⟨e.1, e.2.toNat⟩
  holiday := t.holiday.map fun e => ⟨e.1, e.2.toNat⟩
  weightLow := (t.weights.getD 0 0).toNat
  weightMedium := (t.weights.getD 1 0).toNat
  weightHigh := (t.weights.getD 2 0).toNat
  setup := vec4 t.setup
  warn := vec4 t.warn
  grace := t.grace
  rounding := (Rounding.ofCode t.rounding).getD .down

end Sys2Proof.Machine
end

