-- ==== Sys2Proof/Machine/State.lean ====
section
/-! DEFINITION. The state of the controller, the reasons it can stop, and the state after reset. -/

namespace Sys2Proof.Machine

/-- The whole state of the part: volatile state, retained charge store, and the model's own queue of commands,
order choices and scan counter. -/
structure State where
  mode : RunMode
  pfw : Bool
  strap : Fin 4
  service : Service
  link : Link
  clock : Clock
  tariff : Option Tariff
  texts : Vector (List Byte) 16
  accounts : List Account
  lines : Vector Line 48
  store : Store
  readMark : Nat
  chargeArmed : Bool
  /-- MODEL, free value: the orders of the choices the manual leaves to "any order", next first (log 13). -/
  orders : List (List Nat)
  /-- MODEL, free-value counter: scans passed, to which the RI level at a scan is applied (log 5). -/
  scans : Nat
  /-- MODEL: the commands that wait, first in first out. -/
  pending : List Instr
  deriving DecidableEq, Repr

/-- Faults: the part has none (INVENTORY.md, Faults); no command stops it. -/
inductive Fault where
  deriving DecidableEq, Repr

/-- Refusals. -/
inductive Refusal where
  /-- Raised by an arm of `exec` whose command has no meaning yet; safe. No arm raises it. -/
  | notModelled (mnemonic : String)
  deriving DecidableEq, Repr

/-- The part right after a start-up of kind POWER_ON on a retained memory never used, whose header is bad
(R157, R170). The pins it read, which no rule fixes, are straps 0, RI and CD low on every line and PFW clear
(log 9, DESIGN CHOICE, unsafe). -/
def State.reset : State where
  mode := .running
  pfw := false
  strap := 0
  service := .closed
  link := Link.atStart (some ⟨.powerOn, .lost, 0, 0⟩)
  clock := Clock.atStart
  tariff := none
  texts := defaultTexts
  accounts := []
  lines := linesAtStart ⟨0, 0, 0⟩
  store := Store.emptied
  readMark := 0
  chargeArmed := false
  orders := []
  scans := 0
  pending := []

end Sys2Proof.Machine
end

