-- ==== Sys2Proof/Machine/Flags.lean ====
section
/-! DEFINITION. Saturating counts and the setting of pending reports, each flag updated in place while it is
still pending (R163). -/

namespace Sys2Proof.Machine

/-- A saturating sum (section 4.3 of 00_scope.md). -/
def satAdd (cap a b : Nat) : Nat := min cap (a + b)

/-- The limits of 8-, 16- and 32-bit counts. -/
def max8 : Nat := 255
def max16 : Nat := 65535
def max32 : Nat := 4294967295

/-- The limits of a budget (R80). -/
def budgetMax : Int := 2147483647
def budgetMin : Int := -2147483648

/-- A budget kept within its limits (R80). -/
def satBudget (z : Int) : Int := if budgetMax < z then budgetMax else if z < budgetMin then budgetMin else z

/-- LINE EVENT set pending: the latest kind and detail replace the old, the count rises (R163). -/
def Line.raiseEvent (kind : LineEventKind) (detail : Byte) (l : Line) : Line :=
  let count := match l.reports.event with
    | some f => satAdd max8 f.count 1
    | none => 1
  { l with reports := { l.reports with event := some ⟨kind, count, detail⟩ } }

/-- ATTENTION set pending or accumulated (R51). -/
def addAttention (old : Option AttentionFlag) (tag : BitVec 16) (inLost outLost : Nat) : AttentionFlag :=
  match old with
  | some f => { tag := tag, count := satAdd max8 f.count 1, inputLost := satAdd max16 f.inputLost inLost,
                outputLost := satAdd max16 f.outputLost outLost }
  | none => { tag := tag, count := 1, inputLost := satAdd max16 0 inLost, outputLost := satAdd max16 0 outLost }

/-- A SERVICE EVENT set pending with value `v`; `sum` adds it to the value held, saturating (LINK_RESTORED), else
it replaces that value (R163, R173). -/
def raiseService (old : Option ServiceFlag) (v : Nat) (sum : Bool) : Option ServiceFlag :=
  match old with
  | some f => some { count := satAdd max8 f.count 1, value := if sum then satAdd max16 f.value v else v }
  | none => some { count := 1, value := v }

/-- BUDGET set pending, or its contents replaced and its count raised (R85). -/
def raiseBudget (old : Option BudgetFlag) (budget : Int) (st : BudgetState) : BudgetFlag :=
  { budget := budget
    state := st
    count := match old with
      | some f => satAdd max8 f.count 1
      | none => 1 }

end Sys2Proof.Machine
end

