-- ==== Sys2Proof/Machine/Ops.lean ====
section
/-! DEFINITION. The operations every command is built from: reading and writing lines, moving a line between
states, placing texts, echo, admission, requests to the line scanner. -/

namespace Sys2Proof.Machine

/-- The outcome of a command. -/
abbrev Out := Host.Outcome State Fault Refusal

/-- The meaning of every command but those of the supply and the RESET pin: `f` while the controller runs, nothing
while its RESET pin holds it or it has no power (R145, R168; log 11). -/
def State.whenRunning (f : State → State) (s : State) : Out := .next (if s.mode = .running then f s else s)

/-! ### Lines -/

/-- The 48 lines in line order. -/
def allLines : List LineId := List.finRange 48

/-- A line's state. -/
def State.line (s : State) (i : LineId) : Line := s.lines.get i

/-- A line's state replaced. -/
def State.setLine (s : State) (i : LineId) (l : Line) : State := { s with lines := s.lines.set i.val l i.isLt }

/-- A line's state changed by `f`. -/
def State.updLine (s : State) (i : LineId) (f : Line → Line) : State := s.setLine i (f (s.line i))

/-- Several lines changed, each by `f` of its number. -/
def State.updLines (s : State) (is : List LineId) (f : LineId → Line → Line) : State :=
  is.foldl (fun s i => s.updLine i (f i)) s

/-- A line with DTR as a scan writes it for the line state (R1, R2). -/
def Line.drive (l : Line) : Line := { l with dtr := l.state.answered }

/-- A scan of the latch bus writes DTR of all 48 lines (R1). The commands that are a scan's own finding, and those that
come at the end of a time counted in scans, hold it before they act (log 8). -/
def State.scan (s : State) : State := { s with lines := s.lines.map Line.drive }

/-- The expiry of a timer of one line, which is found at a scan: where `due` says that the timer runs, the scan, and then
`act` on the line; nothing otherwise (log 3). -/
def State.lineExpiry (i : LineId) (due : Line → Bool) (act : Line → Line) (s : State) : Out := s.whenRunning fun s =>
  if due (s.line i) then s.scan.updLine i act else s

/-- The lines in ACTIVE or GRACE, in line order. -/
def State.meteredLines (s : State) : List LineId := allLines.filter fun i => (s.line i).state.metered

/-- HOLD, asserted while 3 or more frames wait (R160). -/
def State.hold (s : State) : Bool := Config.holdLevel ≤ s.link.intake.length

/-- `xs` in the order of the priorities `prio`: first those whose key is listed, in the list's order, then the
rest as they stand. It is a permutation of `xs` whatever `prio` is. -/
def arrange {α : Type} [DecidableEq α] (key : α → Nat) (prio : List Nat) (xs : List α) : List α :=
  let first := (prio.filterMap fun k => xs.find? fun x => key x = k).dedup
  first ++ xs.filter fun x => !first.contains x

/-- The next free order (log 13): `xs` in it, and the state without it. -/
def State.takeOrder {α : Type} [DecidableEq α] (key : α → Nat) (xs : List α) (s : State) : List α × State :=
  (arrange key (s.orders.headD []) xs, { s with orders := s.orders.tail })

/-- The tag of a line's current session: line number × 256 + generation (R126). -/
def tagOf (i : LineId) (g : BitVec 8) : BitVec 16 := BitVec.ofNat 16 (i.val * 256 + g.toNat)

/-! ### Moves of a line -/

/-- A line enters the state `st`: the carrier-loss timer stops when the watched states are left (R8). DTR follows at
the next scan (R1, `State.scan`). -/
def Line.goto (st : LineState) (l : Line) : Line :=
  { l with state := st, carrierLoss := if st.watched then l.carrierLoss else none }

/-- The detector's part when a line leaves DETECTING (R23). -/
def Detector.leave (d : Detector) : Detector := { d with timer := none, intervals := [] }

/-- The detector's part when a line enters DETECTING (R23). -/
def Detector.enter (c : LineConfig) : Detector :=
  { Detector.atStart with timer := some (c.detTime * Config.scansPerSecond) }

/-- The character unit begins receiving (R32). -/
def CharUnit.start (sp : SpeedCode) (f : Format) (u : CharUnit) : CharUnit :=
  { u with receiving := true, speed := some sp, format := f, fifo := [], spaceTimer := none }

/-- The character unit stops receiving (R32). -/
def CharUnit.stop (u : CharUnit) : CharUnit :=
  { u with receiving := false, speed := none, fifo := [], spaceTimer := none, inputHeld := false,
           outputStopped := false }

/-- The output queue, the notice slot and the control slot emptied; the transmitter finishes the character it is
sending (R10, R53, R55). -/
def Output.discard (o : Output) : Output := { Output.atStart with tx := o.tx }

/-- Entry to HANGUP from any state (R10, R32, R62). -/
def Line.hangup (l : Line) : Line :=
  { l.goto .hangup with
    guard := some Config.guardScans
    carrierWait := none
    drain := none
    detector := l.detector.leave
    unit := l.unit.stop
    out := l.out.discard
    dialog := Dialog.cleared
    endedPacing := none }

/-- Whether the output a line in REJECTING or DRAINING waits for is sent (R61). -/
def Line.outputDone (l : Line) : Bool :=
  l.out.noticeCur.isEmpty && l.out.noticeWait.isEmpty && l.out.control.isNone && l.out.tx.isNone
  && (l.state != .draining || l.out.queue.isEmpty)

/-- The completion test of R61: a line in REJECTING or DRAINING whose output is sent goes to HANGUP. -/
def Line.settle (l : Line) : Line :=
  if (l.state = .rejecting ∨ l.state = .draining) ∧ l.outputDone = true then l.hangup else l

/-- Entry to REJECTING (R62, R74), the refusal text already placed; it may complete at once (R61). -/
def Line.toRejecting (l : Line) : Line :=
  Line.settle { l.goto .rejecting with
    carrierWait := none
    detector := l.detector.leave
    dialog := { l.dialog with name := [], password := [], timer := .stopped, promptDue := none, nameEcho := [],
                              rejecting := some Config.rejectingScans } }

/-- Entry to DETECTING (R5, R23). -/
def Line.toDetecting (l : Line) : Line :=
  { l.goto .detecting with carrierWait := none, detector := Detector.enter l.config }

/-- The dialog timer held with the time it has left (R62, R71). -/
def HeldTimer.hold : HeldTimer → HeldTimer
  | .running n => .held n
  | t => t

/-- A held dialog timer running on (R62, R71). -/
def HeldTimer.resume : HeldTimer → HeldTimer
  | .held n => .running n
  | t => t

/-- A line in DIALOG on an AUTO line taken back to DETECTING by a BREAK (R15, R32, R39, R53, R62). -/
def Line.redetect (l : Line) : Line :=
  { l.toDetecting with
    unit := l.unit.stop
    out := l.out.discard
    dialog := { l.dialog with timer := l.dialog.timer.hold, promptDue := none, nameEcho := [] } }

/-- A line leaves HANGUP, its guard expired and CD low: to DISABLED, LOCKOUT or IDLE (R11, R12). -/
def Line.leaveHangup (l : Line) : Line :=
  if l.disablePending then { l.goto .disabled with disablePending := false, lockoutDue := false }
  else if l.lockoutDue ∧ l.config.lockout ≠ 0 then
    Line.raiseEvent .lockoutStart (byteOf l.config.lockout)
      { l.goto .lockout with lockoutDue := false, lockout := some (l.config.lockout * 60 * Config.scansPerSecond) }
  else { l.goto .idle with lockoutDue := false }

/-! ### Texts -/

/-- Decimal digits, most significant first, no leading zeros; `fuel` bounds their number. -/
def digits : Nat → Nat → List Byte
  | 0, _ => []
  | fuel + 1, n => if n < 10 then [byteOf (48 + n)] else digits fuel (n / 10) ++ [byteOf (48 + n % 10)]

/-- A number in decimal, "0" for zero (R59). -/
def decimal (n : Nat) : List Byte := digits 20 n

/-- A budget in signed decimal (R59). -/
def signedDecimal (z : Int) : List Byte := if z < 0 then 0x2D :: decimal (-z).toNat else decimal z.toNat

/-- One byte of a text expanded: ^ to the budget, ~ to the units, nothing where they are absent (R59). -/
def expandByte (budget : Option Int) (units : Option Nat) (b : Byte) : List Byte :=
  if b = 0x5E then (budget.map signedDecimal).getD []
  else if b = 0x7E then (units.map decimal).getD []
  else [b]

/-- A text expanded, at most 96 characters (R59). -/
def expand (budget : Option Int) (units : Option Nat) (text : List Byte) : List Byte :=
  (text.flatMap (expandByte budget units)).take Config.noticeSize

/-- An expanded text placed in the notice slot: it becomes the waiting notice, replacing any (R58); on a line
without speed it is discarded as it is placed (R55). -/
def Line.place (chars : List Byte) (l : Line) : Line :=
  if l.unit.speed.isSome then { l with out := { l.out with noticeWait := chars, waitPrompt := none } } else l

/-- Whether the notice slot holds no notice (R63). -/
def Line.slotEmpty (l : Line) : Bool := l.out.noticeCur.isEmpty && l.out.noticeWait.isEmpty

/-- An echo placed whole at the tail of the output queue, or dropped whole and tallied (R52). -/
def Line.echo (chars : List Byte) (l : Line) : Line :=
  if l.out.queue.length + chars.length ≤ Config.queueSize then
    { l with out := { l.out with queue := l.out.queue ++ chars } }
  else { l with tallies := { l.tallies with echoLost := satAdd max16 l.tallies.echoLost chars.length } }

/-- The dialog controller's echo, made only when the line configuration's echo is on (section 4.3). -/
def Line.dialogEcho (chars : List Byte) (l : Line) : Line := if l.config.echo then l.echo chars else l

/-- The due prompt placed if the notice slot holds no notice (R63). A prompt of no characters clears prompt due
when it is placed. After the user prompt a name kept over a re-detection is echoed (R62; log 23). -/
def Line.placeDue (texts : Vector (List Byte) 16) (l : Line) : Line :=
  match l.dialog.promptDue with
  | none => l
  | some p =>
    if l.slotEmpty then
      let chars := expand none none (texts.get p.text)
      let l := if chars.isEmpty then { l with dialog := { l.dialog with promptDue := none } }
               else { l with out := { l.out with noticeWait := chars, waitPrompt := some p } }
      if p = .user then
        { l.dialog.nameEcho.foldl (fun l c => l.dialogEcho [c]) l with dialog := { l.dialog with nameEcho := [] } }
      else l
    else l

/-- A text of the table placed on a line with its markers' values (R59, R60). -/
def State.placeText (s : State) (i : LineId) (k : Fin 16) (budget : Option Int) (units : Option Nat) : State :=
  s.updLine i (Line.place (expand budget units (s.texts.get k)))

/-! ### Admission -/

/-- Entry to DIALOG (R62): a first entry of the call, or a re-entry after a BREAK, which the held dialog timer
shows (log 24). The name to be echoed after the prompt is the one kept at the re-entry, whatever is typed or erased
before the prompt is placed (log 23, DESIGN CHOICE). -/
def Line.toDialog (texts : Vector (List Byte) 16) (l : Line) : Line :=
  let d : Dialog := match l.dialog.timer with
    | .held n => { l.dialog with phase := .name, timer := .running n, promptDue := some .user,
                                 nameEcho := l.dialog.name }
    | _ => { Dialog.cleared with attemptLimit := l.config.attemptLimit, promptDue := some .user,
                                 timer := .running (l.config.dialogLimit * Config.scansPerSecond) }
  let l := { l.goto .dialog with carrierWait := none, detector := l.detector.leave, dialog := d }
  (l.place (expand none none (texts.get 0))).placeDue texts

/-- A line refused with text 6 into REJECTING (R6, R15, R73). R60's table has no row for the text 6 of a service change;
it has no marker account and no marker session, as that of a refused admission (log 38, DESIGN CHOICE). -/
def State.refuseLine (s : State) (i : LineId) : State :=
  s.updLine i fun l => (l.place (expand none none (s.texts.get 6))).toRejecting

/-- Whether a line whose speed has become known is admitted (R6): in LINK_LOST by the action that the expiry applied
(R139, R166). POWERDOWN, which cannot be found there, is refused (log 32). -/
def State.admits (s : State) : Bool :=
  match s.service, s.link.applied with
  | .opened, _ => true
  | .linkLost, .none => true
  | .linkLost, .refuse | .linkLost, .hangup | .closed, _ | .powerdown, _ => false

/-- Admission of a line whose speed has become known (R6). -/
def State.admitLine (s : State) (i : LineId) : State :=
  if s.admits then s.updLine i (Line.toDialog s.texts) else s.refuseLine i

/-- Dialogs refused by a service change: every line in DIALOG or DETECTING (R15, R138, R139). -/
def State.dialogLines (s : State) : List LineId :=
  allLines.filter fun i => (s.line i).state = .dialog ∨ (s.line i).state = .detecting

def State.refuseDialogs (s : State) : State := s.dialogLines.foldl State.refuseLine s

/-- Every answered line that holds no session goes to HANGUP (R140, R141). -/
def State.hangupAnswered (s : State) : State :=
  s.updLines allLines fun _ l => if l.state.answered ∧ ¬ l.state.metered then l.hangup else l

end Sys2Proof.Machine
end

