-- ==== Sys2Proof/Machine/Store.lean ====
section
/-! DEFINITION. The charge store (09_the_charge_store.md): header, appends, checkpoints, release, recovery. -/

namespace Sys2Proof.Machine

/-- A carry out of 16 bits added back into the lowest bit. -/
def endAround (n : Nat) : Nat := n % 65536 + n / 65536

/-- The integrity word of a header: 65,535 minus the ones'-complement sum of its four 16-bit quantities (R144).
Two end-around additions fit any sum of four. -/
def integrityOf (count oldest : Nat) (serial : BitVec 32) : Nat :=
  65535 - endAround (endAround (count % 65536 + oldest % 65536 + serial.toNat / 65536 + serial.toNat % 65536))

/-- The header's judgement (R144). -/
def Store.headerGood (st : Store) : Bool :=
  st.integrity = integrityOf st.count st.oldest st.nextSerial && st.count ≤ Config.storeSize
  && st.oldest < Config.storeSize

/-- The header rewritten whole with a fresh integrity word (R144). -/
def Store.writeHeader (st : Store) (count oldest : Nat) (serial : BitVec 32) : Store :=
  { st with count := count, oldest := oldest, nextSerial := serial, integrity := integrityOf count oldest serial }

/-- The slot of the k-th record of the list (R143). -/
def Store.slotOf (st : Store) (k : Nat) : Nat := (st.oldest + k) % Config.storeSize

/-- The record in a slot, if it holds one (R143). -/
def Store.slot (st : Store) (n : Nat) : Option Record :=
  if n < Config.storeSize then st.records[(n + Config.storeSize - st.oldest % Config.storeSize) % Config.storeSize]?
  else none

/-- The header in retained memory, each field most significant byte first (R171), in the order in which R144 names
them (log 31, DESIGN CHOICE: no rule gives the header's layout). -/
def Store.headerBytes (st : Store) : List Byte :=
  be16 st.count ++ be16 st.oldest ++ be32 st.nextSerial.toNat ++ be16 st.integrity

/-- The bytes of a record slot in retained memory, where it holds a record (R143, R173). -/
def Store.slotBytes (st : Store) (n : Nat) : Option (List Byte) := (st.slot n).map recordBytes

/-- The bytes of a line's checkpoint entry in retained memory, where it is valid; the validity is kept apart from them
(R173). -/
def Store.entryBytes (st : Store) (i : LineId) : Option (List Byte) := (st.checkpoints.get i).map checkpointBytes

/-- A line's checkpoint entry. -/
def Store.checkpoint (st : Store) (i : LineId) : Option Charge := st.checkpoints.get i

/-- A line's checkpoint entry written or cleared. -/
def Store.setCheckpoint (st : Store) (i : LineId) (c : Option Charge) : Store :=
  { st with checkpoints := st.checkpoints.set i.val c i.isLt }

/-- The number of valid checkpoint entries. -/
def Store.validCount (st : Store) : Nat := (allLines.filter fun i => (st.checkpoint i).isSome).length

/-- Closed records and valid checkpoint entries together (R148). -/
def Store.sum (st : Store) : Nat := st.count + st.validCount

/-- An append with the clearing of the line's entry, one update (R145, R146). -/
def Store.append (st : Store) (i : LineId) (c : Charge) (r : EndReason) (recovered : Bool) : Store :=
  let st' : Store := { st with records := st.records ++ [⟨st.nextSerial, c, r, recovered⟩] }
  (st'.writeHeader (st.count + 1) st.oldest (st.nextSerial + 1)).setCheckpoint i none

/-- The removal of the n oldest records, one update (R152); none for n = 0. -/
def Store.release (st : Store) (n : Nat) : Store :=
  if n = 0 then st
  else Store.writeHeader { st with records := st.records.drop n } (st.count - n)
    ((st.oldest + n) % Config.storeSize) st.nextSerial

/-- The conversion of one line's entry at start-up (R156), with the number recovered so far. -/
def Store.convert (p : Store × Nat) (i : LineId) : Store × Nat :=
  match p.1.checkpoint i with
  | none => p
  | some c =>
    if p.1.count < Config.storeSize then (p.1.append i c .lost true, p.2 + 1) else (p.1.setCheckpoint i none, p.2)

/-- What a start-up makes of the retained memory (R155 to R157): the store, the verdict, the recovered count. -/
def Store.startUp (st : Store) : Store × Verdict × Nat :=
  if st.headerGood then
    let p := allLines.foldl Store.convert (st, 0)
    (p.1, .intact, p.2)
  else (Store.emptied, .lost, 0)

/-- Contents that give a bad header: a store of zeros, integrity word included (R157; log 12). -/
def Store.bad : Store := { Store.emptied with integrity := 0 }

/-- The charge-level test after an append (R154). The report reads its values when it is sent (R153). -/
def State.testChargeLevel (s : State) : State :=
  if s.chargeArmed ∧ s.link.chargeLevel ≤ s.store.count then
    { s with chargeArmed := false
             link := { s.link with chargesPending := raiseService s.link.chargesPending 0 false } }
  else s

end Sys2Proof.Machine
end

