-- ==== Sys2Proof/Machine/Sessions.lean ====
section
/-! DEFINITION. Accounts and their budget states (05), the opening and the end sequence of sessions (04, 08). -/

namespace Sys2Proof.Machine

/-! ### The account table -/

/-- A name as a number, its 8 padded characters most significant first: the order in which the model lists the
table, which has no order of its own (R79; log 31). -/
def nameKey (n : Name) : Nat := (padName n).foldl (fun v b => v * 256 + b.toNat) 0

/-- The entry of a name. -/
def State.account? (s : State) (n : Name) : Option Account := s.accounts.find? fun a => a.name = n

/-- A new entry put into the list in its place. -/
def insertAccount (a : Account) (xs : List Account) : List Account :=
  let before (b : Account) : Bool := decide (nameKey b.name < nameKey a.name)
  xs.takeWhile before ++ a :: xs.dropWhile before

/-- An entry put into the list, replacing one of the same name. -/
def storeAccount (a : Account) (xs : List Account) : List Account :=
  if xs.any fun b => b.name = a.name then xs.map fun b => if b.name = a.name then a else b else insertAccount a xs

/-- An entry added or replaced. -/
def State.putAccount (s : State) (a : Account) : State := { s with accounts := storeAccount a s.accounts }

/-- The account name of a line's session. -/
def Line.account? (l : Line) : Option Name := l.session.map fun ses => ses.meter.account

/-- The lines of the sessions of an account, in line order (section 5.1). -/
def State.sessionsOf (s : State) (n : Name) : List LineId :=
  s.meteredLines.filter fun i => (s.line i).account? = some n

/-- The warning level of a class: the tariff's, or 0 while none is held (R81, R102). -/
def State.warnLevel (s : State) (c : Cls) : Nat :=
  match s.tariff with
  | some t => t.warn.get c
  | none => 0

/-- The budget state a budget, an overdraft allowance and a warning level give (R81). -/
def budgetStateOf (budget : Int) (overdraft warn : Nat) : BudgetState :=
  if budget < -(overdraft : Int) then .exhausted else if budget < warn then .warned else .normal

/-- A transition of an account's budget state. -/
structure Transition where
  account : Name
  old : BudgetState
  new : BudgetState
  deriving DecidableEq, Repr

/-- The re-evaluation of an account (R81): the transition, if it makes one, with the entry's new state and its
BUDGET flag set or updated (R85); an account joins the BUDGET order when its flag is set (R163). The transition's
effects on sessions are `State.applyTransition`. -/
def State.reevaluate (s : State) (n : Name) : State × Option Transition :=
  match s.account? n with
  | none => (s, none)
  | some a =>
    let st := budgetStateOf a.budget a.overdraft (s.warnLevel a.cls)
    if st = a.bstate then (s, none)
    else
      let s' := s.putAccount { a with bstate := st, notice := some (raiseBudget a.notice a.budget st) }
      let order := if a.notice.isNone then s.link.budgetOrder ++ [n] else s.link.budgetOrder
      ({ s' with link := { s.link with budgetOrder := order } }, some ⟨n, a.bstate, st⟩)

/-- A debit (negative for a credit) with saturation, and its re-evaluation (R80, R81). -/
def State.debit (s : State) (n : Name) (amount : Int) : State × Option Transition :=
  match s.account? n with
  | none => (s, none)
  | some a => (s.putAccount { a with budget := satBudget (a.budget - amount) }).reevaluate n

/-! ### The end sequence -/

/-- The rounding unit of a residue (R120). -/
def Rounding.unit : Rounding → Nat → Nat
  | .down, _ => 0
  | .nearest, r => if 14400 ≤ r then 1 else 0
  | .up, r => if 0 < r then 1 else 0

/-- The rounding unit by the tariff in force; there is one whenever a session exists (R108). -/
def State.roundingUnit (s : State) (residue : Nat) : Nat :=
  match s.tariff with
  | some t => t.rounding.unit residue
  | none => 0

/-- The closed charge handed to the charge store (R121), with units `u` and SATURATED `sat`. -/
def State.closedCharge (s : State) (i : LineId) (m : Meter) (u : Nat) (sat : Bool) : Charge where
  account := m.account
  cls := m.cls
  line := i
  speed := (s.line i).unit.speed.getD 0
  startDay := m.startDay
  startSecond := m.startSecond
  endDay := s.clock.day
  endSecond := s.clock.second
  seconds := m.seconds
  units := u
  clockSet := m.clockSet
  saturated := sat
  graceFlag := m.graceFlag

/-- The text of an end reason (R130). -/
def EndReason.text : EndReason → Option (Fin 16)
  | .requested | .budget | .serviceClosed | .lineDisabled => some 10
  | .inactivity => some 9
  | .linkLost => some 6
  | .carrierLost | .power | .reset | .lost => none

/-- Whether an end takes the line straight to HANGUP (R130, R135). -/
def EndReason.hangsUp : EndReason → Bool
  | .carrierLost | .power | .reset => true
  | .requested | .inactivity | .budget | .linkLost | .serviceClosed | .lineDisabled | .lost => false

/-- Input pacing released when the FIFO becomes empty while input held is set: DC1 in the control slot (R38). -/
def Line.releaseInput (l : Line) : Line :=
  if l.unit.inputHeld then
    { l with unit := { l.unit with inputHeld := false }, out := { l.out with control := some chDC1 } }
  else l

/-- The bytes of input a session holds: FIFO, filling buffer, held buffer (R48, R49). -/
def Line.inputBytes (l : Line) (ses : Session) : Nat :=
  l.unit.fifo.length + ses.filling.length + (match ses.held with | some b => b.bytes.length | none => 0)

/-- Steps 4 to 6 of the end sequence on the line (R131): the input discarded and tallied, the flags of the
session withdrawn, the queue kept or emptied, END set pending. -/
def Line.endInput (l : Line) (ses : Session) (keepQueue : Bool) (flag : Nat → EndFlag) : Line :=
  let n := l.inputBytes ses
  let l1 := Line.releaseInput { l with
    unit := { l.unit with fifo := [] }
    tallies := { l.tallies with inputLost := satAdd max16 l.tallies.inputLost n } }
  { l1 with
    session := none
    endedPacing := some (ses.copies.outPacing, ses.copies.inPacing)
    out := { l1.out with armed := false, queue := if keepQueue then l1.out.queue else [] }
    reports := { l1.reports with attention := none, outReady := none, ended := some (flag (satAdd max16 0 n)) } }

/-- Step 8 of the end sequence: DRAINING with the drain timer started, where the line may complete at once
(R61, R135), or HANGUP. -/
def Line.endMove (hangUp : Bool) (l : Line) : Line :=
  if hangUp then l.hangup else Line.settle { l.goto .draining with drain := some Config.drainScans }

/-- The end sequence of a line's session (R131), but for the effects on other sessions of the transition that its
closing debit makes, which is handed back (R120, R137). A line without a session is left as it is. -/
def State.endSession (s : State) (i : LineId) (r : EndReason) (keepQueue : Bool) : State × Option Transition :=
  match (s.line i).session with
  | none => (s, none)
  | some ses =>
    let m := ses.meter
    -- 1 close
    let ru := s.roundingUnit m.residue
    let units := satAdd max32 m.units ru
    let sat := m.saturated || decide (max32 < m.units + ru)
    let charge := s.closedCharge i m units sat
    let (s1, tr) := s.debit m.account ru
    -- 2 record
    let serial := s1.store.nextSerial
    let s2 := State.testChargeLevel { s1 with store := s1.store.append i charge r false }
    -- 3 place
    let s3 : State := match s2.account? m.account with
      | some a => s2.putAccount { a with active := a.active - 1 }
      | none => s2
    -- 4, 5, 6 input, tag and output, report
    let tag := tagOf i (s3.line i).generation
    let s4 := s3.updLine i fun l =>
      l.endInput ses keepQueue fun n => ⟨tag, r, serial, units, m.seconds, n⟩
    -- 7 text
    let s5 : State := match r.text with
      | some k => s4.placeText i k ((s4.account? m.account).map Account.budget) (some units)
      | none => s4
    -- 8 line
    (s5.updLine i (Line.endMove r.hangsUp), tr)

/-- Several sessions ended one after another, the effects of their closing debits' transitions finding no session
left or making none (R83, R137). -/
def State.endEach (r : EndReason) (s : State) (is : List LineId) : State :=
  is.foldl (fun s i => (s.endSession i r false).1) s

/-- A line's session's units, for the ~ marker. -/
def Line.units? (l : Line) : Option Nat := l.session.map fun ses : Session => ses.meter.units

/-- A text placed on every session of an account, with the account and that session as markers (R60, R82). -/
def State.noticeSessions (s : State) (n : Name) (k : Fin 16) : State :=
  let budget := (s.account? n).map Account.budget
  s.updLines (s.sessionsOf n) fun _ l => l.place (expand budget l.units? (s.texts.get k))

/-- A session's meter record changed. -/
def Line.updMeter (f : Meter → Meter) (l : Line) : Line :=
  { l with session := l.session.map fun ses => { ses with meter := f ses.meter } }

/-- A session enters grace (R83). -/
def Line.enterGrace (g : Nat) (l : Line) : Line :=
  Line.updMeter (fun m => { m with grace := some g, graceFlag := true }) (l.goto .grace)

/-- A session leaves grace: its timer stops, its GRACE flag stays set (R84). -/
def Line.leaveGrace (l : Line) : Line :=
  Line.updMeter (fun m => { m with grace := none }) (l.goto .active)

/-- The grace time of the tariff in force (R83); an account with sessions always has one. -/
def State.graceTime (s : State) : Nat :=
  match s.tariff with
  | some t => t.grace
  | none => 0

/-- The entry of an account into EXHAUSTED (R83): grace for each session, or with a grace time of 0 its end with
BUDGET, one after another in a free order. -/
def State.beginGrace (s : State) (n : Name) : State :=
  if s.graceTime = 0 then
    let p := s.takeOrder (fun i : LineId => i.val) (s.sessionsOf n)
    p.2.endEach .budget p.1
  else s.updLines (s.sessionsOf n) fun _ l => l.enterGrace s.graceTime

/-- The exit of an account from EXHAUSTED (R84). -/
def State.endGrace (s : State) (n : Name) : State := s.updLines (s.sessionsOf n) fun _ l => l.leaveGrace

/-- The effects of a transition on every session of its account (R82). -/
def State.applyTransition (s : State) (t : Transition) : State :=
  match t.old, t.new with
  | .normal, .warned => s.noticeSessions t.account 7
  | .normal, .exhausted | .warned, .exhausted => (s.noticeSessions t.account 8).beginGrace t.account
  | .exhausted, .normal | .exhausted, .warned => (s.endGrace t.account).noticeSessions t.account 13
  | .warned, .normal | .normal, .normal | .warned, .warned | .exhausted, .exhausted => s

/-- The effects of a transition, if there is one. -/
def State.applyEffects (p : State × Option Transition) : State :=
  match p.2 with
  | some t => p.1.applyTransition t
  | none => p.1

/-- A single end: the end sequence, then the effects of its closing debit's transition on the account's remaining
sessions (R120, R131). -/
def State.endOne (s : State) (i : LineId) (r : EndReason) (keepQueue : Bool) : State :=
  State.applyEffects (s.endSession i r keepQueue)

/-- A mass end: every session ended for one reason, in a free order (R137). -/
def State.massEnd (s : State) (r : EndReason) : State :=
  let p := s.takeOrder (fun i : LineId => i.val) s.meteredLines
  p.2.endEach r p.1

/-! ### Opening a session -/

/-- The session copies of a line configuration's session defaults (R41). -/
def LineConfig.copies (c : LineConfig) : Copies :=
  ⟨c.echo, c.fwdChars, c.fwdTimer, c.attention, c.outPacing, c.inPacing⟩

/-- The tier of a speed code (section 6.3 of 06). -/
def tierOf (sp : SpeedCode) : Tier := if sp.val ≤ 2 then .low else if sp.val ≤ 5 then .medium else .high

/-- The setup charge of a class (R119). -/
def State.setupCharge (s : State) (c : Cls) : Nat :=
  match s.tariff with
  | some t => t.setup.get c
  | none => 0

/-- The meter record of a new session (R110). -/
def newMeter (a : Name) (c : Cls) (sp : SpeedCode) (clk : Clock) (setup inactMinutes : Nat) : Meter where
  account := a
  cls := c
  tier := tierOf sp
  startDay := clk.day
  startSecond := clk.second
  seconds := 0
  units := setup
  residue := 0
  grace := none
  inactLimit := inactMinutes * 60
  inactCount := 0
  clockSet := false
  saturated := false
  graceFlag := false

/-- The checkpoint entry of a new session (R147). -/
def newCheckpoint (i : LineId) (m : Meter) (sp : SpeedCode) : Charge where
  account := m.account
  cls := m.cls
  line := i
  speed := sp
  startDay := m.startDay
  startSecond := m.startSecond
  endDay := m.startDay
  endSecond := m.startSecond
  seconds := 0
  units := m.units
  clockSet := false
  saturated := false
  graceFlag := false

/-- The line's part of an acceptance, steps 5 to 8 of R72, under the new generation. -/
def Line.accept (i : LineId) (m : Meter) (sp : SpeedCode) (l : Line) : Line :=
  { l.goto .active with
    session := some ⟨m, l.config.copies, [], none, none, none⟩
    dialog := { l.dialog with timer := .stopped, name := [], password := [], promptDue := none, nameEcho := [] }
    out := { l.out with armed := false }
    reports := { l.reports with
      signon := some ⟨tagOf i l.generation, m.account, m.cls, sp, m.startDay, m.startSecond, []⟩ } }

/-- The lines whose session is in `s` and no longer in `t`. -/
def State.endedLines (s t : State) : List LineId :=
  allLines.filter fun j => (s.line j).session.isSome && (t.line j).session.isNone

/-- The line's SIGNON put ahead of the END of each of the lines `js` (R72; log 41). -/
def Line.announceAhead (js : List LineId) (l : Line) : Line :=
  { l with reports := { l.reports with signon := l.reports.signon.map fun f => { f with ahead := js } } }

/-- Acceptance of a sign-on to the account `a` (R72), its transition's effects last. The SIGNON stays ahead of every END
that those effects cause (log 41). -/
def State.accept (s : State) (i : LineId) (a : Account) : State :=
  let sp := (s.line i).unit.speed.getD 0
  let setup := s.setupCharge a.cls
  -- 1 generation
  let s1 := s.updLine i fun l => { l with generation := l.generation + 1 }
  -- 2 place
  let s2 := s1.putAccount { a with active := a.active + 1 }
  -- 3 setup charge
  let (s3, tr) := s2.debit a.name setup
  -- 4 checkpoint, 5 to 8 meter, copies, line, SIGNON
  let m := newMeter a.name a.cls sp s3.clock setup (s3.line i).config.inactivity
  let s4 := { s3 with store := s3.store.setCheckpoint i (some (newCheckpoint i m sp)) }
  let s5 := s4.updLine i (Line.accept i m sp)
  -- 9 failure count
  let s6 : State := match s5.account? a.name with
    | some b => s5.putAccount { b with failures := 0 }
    | none => s5
  let s7 := State.applyEffects (s6, tr)
  s7.updLine i (Line.announceAhead (s6.endedLines s7))

end Sys2Proof.Machine
end

