-- ==== Sys2Proof/Machine/Requests.lean ====
section
/-! DEFINITION. The taking of requests (R161, R172), and the requests of service, clock, tariff, texts and
monitor. -/

namespace Sys2Proof.Machine

/-- A result with the bytes that follow it in the reply: the fields of DONE and PARTIAL, the two detail bytes of
every other (R172). -/
abbrev Answer := Result × List Byte

/-- DONE with fields. -/
def answerDone (fields : List Byte) : Answer := (.done, fields)

/-- BAD_FIELD naming a field; field 0 is a short body (R171, R172). -/
def answerBad (field : Nat) : Answer := (.badField, [byteOf field, 0])

/-- Any other result, details 0 (R172). -/
def answerOf (r : Result) : Answer := (r, [0, 0])

/-- What a block makes of a request: the bytes after kind and label, and the state with the frame removed. -/
abbrev Handler := List Byte → State → State × Answer

/-- A reply placed at the tail of the reply queue (R161). -/
def State.pushReply (s : State) (r : Reply) : State := { s with link := { s.link with replies := s.link.replies ++ [r] } }

/-- Whether the link controller takes requests: not in POWERDOWN, and only with a free place in the reply queue
(R161). -/
def State.mayTake (s : State) : Bool := s.service != .powerdown && s.link.replies.length < Config.linkQueueSize

/-- The head of the intake queue removed. -/
def State.dropFrame (s : State) : State := { s with link := { s.link with intake := s.link.intake.tail } }

/-- The kind, label and fields of the frame at the head of the intake queue. -/
def State.headFrame (s : State) : Option (Byte × Byte × List Byte) :=
  match s.link.intake with
  | (kind :: label :: fields) :: _ => some (kind, label, fields)
  | _ => none

/-- A request of code `code` taken from the head of the intake queue and answered (R161, R172). Where the head is
no such request, or none may be taken, nothing happens (log 4). -/
def State.takeRequest (code : Byte) (handle : Handler) (s : State) : State :=
  match s.headFrame with
  | some (kind, label, fields) =>
    if s.mayTake ∧ kind = code ∧ label ≠ 0 then
      let p := handle fields s.dropFrame
      p.1.pushReply ⟨code + 0x80, label, p.2.1, p.2.2⟩
    else s
  | none => s

/-- A handler's work on its fields, or BAD_FIELD with field 0 where the body is too short (R161). -/
def withFields {α : Type} (read : Option α) (s : State) (act : α → State × Answer) : State × Answer :=
  match read with
  | some a => act a
  | none => (s, answerBad 0)

/-- KEEPALIVE (R167). -/
def keepaliveReq : Handler := fun _ s => (s, answerDone [])
def execKeepalive (s : State) : Out := s.whenRunning (State.takeRequest kKeepalive keepaliveReq)

/-- The fields of the STATUS reply (R167). -/
def State.statusFields (s : State) : List Byte :=
  [s.service.code] ++ be16 s.clock.day.toNat ++ be24 s.clock.second ++ [boolCode s.clock.isSet]
  ++ beInt16 s.clock.offset ++ [boolCode s.tariff.isSome] ++ be16 s.accounts.length
  ++ [byteOf s.meteredLines.length] ++ be16 s.store.count ++ [byteOf s.store.validCount] ++ be16 s.readMark
  ++ [byteOf s.link.period, s.link.action.code, boolCode s.link.mask.outputReady, boolCode s.link.mask.budget,
      boolCode s.link.mask.lineEvent, boolCode s.link.mask.chargeLevel]
  ++ be16 s.link.chargeLevel ++ be16 s.link.badLength ++ be16 s.link.timeout ++ be16 s.link.badCheck
  ++ be16 s.link.overflow

/-- STATUS: the link tallies captured and cleared (R167). -/
def statusReq : Handler := fun _ s =>
  ({ s with link := { s.link with badLength := 0, timeout := 0, badCheck := 0, overflow := 0 } },
   answerDone s.statusFields)
def execStatus (s : State) : Out := s.whenRunning (State.takeRequest kStatus statusReq)

/-- The host-silence monitor started at its period, or stopped where the period is 0 (R165). -/
def Link.startMonitor (k : Link) : Link :=
  { k with monitor := if k.period = 0 then none else some (k.period * Config.scansPerSecond) }

/-- OPEN SERVICE (R108, R164). -/
def openServiceReq : Handler := fun _ s =>
  match s.service with
  | .closed =>
    if s.clock.isSet ∧ s.tariff.isSome then
      ({ s with service := .opened, link := s.link.startMonitor }, answerDone [])
    else (s, (.notReady, [boolCode s.clock.isSet, boolCode s.tariff.isSome]))
  | .opened => (s, answerDone [])
  | .linkLost | .powerdown => (s, answerOf .state)
def execOpenService (s : State) : Out := s.whenRunning (State.takeRequest kOpenService openServiceReq)

/-- CLOSE SERVICE (R138, R164): option 0 is STOP, 1 is END_ALL. In CLOSED no dialogs are refused (log 28). -/
def closeServiceReq : Handler := fun f s => withFields (u8 f) s fun (opt, _) =>
  if opt ≠ 0 ∧ opt ≠ 1 then (s, answerBad 1)
  else
    let ended := if opt = 1 then s.meteredLines.length else 0
    let refused := if s.service = .closed then 0 else s.dialogLines.length
    let s1 := if opt = 1 then s.massEnd .serviceClosed else s
    let s2 := if s.service = .closed then s1 else
      { s1.refuseDialogs with service := .closed, link := { s1.refuseDialogs.link with monitor := none } }
    (s2, answerDone [byteOf ended, byteOf refused])
def execCloseService (s : State) : Out := s.whenRunning (State.takeRequest kCloseService closeServiceReq)

/-- SET CLOCK (R98). -/
def readSetClock (f : List Byte) : Option (Nat × Nat) := do
  let (day, r) ← u16 f
  let (second, _) ← u24 r
  some (day, second)

def setClockReq : Handler := fun f s => withFields (readSetClock f) s fun (day, second) =>
  if 86399 < second then (s, answerBad 2)
  else
    let flagged := s.meteredLines
    let s' := s.updLines flagged fun _ l => l.updMeter fun m => { m with clockSet := true }
    ({ s' with clock := ⟨BitVec.ofNat 16 day, second, true, 0, 0⟩ },
     answerDone (be16 day ++ be24 second ++ [byteOf flagged.length]))
def execSetClock (s : State) : Out := s.whenRunning (State.takeRequest kSetClock setClockReq)

/-- ADJUST CLOCK (R99). -/
def clampOffset (z : Int) : Int := if z < -300 then -300 else if 300 < z then 300 else z

def adjustClockReq : Handler := fun f s => withFields (s16 f) s fun (z, _) =>
  if s.clock.isSet then
    ({ s with clock := { s.clock with offset := clampOffset z, slew := 0 } }, answerDone (beInt16 (clampOffset z)))
  else (s, answerOf .notReady)
def execAdjustClock (s : State) : Out := s.whenRunning (State.takeRequest kAdjustClock adjustClockReq)

/-- The re-evaluation of one account and its effects on sessions (R81, R82). -/
def State.reevaluateAct (s : State) (n : Name) : State := State.applyEffects (s.reevaluate n)

/-- The re-evaluation of every account after a load, in a free order (R106). -/
def State.reevaluateAll (s : State) : State :=
  let names := s.accounts.map Account.name
  let p := s.takeOrder (fun n => names.idxOf n) names
  p.1.foldl State.reevaluateAct p.2

/-- LOAD TARIFF (R104 to R106). -/
def loadTariffReq : Handler := fun f s => withFields (readTariff f) s fun raw =>
  match raw.violation with
  | some (item, pos) => (s, (.badField, [byteOf item, byteOf pos]))
  | none =>
    (State.reevaluateAll { s with tariff := some raw.tariff },
     answerDone [byteOf raw.bandCount, byteOf raw.weekday.length, byteOf raw.holiday.length])
def execLoadTariff (s : State) : Out := s.whenRunning (State.takeRequest kLoadTariff loadTariffReq)

/-- LOAD TEXT (R76): mode 0 is FIRST, 1 is APPEND. A result above 80 bytes names the count, field 3 (log 27). -/
def readLoadText (f : List Byte) : Option (Byte × Byte × List Byte) := do
  let (index, r) ← u8 f
  let (mode, r) ← u8 r
  let (n, r) ← u8 r
  let (bytes, _) ← takeBytes n.toNat r
  some (index, mode, bytes)

def loadTextReq : Handler := fun f s => withFields (readLoadText f) s fun (index, mode, bytes) =>
  if h : index.toNat < 16 then
    if mode ≠ 0 ∧ mode ≠ 1 then (s, answerBad 2)
    else
      let text := if mode = 0 then bytes else s.texts.get ⟨index.toNat, h⟩ ++ bytes
      if Config.textSize < text.length then (s, answerBad 3)
      else ({ s with texts := s.texts.set index.toNat text h }, answerDone [index, byteOf text.length])
  else (s, answerBad 1)
def execLoadText (s : State) : Out := s.whenRunning (State.takeRequest kLoadText loadTextReq)

/-- SET MONITOR (R154, R166). The four mask bytes are fields 3 to 6 (log 27). -/
def readSetMonitor (f : List Byte) : Option (Byte × Byte × Byte × Byte × Byte × Byte × Nat) := do
  let (period, r) ← u8 f
  let (action, r) ← u8 r
  let (m1, r) ← u8 r
  let (m2, r) ← u8 r
  let (m3, r) ← u8 r
  let (m4, r) ← u8 r
  let (level, _) ← u16 r
  some (period, action, m1, m2, m3, m4, level)

def checkMonitor (action m1 m2 m3 m4 : Byte) : Except Nat (SilenceAction × Mask) := do
  let a ← orField 2 (SilenceAction.ofCode action)
  let b1 ← orField 3 (boolOf m1)
  let b2 ← orField 4 (boolOf m2)
  let b3 ← orField 5 (boolOf m3)
  let b4 ← orField 6 (boolOf m4)
  .ok (a, ⟨b1, b2, b3, b4⟩)

def setMonitorReq : Handler := fun f s =>
  withFields (readSetMonitor f) s fun (period, action, m1, m2, m3, m4, level) =>
    match checkMonitor action m1 m2 m3 m4 with
    | .error n => (s, answerBad n)
    | .ok (a, mask) =>
      let l := min level Config.storeSize
      let k : Link := { s.link with period := period.toNat, action := a, mask := mask, chargeLevel := l }
      ({ s with link := if s.service = .opened then k.startMonitor else k
                chargeArmed := l ≠ 0 && s.store.count < l },
       answerDone ([period, a.code, m1, m2, m3, m4] ++ be16 l))
def execSetMonitor (s : State) : Out := s.whenRunning (State.takeRequest kSetMonitor setMonitorReq)

/-- LABEL_ZERO_FRAME: a queued frame of label 0 taken and discarded with no reply (R161). -/
def execLabelZeroFrame (s : State) : Out := s.whenRunning fun s =>
  match s.headFrame with
  | some (_, label, _) => if s.mayTake ∧ label = 0 then s.dropFrame else s
  | none => s

/-- UNKNOWN_KIND: a queued frame whose kind is no request code, answered UNKNOWN with kind FFh (R161, R172). -/
def execUnknownKind (s : State) : Out := s.whenRunning fun s =>
  match s.headFrame with
  | some (kind, label, _) =>
    if s.mayTake ∧ label ≠ 0 ∧ kind ∉ requestKinds then s.dropFrame.pushReply ⟨0xFF, label, .unknown, [0, 0]⟩
    else s
  | none => s

end Sys2Proof.Machine
end

