-- ==== Sys2Proof/Machine/AccountRequests.lean ====
section
/-! DEFINITION. The account requests (05, section 5.7). -/

namespace Sys2Proof.Machine

/-- The fields of LOAD ACCOUNT, the name already judged. -/
structure RawAccount where
  name : Option Name
  check : Nat
  cls : Byte
  budget : Int
  overdraft : Nat
  limit : Byte
  state : Byte
  failLimit : Byte
  deriving DecidableEq, Repr

def readAccountFields (f : List Byte) : Option RawAccount := do
  let (name, r) ← readName f
  let (check, r) ← u32 r
  let (cls, r) ← u8 r
  let (budget, r) ← s32 r
  let (overdraft, r) ← u32 r
  let (limit, r) ← u8 r
  let (state, r) ← u8 r
  let (failLimit, _) ← u8 r
  some ⟨name, check, cls, budget, overdraft, limit, state, failLimit⟩

/-- The host fields of a LOAD ACCOUNT that passes the field checks of R88, as a new entry; else the number of the
first field that fails. The entry's budget state is still to be evaluated. -/
def RawAccount.check? (a : RawAccount) : Except Nat Account := do
  let name ← orField 1 a.name
  let cls ← orField 3 (clsOf a.cls)
  let overdraft ← orField 5 (if a.overdraft ≤ 1000000 then some a.overdraft else none)
  let limit ← orField 6 (if 1 ≤ a.limit.toNat ∧ a.limit.toNat ≤ 4 then some a.limit.toNat else none)
  let state ← orField 7 (AcctState.ofCode a.state)
  let failLimit ← orField 8 (if a.failLimit.toNat ≤ 15 then some a.failLimit.toNat else none)
  .ok {
    name := name
    check := BitVec.ofNat 32 a.check
    cls := cls
    budget := a.budget
    overdraft := overdraft
    limit := limit
    state := state
    failures := 0
    failLimit := failLimit
    bstate := .normal
    active := 0
    notice := none }

/-- An account's fields in the LOAD ACCOUNT reply (section 11.2), read when the request's effects are complete
(log 29). -/
def State.loadReply (s : State) (n : Name) : List Byte :=
  match s.account? n with
  | some a => padName n ++ beInt32 a.budget ++ [a.bstate.code, byteOf a.active]
  | none => []

/-- LOAD ACCOUNT of checked fields (R88, R89): a new entry is evaluated without a transition; an existing one
keeps the controller's fields and is re-evaluated. -/
def State.loadAccount (s : State) (a : Account) : State :=
  match s.account? a.name with
  | none => s.putAccount { a with bstate := budgetStateOf a.budget a.overdraft (s.warnLevel a.cls) }
  | some old => State.reevaluateAct (s.putAccount { a with
      failures := old.failures, bstate := old.bstate, active := old.active, notice := old.notice }) a.name

def loadAccountReq : Handler := fun f s => withFields (readAccountFields f) s fun raw =>
  match raw.check? with
  | .error n => (s, answerBad n)
  | .ok a =>
    if (s.account? a.name).isNone ∧ Config.accountsSize ≤ s.accounts.length then (s, answerOf .tableFull)
    else
      let s' := s.loadAccount a
      (s', answerDone (s'.loadReply a.name))
/-- LOAD_ACCOUNT (R88). -/
def execLoadAccount (s : State) : Out := s.whenRunning (State.takeRequest kLoadAccount loadAccountReq)

/-- A request that names an account of the table: BAD_FIELD for a malformed name, the checks `bad` of its other
fields, NO_SUCH for a name not in the table (R79). -/
def onAccount (name : Option Name) (bad : Option Nat) (s : State) (act : Account → State × Answer) :
    State × Answer :=
  match name, bad with
  | none, _ => (s, answerBad 1)
  | some _, some n => (s, answerBad n)
  | some n, none =>
    match s.account? n with
    | none => (s, answerOf .noSuch)
    | some a => act a

/-- DELETE ACCOUNT (R90). -/
def deleteAccountReq : Handler := fun f s => withFields (readName f) s fun (name, _) =>
  onAccount name none s fun a =>
    if 0 < a.active then (s, answerOf .inUse)
    else
      ({ s with accounts := s.accounts.filter fun b => b.name ≠ a.name
                link := { s.link with budgetOrder := s.link.budgetOrder.filter (· ≠ a.name) } },
       answerDone [])
/-- DELETE_ACCOUNT (R90). -/
def execDeleteAccount (s : State) : Out := s.whenRunning (State.takeRequest kDeleteAccount deleteAccountReq)

/-- CREDIT ACCOUNT (R91). The reply's values are those when the request's effects are complete (log 29). -/
def readCredit (f : List Byte) : Option (Option Name × Int) := do
  let (name, r) ← readName f
  let (amount, _) ← s32 r
  some (name, amount)

def State.creditAccount (s : State) (n : Name) (amount : Int) : State := State.applyEffects (s.debit n (-amount))

def State.creditReply (s : State) (n : Name) : List Byte :=
  match s.account? n with
  | some a => beInt32 a.budget ++ [a.bstate.code]
  | none => []

def creditAccountReq : Handler := fun f s => withFields (readCredit f) s fun (name, amount) =>
  onAccount name (if amount < -1000000 ∨ 1000000 < amount then some 2 else none) s fun a =>
    let s' := s.creditAccount a.name amount
    (s', answerDone (s'.creditReply a.name))
def execCreditAccount (s : State) : Out := s.whenRunning (State.takeRequest kCreditAccount creditAccountReq)

/-- READ ACCOUNT (R93). -/
def State.readAccountFields (s : State) (a : Account) : List Byte :=
  let tags := (s.sessionsOf a.name).map fun i => tagOf i (s.line i).generation
  padName a.name ++ [byteOf a.cls.val] ++ beInt32 a.budget ++ be32 a.overdraft
  ++ [byteOf a.limit, a.state.code, byteOf a.failLimit, byteOf a.failures, a.bstate.code, byteOf a.active]
  ++ be32 (s.warnLevel a.cls) ++ [boolCode a.notice.isSome, byteOf tags.length]
  ++ ((tags.flatMap fun t : BitVec 16 => be16 t.toNat) ++ List.replicate 8 0).take 8

def readAccountReq : Handler := fun f s => withFields (readName f) s fun (name, _) =>
  onAccount name none s fun a => (s, answerDone (s.readAccountFields a))
def execReadAccount (s : State) : Out := s.whenRunning (State.takeRequest kReadAccount readAccountReq)

/-- SET ACCOUNT STATE (R94). -/
def readSetState (f : List Byte) : Option (Option Name × Byte) := do
  let (name, r) ← readName f
  let (st, _) ← u8 r
  some (name, st)

def setAccountStateReq : Handler := fun f s => withFields (readSetState f) s fun (name, b) =>
  match AcctState.ofCode b with
  | none => onAccount name (some 2) s fun _ => (s, answerBad 2)
  | some st => onAccount name none s fun a =>
    let n := if st = .opened then 0 else a.failures
    (s.putAccount { a with state := st, failures := n }, answerDone [st.code, byteOf n])
def execSetAccountState (s : State) : Out := s.whenRunning (State.takeRequest kSetAccountState setAccountStateReq)

end Sys2Proof.Machine
end

