-- ==== Sys2Proof/Machine/SignOn.lean ====
section
/-! DEFINITION. The check value and the sign-on check with its outcomes (04, sections 4.5 to 4.8). -/

namespace Sys2Proof.Machine

/-- The check value of a name and a password (R67). -/
def checkValue (name : Name) (password : List Byte) : BitVec 32 :=
  (padName name ++ [0] ++ password).foldl (fun (v : BitVec 32) (b : Byte) => v * 37#32 + b.setWidth 32) 1#32

/-- What the sign-on check decides (R68). -/
inductive CheckOutcome where
  | invalid
  | refused (a : Account) (r : RefusalReason) (text : Fin 16)
  | waits
  | accepted (a : Account)
  deriving DecidableEq, Repr

/-- The steps of the check, in order (R68). -/
def State.checkOutcome (s : State) (i : LineId) : CheckOutcome :=
  let d := (s.line i).dialog
  match s.account? d.name with
  | none => .invalid
  | some a =>
    if a.check ≠ checkValue d.name d.password ∨ a.state ≠ .opened then .invalid
    else if s.service ≠ .opened then .refused a .service 6
    else if Config.storeSize ≤ s.store.sum then .refused a .storeFull 12
    else if a.bstate = .exhausted then .refused a .noFunds 4
    else if a.limit ≤ a.active then .refused a .limit 5
    else if (s.line i).reports.ended.isSome then .waits
    else .accepted a

/-- A failed sign-on counted on an OPEN account, which it may lock (R69). -/
def Account.fail (a : Account) : Account :=
  if a.state = .opened then
    let n := satAdd 15 a.failures 1
    { a with failures := n, state := if a.failLimit ≠ 0 ∧ a.failLimit ≤ n then .locked else .opened }
  else a

/-- The line's part of an invalid attempt (R69): back to NAME, or at the attempt limit to REJECTING with lockout
due. -/
def Line.invalidAttempt (texts : Vector (List Byte) 16) (l : Line) : Line :=
  let n := l.dialog.attempts + 1
  let l := l.place (expand none none (texts.get 3))
  if n < l.dialog.attemptLimit then
    Line.placeDue texts { l with dialog := { l.dialog with
      attempts := n, name := [], password := [], phase := .name, timer := l.dialog.timer.resume,
      promptDue := some .user, nameEcho := [] } }
  else
    Line.toRejecting { l with dialog := { l.dialog with attempts := n }, lockoutDue := true }

/-- An invalid attempt (R69). -/
def State.invalidAttempt (s : State) (i : LineId) : State :=
  let s1 : State := match s.account? (s.line i).dialog.name with
    | some a => s.putAccount a.fail
    | none => s
  s1.updLine i (Line.invalidAttempt s.texts)

/-- A refusal at steps 2 to 5 (R70). -/
def State.refuseSignOn (s : State) (i : LineId) (a : Account) (r : RefusalReason) (k : Fin 16) : State :=
  (s.putAccount { a with failures := 0 }).updLine i fun l =>
    ((l.place (expand (some a.budget) none (s.texts.get k))).raiseEvent .refused r.code).toRejecting

/-- The WAITING phase entered (R71). -/
def Line.beginWaiting (l : Line) : Line :=
  { l with dialog := { l.dialog with phase := .waiting, timer := l.dialog.timer.hold, promptDue := none,
                                     nameEcho := [] } }

/-- The matched account kept: the one whose name and check value matched (section 4.1). -/
def State.matchedName (s : State) (i : LineId) : Option Name :=
  let d := (s.line i).dialog
  match s.account? d.name with
  | some a => if a.check = checkValue d.name d.password then some d.name else none
  | none => none

/-- The sign-on check and its outcome, one step (R68 to R72). -/
def State.signOn (s : State) (i : LineId) : State :=
  let s' := s.updLine i fun l => { l with dialog := { l.dialog with matched := s.matchedName i } }
  match s.checkOutcome i with
  | .invalid => s'.invalidAttempt i
  | .refused a r k => s'.refuseSignOn i a r k
  | .waits => s'.updLine i Line.beginWaiting
  | .accepted a => s'.accept i a

end Sys2Proof.Machine
end

