-- ==== Sys2Proof/Machine/DialogCommands.lean ====
section
/-! DEFINITION. The dialog controller's commands: name and password characters, its two timers (04). -/

namespace Sys2Proof.Machine

/-- a–z folded to A–Z (R64). -/
def foldCase (c : Byte) : Byte := if 0x61 ≤ c && c ≤ 0x7A then c - 0x20 else c

/-- The echo of an erased character (R64). -/
def eraseEcho : List Byte := [chBS, chSP, chBS]

/-- A character taken in the NAME phase (R64). -/
def Line.nameChar (texts : Vector (List Byte) 16) (c : Byte) (l : Line) : Line :=
  let d := l.dialog
  let f := foldCase c
  if isNameChar f then
    if d.name.length < 8 then Line.dialogEcho [f] { l with dialog := { d with name := d.name ++ [f] } } else l
  else if c = chBS ∨ c = chDEL then
    if d.name = [] then l else Line.dialogEcho eraseEcho { l with dialog := { d with name := d.name.dropLast } }
  else if c = chCR then
    if d.name = [] then
      (Line.dialogEcho crLf { l with dialog := { d with promptDue := some .user } }).placeDue texts
    else
      (Line.dialogEcho crLf { l with dialog := { d with
        phase := .password, password := [], promptDue := some .password, nameEcho := [] } }).placeDue texts
  else l

/-- NAME_CHARACTER: the head of the FIFO taken in the NAME phase (R36, R64). -/
def execNameCharacter (i : LineId) (s : State) : Out := s.whenRunning fun s =>
  s.updLine i fun l =>
    match l.unit.fifo with
    | c :: rest =>
      if l.state = .dialog ∧ l.dialog.phase = .name then
        Line.nameChar s.texts c { l with unit := { l.unit with fifo := rest } }
      else l
    | [] => l

/-- A character other than CR taken in the PASSWORD phase (R65). -/
def Dialog.passwordChar (c : Byte) (d : Dialog) : Dialog :=
  if 0x20 ≤ c ∧ c ≤ 0x7E then
    if d.password.length < 12 then { d with password := d.password ++ [c] } else d
  else if c = chBS ∨ c = chDEL then { d with password := d.password.dropLast }
  else d

/-- PASSWORD_CHARACTER: the head of the FIFO taken in the PASSWORD phase; a CR makes the check (R36, R65, R68). -/
def execPasswordCharacter (i : LineId) (s : State) : Out := s.whenRunning fun s =>
  let l := s.line i
  match l.unit.fifo with
  | c :: rest =>
    if l.state = .dialog ∧ l.dialog.phase = .password then
      let l1 : Line := { l with unit := { l.unit with fifo := rest } }
      if c = chCR then (s.setLine i (l1.dialogEcho crLf)).signOn i
      else s.setLine i { l1 with dialog := l1.dialog.passwordChar c }
    else s
  | [] => s

/-- Whether the dialog timer runs. -/
def HeldTimer.runs : HeldTimer → Bool
  | .running _ => true
  | .stopped | .held _ => false

/-- DIALOG_TIMER_EXPIRY (R66). -/
def execDialogTimerExpiry (i : LineId) (s : State) : Out :=
  s.lineExpiry i (fun l => l.state = .dialog ∧ l.dialog.timer.runs) fun l =>
    ((l.place (expand none none (s.texts.get 11))).raiseEvent .dialogTimeout 0).toRejecting

/-- REJECTING_TIMER_EXPIRY (R74). -/
def execRejectingTimerExpiry (i : LineId) (s : State) : Out :=
  s.lineExpiry i (fun l => l.state = .rejecting ∧ l.dialog.rejecting.isSome) Line.hangup

end Sys2Proof.Machine
end

