-- ==== Sys2Proof/Machine/LineRequests.lean ====
section
/-! DEFINITION. The requests that name a line, and BROADCAST (R13, R14, R17, R19, R77). -/

namespace Sys2Proof.Machine

/-- CONFIGURE LINE (R17). -/
def readConfigureLine (f : List Byte) : Option (Byte × RawConfig) := do
  let (line, r) ← u8 f
  let c ← readConfig r
  some (line, c)

/-- The states in which CONFIGURE LINE is taken (R17). -/
def LineState.configurable : LineState → Bool
  | .idle | .disabled | .lockout => true
  | .answering | .detecting | .dialog | .active | .grace | .draining | .rejecting | .hangup => false

def configureLineReq : Handler := fun f s => withFields (readConfigureLine f) s fun (b, raw) =>
  match lineOf b with
  | none => (s, answerBad 1)
  | some i =>
    if (s.line i).state.configurable then
      match raw.check with
      | .error n => (s, answerBad n)
      | .ok c => (s.updLine i fun l => { l with config := c }, answerDone (b :: configBlock c))
    else (s, answerOf .state)
def execConfigureLine (s : State) : Out := s.whenRunning (State.takeRequest kConfigureLine configureLineReq)

/-- A request whose one field is a line. -/
def onLine (f : List Byte) (s : State) (act : LineId → State × Answer) : State × Answer :=
  withFields (u8 f) s fun (b, _) =>
    match lineOf b with
    | none => (s, answerBad 1)
    | some i => act i

/-- ENABLE LINE (R13). -/
def enableLineReq : Handler := fun f s => onLine f s fun i =>
  (s.updLine i fun l => if l.state = .disabled then l.hangup else l, answerDone [byteOf i.val])
def execEnableLine (s : State) : Out := s.whenRunning (State.takeRequest kEnableLine enableLineReq)

/-- What DISABLE LINE does to a line (R14). -/
def State.disableLine (s : State) (i : LineId) : State :=
  match (s.line i).state with
  | .disabled => s
  | .idle => s.updLine i fun l => l.goto .disabled
  | .lockout => s.updLine i fun l => Line.raiseEvent .lockoutEnd 0 { l.goto .disabled with lockout := none }
  | .answering | .detecting | .dialog | .rejecting | .draining =>
    s.updLine i fun l => Line.hangup { l with disablePending := true }
  | .active | .grace => (s.updLine i fun l => { l with disablePending := true }).endOne i .lineDisabled false
  | .hangup => s.updLine i fun l => { l with disablePending := true }

/-- DISABLE LINE (R14). -/
def disableLineReq : Handler := fun f s => onLine f s fun i => (s.disableLine i, answerDone [byteOf i.val])
def execDisableLine (s : State) : Out := s.whenRunning (State.takeRequest kDisableLine disableLineReq)

/-- Whole seconds of a timer, rounded up (R19). -/
def secondsUp : Timer → Nat
  | some n => (n + (Config.scansPerSecond - 1)) / Config.scansPerSecond
  | none => 0

/-- The remaining time LINE STATUS shows (R19). -/
def Line.remaining (l : Line) : Nat :=
  match l.state with
  | .answering => secondsUp l.carrierWait
  | .hangup => secondsUp l.guard
  | .lockout => secondsUp l.lockout
  | .disabled | .idle | .detecting | .dialog | .active | .grace | .draining | .rejecting => 0

/-- The speed code LINE STATUS shows (R19). -/
def Line.speedShown (l : Line) : Option SpeedCode :=
  match l.state with
  | .dialog | .active | .grace | .draining | .rejecting => l.unit.speed
  | .disabled | .idle | .answering | .detecting | .hangup | .lockout => none

/-- The format LINE STATUS shows: that in force once the speed is known, else the configured one (R19; log 21). -/
def Line.formatShown (l : Line) : Format := if l.unit.speed.isSome then l.unit.format else l.config.format

/-- Session present, tag and account name (R19). -/
def Line.sessionFields (i : LineId) (l : Line) : List Byte :=
  match l.session with
  | some ses =>
    if l.state.metered then [1] ++ be16 (tagOf i l.generation).toNat ++ padName ses.meter.account
    else List.replicate 11 0
  | none => List.replicate 11 0

/-- Queue levels (R19). -/
def Line.levelFields (l : Line) : List Byte :=
  let filling := match l.session with | some ses => ses.filling.length | none => 0
  let held := match l.session.bind Session.held with | some b => b.bytes.length | none => 0
  [byteOf l.unit.fifo.length] ++ be16 filling ++ be16 held ++ be16 l.out.queue.length
  ++ [byteOf (l.out.noticeCur.length + l.out.noticeWait.length)]

/-- The six tallies in the order of their table (R20). -/
def Tallies.fields (t : Tallies) : List Byte :=
  be16 t.parity ++ be16 t.framing ++ be16 t.overruns ++ be16 t.inputLost ++ be16 t.echoLost ++ be16 t.detFailures

/-- The presence map, one byte for each speed code (section 11.2). -/
def presenceBytes (m : BitVec 8) : List Byte := (List.range 8).map fun k => boolCode (m.getLsbD k)

/-- The fields of the LINE STATUS reply (R19, section 11.2). -/
def Line.statusFields (i : LineId) (l : Line) : List Byte :=
  [byteOf i.val, l.state.code, boolCode l.disablePending, boolCode l.lockoutDue, boolCode l.ri, boolCode l.cd,
   boolCode l.dtr]
  ++ be16 l.remaining ++ [speedByte l.speedShown, l.formatShown.code, BitVec.setWidth 8 l.generation]
  ++ l.sessionFields i ++ l.levelFields ++ l.tallies.fields ++ [l.detector.last.code]
  ++ presenceBytes l.detector.presence ++ configBlock l.config

/-- LINE STATUS: the tallies captured and cleared (R19, R20). -/
def lineStatusReq : Handler := fun f s => onLine f s fun i =>
  (s.updLine i fun l => { l with tallies := Tallies.zero }, answerDone ((s.line i).statusFields i))
def execLineStatus (s : State) : Out := s.whenRunning (State.takeRequest kLineStatus lineStatusReq)

/-- The lines a broadcast reaches (R77). -/
def State.broadcastLines (s : State) : List LineId :=
  allLines.filter fun i => (s.line i).state = .dialog ∨ (s.line i).state.metered

/-- A broadcast text placed on one line (R60, R77); a prompt it replaces is placed again when the slot is empty
(R63), which an empty text leaves it. -/
def State.broadcastTo (k : Fin 16) (s : State) (i : LineId) : State :=
  let l := s.line i
  if l.state = .dialog then s.setLine i ((l.place (expand none none (s.texts.get k))).placeDue s.texts)
  else
    let budget := (l.account?.bind s.account?).map Account.budget
    s.setLine i (l.place (expand budget l.units? (s.texts.get k)))

/-- BROADCAST (R77). -/
def broadcastReq : Handler := fun f s => withFields (u8 f) s fun (b, _) =>
  if b = 14 then (s.broadcastLines.foldl (State.broadcastTo 14) s, answerDone [byteOf s.broadcastLines.length])
  else if b = 15 then (s.broadcastLines.foldl (State.broadcastTo 15) s, answerDone [byteOf s.broadcastLines.length])
  else (s, answerBad 1)
def execBroadcast (s : State) : Out := s.whenRunning (State.takeRequest kBroadcast broadcastReq)

end Sys2Proof.Machine
end

