-- ==== Sys2Proof/Machine/LineScanner.lean ====
section
/-! DEFINITION. The line scanner's commands: rings, carrier, and its timers (01, R135). -/

namespace Sys2Proof.Machine

/-- Whether rings are answered (R3). -/
def Service.answers : Service → Bool
  | .opened | .linkLost => true
  | .closed | .powerdown => false

/-- RING: a scan that finds RI risen (R1, R3, R4). The command is the rise itself, whatever level was seen before
(log 6). -/
def execRing (i : LineId) (s : State) : Out := s.whenRunning fun s =>
  s.scan.updLine i fun l =>
    if l.state = .idle ∧ s.service.answers then
      { l.goto .answering with
        ri := true
        lockoutDue := false
        carrierWait := some (l.config.carrierWait * Config.scansPerSecond) }
    else { l with ri := true }

/-- CARRIER_DETECT: a scan that finds CD risen (R1, R5, R8). In ANSWERING it is a rise only where the last scan found CD
low (R1; log 7); in a watched state it ends a dip. -/
def execCarrierDetect (i : LineId) (s : State) : Out := s.whenRunning fun s =>
  let s := s.scan
  let l := s.line i
  if l.state = .answering ∧ l.cd = false then
    match l.config.mode with
    | .auto => s.setLine i { l.toDetecting with cd := true }
    | .fixed =>
      State.admitLine (s.setLine i { l with cd := true, carrierWait := none,
                                            unit := l.unit.start l.config.fixedSpeed l.config.format }) i
  else s.setLine i { l with cd := true, carrierLoss := if l.state.watched then none else l.carrierLoss }

/-- CARRIER_DROP: a scan that finds CD low (R1, R8, R11). -/
def execCarrierDrop (i : LineId) (s : State) : Out := s.whenRunning fun s =>
  s.scan.updLine i fun l =>
    if l.state.watched then
      { l with cd := false
               carrierLoss := if l.carrierLoss.isNone then some Config.carrierLossScans else l.carrierLoss }
    else if l.state = .hangup ∧ l.guard = none then Line.leaveHangup { l with cd := false }
    else { l with cd := false }

/-- CARRIER_WAIT_EXPIRY (R7). -/
def execCarrierWaitExpiry (i : LineId) (s : State) : Out :=
  s.lineExpiry i (fun l => l.state = .answering ∧ l.carrierWait.isSome) fun l => l.hangup.raiseEvent .answerFail 0

/-- CARRIER_LOSS: the carrier-loss timer expires and a carrier loss is declared (R8, R9). -/
def execCarrierLoss (i : LineId) (s : State) : Out := s.whenRunning fun s =>
  let l := s.line i
  if l.carrierLoss.isNone then s
  else if l.state.metered then s.scan.endOne i .carrierLost false
  else if l.state.watched then s.scan.updLine i Line.hangup
  else s

/-- HANGUP_GUARD_EXPIRY (R11). -/
def execHangupGuardExpiry (i : LineId) (s : State) : Out :=
  s.lineExpiry i (fun l => l.state = .hangup ∧ l.guard.isSome) fun l =>
    if l.cd then { l with guard := none } else Line.leaveHangup { l with guard := none }

/-- LOCKOUT_EXPIRY (R12). -/
def execLockoutExpiry (i : LineId) (s : State) : Out :=
  s.lineExpiry i (fun l => l.state = .lockout ∧ l.lockout.isSome) fun l =>
    Line.raiseEvent .lockoutEnd 0 { l.goto .idle with lockout := none }

/-- DRAIN_TIMER_EXPIRY (R135). -/
def execDrainTimerExpiry (i : LineId) (s : State) : Out :=
  s.lineExpiry i (fun l => l.state = .draining ∧ l.drain.isSome) Line.hangup

end Sys2Proof.Machine
end

