-- ==== Sys2Proof/Machine/Link.lean ====
section
/-! DEFINITION. The link controller's own commands: the frame receiver, the host-silence monitor, the outbound
arbiter (10_the_host_link.md). -/

namespace Sys2Proof.Machine

/-! ### The receiver -/

/-- A valid frame offered to the intake queue (R160). -/
def State.offer (s : State) (body : List Byte) : State :=
  if s.link.intake.length < Config.linkQueueSize then
    { s with link := { s.link with intake := s.link.intake ++ [body] } }
  else { s with link := { s.link with overflow := satAdd max16 s.link.overflow 1 } }

/-- A valid frame (R160, R165): it restarts the monitor or restores the service, and is offered to the intake
queue. In POWERDOWN it is discarded. -/
def State.validFrame (s : State) (body : List Byte) : State :=
  match s.service with
  | .closed => s.offer body
  | .opened => State.offer { s with link := s.link.startMonitor } body
  | .linkLost =>
    State.offer { s with
      service := .opened
      link := { s.link.startMonitor with
        linkRestored := raiseService s.link.linkRestored s.link.lostSessions true } } body
  | .powerdown => s

/-- The length two bytes give. -/
def lengthOf (hi lo : Byte) : Nat := hi.toNat * 256 + lo.toNat

/-- The receiver after a byte while hunting (R159). -/
def Receiver.hunt (b : Byte) : Receiver := if b = startByte then .length [] else .hunting

/-- The receiver after a bad length: the hunt resumes at the first length byte (R159). -/
def Receiver.resume (hi lo : Byte) : Receiver :=
  match Receiver.hunt hi with
  | .hunting => Receiver.hunt lo
  | .length _ | .body _ _ _ => .length [lo]

/-- The receiver set. -/
def State.setReceiver (s : State) (r : Receiver) : State := { s with link := { s.link with receiver := r } }

/-- One byte from the host link (R159). -/
def State.receiveByte (s : State) (b : Byte) : State :=
  match s.link.receiver with
  | .hunting => s.setReceiver (Receiver.hunt b)
  | .length [] => s.setReceiver (.length [b])
  | .length (hi :: _) =>
    if 2 ≤ lengthOf hi b ∧ lengthOf hi b ≤ 400 then s.setReceiver (.body hi b [])
    else State.setReceiver { s with link := { s.link with badLength := satAdd max16 s.link.badLength 1 } }
      (Receiver.resume hi b)
  | .body hi lo got =>
    let got := got ++ [b]
    let n := lengthOf hi lo
    if got.length < n + 2 then s.setReceiver (.body hi lo got)
    else
      let s1 := s.setReceiver .hunting
      if be16 (crc (hi :: lo :: got.take n)).toNat = got.drop n then s1.validFrame (got.take n)
      else { s1 with link := { s1.link with badCheck := satAdd max16 s1.link.badCheck 1 } }

/-- FRAME_RECEIVED: bytes from the host link, none after a gap of 20 ms (R159, R160, R165). -/
def execFrameReceived (bytes : List Byte) (s : State) : Out := s.whenRunning fun s => bytes.foldl State.receiveByte s

/-- FRAME_TIMEOUT: a gap of 20 ms in LENGTH or BODY (R159). -/
def execFrameTimeout (s : State) : Out := s.whenRunning fun s =>
  match s.link.receiver with
  | .hunting => s
  | .length _ | .body _ _ _ =>
    State.setReceiver { s with link := { s.link with timeout := satAdd max16 s.link.timeout 1 } } .hunting

/-! ### The host-silence monitor -/

/-- The service lost: LINK_LOST set pending with the action in force, which is the one applied until the next expiry
(R166), and the number of sessions that it ends recorded (R165). -/
def State.loseLink (s : State) (ended : Nat) : State :=
  { s with
    service := .linkLost
    link := { s.link with
      monitor := none
      linkLost := raiseService s.link.linkLost s.link.action.code.toNat false
      applied := s.link.action
      lostSessions := ended } }

/-- HOST_SILENCE_EXPIRY (R139, R165). -/
def execHostSilenceExpiry (s : State) : Out := s.whenRunning fun s =>
  if s.service = .opened ∧ s.link.monitor.isSome then
    match s.link.action with
    | .none | .refuse => s.scan.loseLink 0
    | .hangup => ((s.scan.loseLink s.meteredLines.length).massEnd .linkLost).refuseDialogs
  else s

/-! ### The outbound arbiter -/

/-- The lines scanned from the line after a pointer, wrapping from 47 to 0 (R162). -/
def scanFrom (p : LineId) : List LineId := (List.range 48).map fun k => Fin.ofNat 48 (p.val + 1 + k)

/-- A message chosen: its body, the state with its flag cleared or its place freed, and the line whose END it is. -/
structure Choice where
  body : List Byte
  state : State
  endOf : Option LineId
  deriving DecidableEq, Repr

/-- A message that is no END. -/
def Choice.plain (body : List Byte) (s : State) : Choice := ⟨body, s, none⟩

/-- READY, ahead of every other message (R170). -/
def State.chooseReady (s : State) : Option Choice :=
  s.link.ready.map fun r => .plain r.body { s with link := { s.link with ready := none } }

/-- Step 1: the oldest reply. -/
def State.chooseReply (s : State) : Option Choice :=
  match s.link.replies with
  | r :: rest => some (.plain r.body { s with link := { s.link with replies := rest } })
  | [] => none

/-- Step 2: the service flags in their order (R162, R173). -/
def State.chooseService (s : State) : Option Choice :=
  (s.link.powerWarning.map fun f =>
    .plain (serviceEventBody 1 f.count f.value 0) { s with link := { s.link with powerWarning := none } })
  <|> (s.link.linkLost.map fun f =>
    .plain (serviceEventBody 2 f.count f.value 0) { s with link := { s.link with linkLost := none } })
  <|> (s.link.linkRestored.map fun f =>
    .plain (serviceEventBody 3 f.count f.value 0) { s with link := { s.link with linkRestored := none } })
  <|> (if s.link.mask.chargeLevel then none else s.link.chargesPending.map fun f =>
    .plain (serviceEventBody 4 f.count s.store.count s.readMark)
      { s with link := { s.link with chargesPending := none } })

/-- A report taken from a line's flags: its body, the flags left, and whether it is END. -/
abbrev TakenReport := List Byte × LineReports × Bool

/-- Whether the END of line `i` is held back: a SIGNON still pending announces a session whose acceptance caused that END
(R72). R162 names one exception to its order, the SIGNON of the END's own line, and the two rules differ on the END of
another line: the model keeps R72's order (log 41, DESIGN CHOICE). -/
def State.endHeld (s : State) (i : LineId) : Bool :=
  allLines.any fun k => (s.line k).reports.signon.any fun f => f.ahead.contains i

/-- The report a line gives, if any: END, LINE EVENT, SIGNON, ATTENTION, OUTPUT READY, but SIGNON in place of an
END it still precedes; an END held back (`held`) and flags of masked classes are passed over (R72, R162, R163; log 41). -/
def LineReports.next (m : Mask) (held : Bool) (i : LineId) (r : LineReports) : Option TakenReport :=
  let ended : Option TakenReport := match r.ended, r.signon with
    | some e, none => if held then none else some (e.body, { r with ended := none }, true)
    | some _, some f => some (f.body, { r with signon := none }, false)
    | none, _ => none
  let event : Option TakenReport :=
    if m.lineEvent then none else r.event.map fun f => (lineEventBody i f, { r with event := none }, false)
  let signon : Option TakenReport := r.signon.map fun f => (f.body, { r with signon := none }, false)
  let attention : Option TakenReport := r.attention.map fun f => (f.body, { r with attention := none }, false)
  let outReady : Option TakenReport :=
    if m.outputReady then none else r.outReady.map fun f => (f.body, { r with outReady := none }, false)
  ended <|> event <|> signon <|> attention <|> outReady

/-- Step 3: the line reports, by the round robin of R162, but that an END held back by another line's SIGNON waits for it
(R72; log 41, DESIGN CHOICE where the two rules differ). -/
def State.chooseLine (s : State) : Option Choice :=
  (scanFrom s.link.linePtr).findSome? fun i =>
    ((s.line i).reports.next s.link.mask (s.endHeld i) i).map fun t =>
      { body := t.1
        state := State.updLine { s with link := { s.link with linePtr := i } } i fun l => { l with reports := t.2.1 }
        endOf := if t.2.2 then some i else none }

/-- Step 4: the BUDGET NOTICE of the first account in the BUDGET order. -/
def State.chooseBudget (s : State) : Option Choice :=
  if s.link.mask.budget then none
  else s.link.budgetOrder.findSome? fun n =>
    (s.account? n).bind fun a => a.notice.map fun f =>
      let s1 := s.putAccount { a with notice := none }
      .plain (budgetNoticeBody n f) { s1 with link := { s1.link with budgetOrder := s.link.budgetOrder.filter (· ≠ n) } }

/-- The held slot freed by a choice (R46). -/
def Session.freeHeld (ses : Session) : Session :=
  match ses.closed with
  | some cause => { ses with held := some ⟨ses.filling, cause⟩, filling := [], closed := none }
  | none => { ses with held := none }

/-- Step 5: the held LINE DATA buffers. -/
def State.chooseData (s : State) : Option Choice :=
  (scanFrom s.link.dataPtr).findSome? fun i =>
    (s.line i).session.bind fun ses => ses.held.map fun b =>
      .plain (lineDataBody (tagOf i (s.line i).generation) b)
        (State.updLine { s with link := { s.link with dataPtr := i } } i fun l => { l with session := some ses.freeHeld })

/-- The arbiter's choice (R162, R170). -/
def State.choose (s : State) : Option Choice :=
  s.chooseReady <|> s.chooseReply <|> s.chooseService <|> s.chooseLine <|> s.chooseBudget <|> s.chooseData

/-- The check made again when the END of a line with a waiting sign-on is chosen (R71). -/
def State.recheck (s : State) (i : LineId) : State :=
  if (s.line i).state = .dialog ∧ (s.line i).dialog.phase = .waiting then s.signOn i else s

/-- A message begun by the link transmitter, from its start byte to its check (R158). -/
def State.send (s : State) (body : List Byte) : State := { s with link := { s.link with tx := some (frameOf body) } }

/-- ARBITER_CHOICE: the previous message, if any, has ended, and the next is chosen; with none the transmitter is
idle (R162; log 20). -/
def execArbiterChoice (s : State) : Out := s.whenRunning fun s =>
  match s.choose with
  | none => { s with link := { s.link with tx := none } }
  | some c =>
    match c.endOf with
    | some i => (c.state.send c.body).recheck i
    | none => c.state.send c.body

end Sys2Proof.Machine
end

