-- ==== Sys2Proof/Machine/Metering.lean ====
section
/-! DEFINITION. The clock's advance, tariff lookup, and the metering tick (06, 07). -/

namespace Sys2Proof.Machine

/-- The seconds of the clock at its next tick and the slew that follows (R96, R97): the step, the new offset and
the new slew count. -/
def Clock.slewStep (c : Clock) : Nat × Int × Nat :=
  if c.offset = 0 then (1, 0, 0)
  else if c.slew + 1 < 10 then (1, c.offset, c.slew + 1)
  else if 0 < c.offset then (2, c.offset - 1, 0)
  else (0, c.offset + 1, 0)

/-- The advance of the clock at a tick (R96); an UNSET clock is left. -/
def Clock.advance (c : Clock) : Clock :=
  if c.isSet then
    let (step, off, sl) := c.slewStep
    let t := c.second + step
    { c with day := if 86400 ≤ t then c.day + 1 else c.day, second := if 86400 ≤ t then t - 86400 else t,
             offset := off, slew := sl }
  else c

/-- The day type of a day (R100). -/
def dayTypeOf (day : BitVec 16) : DayType := if 5 ≤ day.toNat % 7 then .holiday else .weekday

/-- The band of a schedule for a minute: that of the last entry starting at or below it (R103). -/
def bandAt (sched : List SchedEntry) (minute : Nat) : Nat :=
  match (sched.filter fun e => e.start ≤ minute).getLast? with
  | some e => e.band
  | none => 0

/-- The band for a clock (R103). -/
def Tariff.band (t : Tariff) (c : Clock) : Nat :=
  match dayTypeOf c.day with
  | .weekday => bandAt t.weekday (c.second / 60)
  | .holiday => bandAt t.holiday (c.second / 60)

/-- The rate of a band for a class (R112). -/
def Tariff.rate (t : Tariff) (band : Nat) (c : Cls) : Nat :=
  match t.bands[band]? with
  | some r => r.get c
  | none => 0

/-- The weight of a tier in eighths (R112). -/
def Tariff.weight (t : Tariff) : Tier → Nat
  | .low => t.weightLow
  | .medium => t.weightMedium
  | .high => t.weightHigh

/-- The addend of a tick for a session (R112). -/
def State.addend (s : State) (m : Meter) : Nat :=
  match s.tariff with
  | some t => t.rate (t.band s.clock) m.cls * t.weight m.tier
  | none => 0

/-- The carry of a tick (R113). -/
def Meter.carry (m : Meter) (addend : Nat) : Nat := (m.residue + addend) / Config.residueParts

/-- A session charged for a tick (R111, R113, R114). -/
def Meter.charge (addend : Nat) (m : Meter) : Meter :=
  { m with
    seconds := satAdd max32 m.seconds 1
    residue := (m.residue + addend) % Config.residueParts
    units := satAdd max32 m.units (m.carry addend)
    saturated := m.saturated || decide (max32 < m.units + m.carry addend) }

/-- The carry that the session of a line earns at the tick, its clock advanced. -/
def State.carryOf (s : State) (i : LineId) : Nat :=
  match (s.line i).session with
  | some ses => ses.meter.carry (s.addend ses.meter)
  | none => 0

/-- Every session charged (R111). -/
def State.chargeAll (s : State) (is : List LineId) : State :=
  s.updLines is fun _ l => l.updMeter fun m => m.charge (s.addend m)

/-- One debit for the sessions of one account, and its effects (R114, R115). `before` is the state with the
clock advanced and no session charged. -/
def State.debitAccount (before : State) (is : List LineId) (s : State) (n : Name) : State :=
  let due := is.filter fun i => (before.line i).account? = some n
  State.applyEffects (s.debit n (((due.map before.carryOf).sum : Nat) : Int))

/-- A checkpoint refresh (R116, R149). -/
def State.refresh (s : State) (i : LineId) (m : Meter) : State :=
  match s.store.checkpoint i with
  | none => s
  | some c => { s with store := s.store.setCheckpoint i (some { c with
      seconds := m.seconds, units := m.units, clockSet := m.clockSet, saturated := m.saturated,
      graceFlag := m.graceFlag, endDay := s.clock.day, endSecond := s.clock.second }) }

/-- The grace countdown of a session that was in GRACE before the tick (R117): its meter record, and whether the
timer has reached 0. -/
def Meter.countGrace (wasGrace : Bool) (m : Meter) : Meter × Bool :=
  match wasGrace, m.grace with
  | true, some n => ({ m with grace := some (n - 1) }, n ≤ 1)
  | _, _ => (m, false)

/-- The inactivity increase (R118): the meter record, and whether the count has reached the limit. -/
def Meter.countSilence (m : Meter) : Meter × Bool :=
  if m.inactLimit = 0 then (m, false)
  else ({ m with inactCount := m.inactCount + 1 }, m.inactLimit ≤ m.inactCount + 1)

/-- What follows the charge of one session at a tick: refresh, grace countdown, inactivity, and the end that
either brings (R115 to R118). `wasGrace` lists the lines in GRACE before the tick (log 30). -/
def State.afterCharge (wasGrace : List LineId) (s : State) (i : LineId) : State :=
  match (s.line i).session with
  | none => s
  | some ses =>
    let s1 := if ses.meter.seconds % 60 = 0 then s.refresh i ses.meter else s
    let g := ses.meter.countGrace (wasGrace.contains i)
    if g.2 then (s1.updLine i (Line.updMeter fun _ => g.1)).endOne i .budget false
    else
      let q := g.1.countSilence
      let s2 := s1.updLine i (Line.updMeter fun _ => q.1)
      if q.2 then s2.endOne i .inactivity false else s2

/-- The metering tick (R111 to R118), which comes at a scan (R1; log 8): the clock advances, every session is charged,
every account debited once, and then each session refreshed, counted and, if its time is up, ended. The sessions are
taken in a free order, but every account's debit and its effects come before the countdowns of all (log 13, DESIGN
CHOICE). A grace timer that a request set counts down at this tick (log 40, DESIGN CHOICE where R124's table and its last
paragraph differ). -/
def State.tick (s : State) : State :=
  let s0 : State := { s.scan with clock := s.clock.advance }
  let p := s0.takeOrder (fun i : LineId => i.val) s0.meteredLines
  let is := p.1
  let names := (is.filterMap fun i => (s0.line i).account?).dedup
  let wasGrace := is.filter fun i => (s0.line i).state = .grace
  let s1 := p.2.chargeAll is
  let s2 := names.foldl (State.debitAccount s0 is) s1
  is.foldl (State.afterCharge wasGrace) s2

/-- METERING_TICK (R111). -/
def execMeteringTick (s : State) : Out := s.whenRunning State.tick

/-- GRACE_EXPIRY: the tick at which the grace timer of the line's session reaches 0, of which its end is a part
(R117, R123; log 14). -/
def execGraceExpiry (i : LineId) (s : State) : Out := s.whenRunning fun s =>
  if (s.line i).state = .grace ∧ ((s.line i).session.bind fun ses => ses.meter.grace) = some 1 then s.tick else s

/-- INACTIVITY: the tick at which the inactivity count of the line's session reaches its limit, of which its end
is a part (R118, R123; log 14). -/
def execInactivity (i : LineId) (s : State) : Out := s.whenRunning fun s =>
  match (s.line i).session with
  | some ses => if (s.line i).state.metered ∧ ses.meter.countSilence.2 then s.tick else s
  | none => s

end Sys2Proof.Machine
end

