-- ==== Sys2Proof/Machine/Power.lean ====
section
/-! DEFINITION. Start-ups, the RESET request and pin, the power-fail warning and the supply (R141, R145, R168 to
R170). -/

namespace Sys2Proof.Machine

/-- Every piece of volatile state at its start-up value, owing the READY report `r` (R170); the retained store, the
model's own fields and the levels `pins` as given. -/
def State.volatileStart (s : State) (pins : Pins) (r : Option Ready) : State :=
  { State.reset with
    strap := pins.strap
    lines := linesAtStart pins
    link := Link.atStart r
    store := s.store
    orders := s.orders
    scans := s.scans
    pending := s.pending }

/-- A start-up (R155, R170). -/
def State.startUp (s : State) (kind : StartKind) (pins : Pins) : State :=
  let p := s.store.startUp
  { s.volatileStart pins (some ⟨kind, p.2.1, p.1.count, p.2.2⟩) with store := p.1 }

/-- POWERDOWN entered by R169, the ends already made: POWER_WARNING with the number of sessions ended. -/
def State.enterPowerdown (s : State) (ended : Nat) : State :=
  { s with
    pfw := true
    service := .powerdown
    link := { s.link with intake := [], monitor := none, powerWarning := raiseService s.link.powerWarning ended false } }

/-- The power-fail warning (R140, R169). -/
def State.powerFail (s : State) : State :=
  match s.service with
  | .powerdown => { s with pfw := true }
  | .closed | .opened | .linkLost =>
    State.enterPowerdown (s.massEnd .power).hangupAnswered s.meteredLines.length

/-- POWER_FAIL_WARNING (R169). -/
def execPowerFailWarning (s : State) : Out := s.whenRunning State.powerFail

/-- POWER_RECOVERY: PFW clear for 2 s in POWERDOWN (R169). -/
def execPowerRecovery (pins : Pins) (s : State) : Out := s.whenRunning fun s =>
  if s.service = .powerdown then s.startUp .powerRecovery pins else s

/-- RESET_PIN_ASSERTED (R168): the controller held in reset, its volatile state already that of a start-up
(log 11). Without power the pin acts on nothing. -/
def execResetPinAsserted (s : State) : Out :=
  match s.mode with
  | .running | .inReset => .next { s.volatileStart ⟨0, 0, 0⟩ none with mode := .inReset }
  | .unpowered => .next s

/-- A start-up that finds the level `pfw` of PFW when it completes (R170). -/
def State.startUpSeeing (s : State) (kind : StartKind) (pins : Pins) (pfw : Bool) : State :=
  if pfw then (s.startUp kind pins).powerFail else s.startUp kind pins

/-- RESET_PIN: the pin is released, and the controller starts up (R168, R170; log 10). -/
def execResetPin (pins : Pins) (pfw : Bool) (s : State) : Out :=
  match s.mode with
  | .running | .inReset => .next (s.startUpSeeing .resetPin pins pfw)
  | .unpowered => .next s

/-- POWER_ON (R157, R170; log 10, log 12). -/
def execPowerOn (pins : Pins) (pfw : Bool) (ram : RamFound) (s : State) : Out :=
  match ram with
  | .kept => .next (s.startUpSeeing .powerOn pins pfw)
  | .bad => .next (State.startUpSeeing { s with store := Store.bad } .powerOn pins pfw)

/-- POWER_LOSS: the volatile state is gone, the retained memory stays (R143, R145; log 11). -/
def execPowerLoss (s : State) : Out := .next { s.volatileStart ⟨0, 0, 0⟩ none with mode := .unpowered }

/-- RESET: the request taken, with no reply (R141, R168). -/
def execReset (pins : Pins) (s : State) : Out := s.whenRunning fun s =>
  match s.headFrame with
  | some (kind, label, _) =>
    if s.mayTake ∧ kind = kReset ∧ label ≠ 0 then
      ((s.massEnd .reset).hangupAnswered).startUp .resetRequest pins
    else s
  | none => s

end Sys2Proof.Machine
end

