-- ==== Sys2Proof/Machine/Characters.lean ====
section
/-! DEFINITION. The character unit's commands: characters received, framing errors, BREAK (02, sections 2.3 to
2.6), and attention (03, section 3.2). -/

namespace Sys2Proof.Machine

/-- Whether an odd number of the eight bits is mark. -/
def oddParity (bits : Byte) : Bool := (List.range 8).foldl (fun p k => p ^^ bits.getLsbD k) false

/-- Whether the parity of received bits is wrong (R33). -/
def parityWrong : Format → Byte → Bool
  | .f7E1, bits => oddParity bits
  | .f7O1, bits => !oddParity bits
  | .f8N1, _ => false

/-- The character of received bits, the parity bit stripped (R33). -/
def charOf : Format → Byte → Byte
  | .f7E1, bits | .f7O1, bits => bits &&& 0x7F
  | .f8N1, bits => bits

/-- Whether output pacing is on for the line (the settings table of R35). -/
def Line.outPacing (l : Line) : Bool :=
  match l.state, l.session, l.endedPacing with
  | .active, some ses, _ | .grace, some ses, _ => ses.copies.outPacing
  | .draining, _, some p => p.1
  | _, _, _ => l.config.outPacing

/-- An arrival from the line restarts the session's inactivity count (R40). -/
def Line.arrival (l : Line) : Line :=
  if l.state.metered then l.updMeter fun m => { m with inactCount := 0 } else l

/-- Input pacing after a stored character: DC3 at 8 characters or more (R38). -/
def Line.holdInput (l : Line) : Line :=
  match l.session with
  | some ses =>
    if l.state.metered ∧ ses.copies.inPacing ∧ l.unit.inputHeld = false ∧ Config.fifoStopLevel ≤ l.unit.fifo.length
    then { l with unit := { l.unit with inputHeld := true }, out := { l.out with control := some chDC3 } }
    else l
  | none => l

/-- A character stored at the tail of the FIFO, or lost and counted as an overrun (R36). -/
def Line.storeChar (c : Byte) (l : Line) : Line :=
  if l.unit.fifo.length < Config.fifoSize then
    Line.holdInput { l with unit := { l.unit with fifo := l.unit.fifo ++ [c] } }
  else { l with tallies := { l.tallies with overruns := satAdd max16 l.tallies.overruns 1 } }

/-- OUTPUT READY set pending when an armed queue is at 128 bytes or fewer (R54). -/
def Line.checkReady (i : LineId) (l : Line) : Line :=
  if l.out.armed ∧ l.out.queue.length ≤ Config.queueReadyLevel then
    { l with out := { l.out with armed := false }
             reports := { l.reports with outReady := some ⟨tagOf i l.generation, l.out.queue.length⟩ } }
  else l

/-- ATTENTION for a line's session (R49, R51). -/
def Line.attention (i : LineId) (l : Line) : Line :=
  match l.session with
  | none => l
  | some ses =>
    let lost := l.inputBytes ses
    let outLost := l.out.queue.length
    let l1 := Line.releaseInput { l with
      unit := { l.unit with fifo := [] }
      session := some { ses with filling := [], closed := none, held := none, fwdTimer := none }
      tallies := { l.tallies with inputLost := satAdd max16 l.tallies.inputLost lost } }
    Line.checkReady i { l1 with
      out := { l1.out with queue := [] }
      reports := { l1.reports with
        attention := some (addAttention l1.reports.attention (tagOf i l1.generation) lost outLost) } }

/-- The recognition order of a completed character (R35), its parity tallied and the arrival told to the meter. -/
def Line.receive (i : LineId) (bits : Byte) (l : Line) : Line :=
  let c := charOf l.unit.format bits
  let l := if parityWrong l.unit.format bits then
      { l with tallies := { l.tallies with parity := satAdd max16 l.tallies.parity 1 } }
    else l
  let l := l.arrival
  if l.state.metered ∧ (l.session.bind fun ses => ses.copies.attention) = some c then l.attention i
  else if l.outPacing ∧ c = chDC3 then { l with unit := { l.unit with outputStopped := true } }
  else if l.outPacing ∧ c = chDC1 then { l with unit := { l.unit with outputStopped := false } }
  else if l.state = .dialog ∨ l.state.metered then l.storeChar c
  else l

/-- CHARACTER_RECEIVED (R33, R35 to R38, R40). -/
def execCharacterReceived (i : LineId) (bits : Byte) (s : State) : Out := s.whenRunning fun s =>
  s.updLine i fun l => if l.unit.receiving then l.receive i bits else l

/-- FRAMING_ERROR (R34). -/
def execFramingError (i : LineId) (s : State) : Out := s.whenRunning fun s =>
  s.updLine i fun l =>
    if l.unit.receiving then
      { l with tallies := { l.tallies with framing := satAdd max16 l.tallies.framing 1 } }
    else l

/-- BREAK (R34, R39, R40). -/
def execBreak (i : LineId) (s : State) : Out := s.whenRunning fun s =>
  s.updLine i fun l =>
    if l.unit.receiving then
      if l.state = .dialog then (if l.config.mode = .auto then l.redetect else l)
      else if l.state.metered then l.arrival.attention i
      else l
    else l

end Sys2Proof.Machine
end

