-- ==== Sys2Proof/Machine/InputOutput.lean ====
section
/-! DEFINITION. The commands of the input assembler and of the line transmitter (03). -/

namespace Sys2Proof.Machine

/-- A filling buffer found complete (R44). -/
def Session.complete (cause : Cause) (ses : Session) : Session :=
  match ses.held with
  | none => { ses with held := some ⟨ses.filling, cause⟩, filling := [], closed := none, fwdTimer := none }
  | some _ => { ses with closed := some cause, fwdTimer := none }

/-- The forwarding conditions tested after a stored character (R43). -/
def Session.testForward (c : Byte) (ses : Session) : Session :=
  if c ∈ ses.copies.fwdChars then ses.complete .fwdChar
  else if Config.bufferSize ≤ ses.filling.length then ses.complete .full
  else ses

/-- The forwarding timer restarted by a stored character (R45). -/
def Copies.fwdStart (c : Copies) : Timer := if c.fwdTimer = 0 then none else some (c.fwdTimer * 10)

/-- What a stored character echoes (R52). -/
def echoOf (c : Byte) : List Byte := if c = chCR then crLf else [c]

/-- The head of the FIFO stored in the filling buffer (R42). -/
def Line.storeInput (c : Byte) (rest : List Byte) (ses : Session) (l : Line) : Line :=
  let l1 : Line := { l with unit := { l.unit with fifo := rest } }
  let l2 := if rest.isEmpty then l1.releaseInput else l1
  let l3 := if ses.copies.echo then l2.echo (echoOf c) else l2
  let ses' := Session.testForward c { ses with filling := ses.filling ++ [c], fwdTimer := ses.copies.fwdStart }
  { l3 with session := some ses' }

/-- INPUT_STORE (R42). -/
def execInputStore (i : LineId) (s : State) : Out := s.whenRunning fun s =>
  s.updLine i fun l =>
    match l.session, l.unit.fifo with
    | some ses, c :: rest => if l.state.metered ∧ ses.closed = none then l.storeInput c rest ses else l
    | _, _ => l

/-- FORWARDING_TIMER_EXPIRY (R45). -/
def execForwardingTimerExpiry (i : LineId) (s : State) : Out :=
  s.lineExpiry i (fun l => l.session.any fun ses => ses.fwdTimer.isSome ∧ ses.closed = none ∧ ses.filling ≠ []) fun l =>
    { l with session := l.session.map (Session.complete .timer) }

/-- The eight bits sent for a character (R55): in 7E1 and 7O1 its seven low bits and the parity over them. -/
def txBits : Format → Byte → Byte
  | .f7E1, c => if oddParity (c &&& 0x7F) then (c &&& 0x7F) ||| 0x80 else c &&& 0x7F
  | .f7O1, c => if oddParity (c &&& 0x7F) then c &&& 0x7F else (c &&& 0x7F) ||| 0x80
  | .f8N1, c => c

/-- A character begun. -/
def Line.sendChar (c : Byte) (l : Line) : Line :=
  { l with out := { l.out with tx := some (txBits l.unit.format c) } }

/-- The transmitter takes its next character from the first of its sources that has one (R56, R58, R63); with
none it is idle. A waiting notice begins when its first character is taken, which clears prompt due when the
notice is the due prompt. -/
def Line.takeNext (i : LineId) (texts : Vector (List Byte) 16) (l : Line) : Line :=
  match l.out.control with
  | some c => Line.sendChar c { l with out := { l.out with control := none } }
  | none =>
    if l.unit.outputStopped then l
    else
      match l.out.noticeCur, l.out.noticeWait, l.out.queue with
      | c :: rest, _, _ => Line.placeDue texts (Line.sendChar c { l with out := { l.out with noticeCur := rest } })
      | [], c :: rest, _ =>
        Line.placeDue texts (Line.sendChar c { l with
          dialog := { l.dialog with promptDue :=
            if l.out.waitPrompt = l.dialog.promptDue then none else l.dialog.promptDue }
          out := { l.out with noticeCur := rest, noticeWait := [], waitPrompt := none } })
      | [], [], c :: rest => Line.checkReady i (Line.sendChar c { l with out := { l.out with queue := rest } })
      | [], [], [] => l

/-- TRANSMIT_CHARACTER (R55, R56): the character in progress, if any, ends; the completion of REJECTING and
DRAINING is tested (R61); while the line has a speed the next character is taken. -/
def execTransmitCharacter (i : LineId) (s : State) : Out := s.whenRunning fun s =>
  s.updLine i fun l =>
    let l := Line.settle { l with out := { l.out with tx := none } }
    if l.unit.speed.isSome then l.takeNext i s.texts else l

end Sys2Proof.Machine
end

