-- ==== Sys2Proof/Machine/SessionRequests.lean ====
section
/-! DEFINITION. The requests that name a session tag (R54, R127, R129, R134) and the charge-store requests (R151,
R152). -/

namespace Sys2Proof.Machine

/-- The line whose current session a tag names, if there is one (R127). -/
def State.currentLine (s : State) (tag : Nat) : Option LineId :=
  if h : tag / 256 < 48 then
    let l := s.line ⟨tag / 256, h⟩
    if l.session.isSome ∧ l.generation.toNat = tag % 256 then some ⟨tag / 256, h⟩ else none
  else none

/-- A request on the session a tag names, or STALE (R127). -/
def onSession (tag : Nat) (s : State) (act : LineId → State × Answer) : State × Answer :=
  match s.currentLine tag with
  | some i => act i
  | none => (s, answerOf .stale)

/-- OUTPUT (R54). -/
def readOutput (f : List Byte) : Option (Nat × Nat × List Byte) := do
  let (tag, r) ← u16 f
  let (n, r) ← u16 r
  let (data, _) ← takeBytes n r
  some (tag, n, data)

/-- The bytes of an OUTPUT that fit (R54). -/
def Line.room (l : Line) : Nat := Config.queueSize - l.out.queue.length

/-- The leading bytes that fit appended, and the queue armed when it is left full (R54). -/
def Line.appendOutput (data : List Byte) (l : Line) : Line :=
  let q := l.out.queue ++ data.take l.room
  { l with out := { l.out with
      queue := q
      armed := l.out.armed || decide (l.room < data.length) || decide (Config.queueSize ≤ q.length) } }

def outputReq : Handler := fun f s => withFields (readOutput f) s fun (tag, n, data) =>
  if 256 < n then (s, answerBad 2)
  else onSession tag s fun i =>
    let taken := (data.take (s.line i).room).length
    (s.updLine i (Line.appendOutput data),
     (if taken = data.length then Result.done else Result.partly, be16 taken))
/-- OUTPUT (R54). -/
def execOutput (s : State) : Out := s.whenRunning (State.takeRequest kOutput outputReq)

/-- SET SESSION (R129). -/
def readSetSession (f : List Byte) : Option (Nat × RawCopies) := do
  let (tag, r) ← u16 f
  let c ← readCopies r
  some (tag, c)

/-- New session copies in force (R37, R38, R47, R129). -/
def Line.setCopies (c : Copies) (l : Line) : Line :=
  let l1 := { l with
    session := l.session.map fun ses =>
      { ses with copies := c, fwdTimer := if c.fwdTimer = 0 then none else ses.fwdTimer }
    unit := if c.outPacing then l.unit else { l.unit with outputStopped := false } }
  if c.inPacing then l1 else l1.releaseInput

def setSessionReq : Handler := fun f s => withFields (readSetSession f) s fun (tag, raw) =>
  match raw.check with
  | .error n => (s, answerBad n)
  | .ok c => onSession tag s fun i => (s.updLine i (Line.setCopies c), answerDone (copiesBlock c))
def execSetSession (s : State) : Out := s.whenRunning (State.takeRequest kSetSession setSessionReq)

/-- END SESSION (R134): option 0 is DRAIN, 1 is DISCARD. The reply carries what the END flag holds. -/
def readEndSession (f : List Byte) : Option (Nat × Byte) := do
  let (tag, r) ← u16 f
  let (opt, _) ← u8 r
  some (tag, opt)

def endReply (l : Line) : List Byte :=
  match l.reports.ended with
  | some e => be16 e.tag.toNat ++ be32 e.serial.toNat ++ be32 e.units ++ be32 e.seconds
  | none => []

def endSessionReq : Handler := fun f s => withFields (readEndSession f) s fun (tag, opt) =>
  if opt ≠ 0 ∧ opt ≠ 1 then (s, answerBad 2)
  else onSession tag s fun i =>
    let p := s.endSession i .requested (opt == 0)
    (State.applyEffects p, answerDone (endReply (p.1.line i)))
def execEndSession (s : State) : Out := s.whenRunning (State.takeRequest kEndSession endSessionReq)

/-- READ CHARGES (R150, R151). -/
def readChargesReq : Handler := fun f s => withFields (u8 f) s fun (b, _) =>
  let n := if b.toNat < 1 then 1 else if 8 < b.toNat then 8 else b.toNat
  let k := min n s.store.count
  let mark := max s.readMark k
  ({ s with readMark := mark },
   answerDone ([byteOf n, byteOf k] ++ be16 s.store.count ++ be16 mark
     ++ (s.store.records.take k).flatMap recordBytes))
def execReadCharges (s : State) : Out := s.whenRunning (State.takeRequest kReadCharges readChargesReq)

/-- RELEASE CHARGES (R152, R154). -/
def State.release (s : State) (n : Nat) : State :=
  if n = 0 then s
  else
    let st := s.store.release n
    { s with store := st, readMark := s.readMark - n,
             chargeArmed := s.chargeArmed || (s.link.chargeLevel ≠ 0 && st.count < s.link.chargeLevel) }

def releaseChargesReq : Handler := fun f s => withFields (u16 f) s fun (c, _) =>
  let n := min c s.readMark
  let s' := s.release n
  (s', answerDone (be16 n ++ be16 s'.store.count ++ be16 s'.readMark))
def execReleaseCharges (s : State) : Out := s.whenRunning (State.takeRequest kReleaseCharges releaseChargesReq)

end Sys2Proof.Machine
end

