-- ==== Sys2Proof/Machine/SpeedDetector.lean ====
section
/-! DEFINITION. The speed detector's commands (02, sections 2.1.1 to 2.1.4). -/

namespace Sys2Proof.Machine

/-- The nominal bit length of each speed code in samples (section 2.1.3). -/
def bitLength : Vector Nat 8 := #v[1396, 1024, 512, 256, 128, 64, 32, 16]

/-- Whether a run lies in a speed's window (R27). -/
def inWindow (k : SpeedCode) (run : Nat) : Bool :=
  let n := bitLength.get k
  n - n / 8 ≤ run && run ≤ n + n / 8

/-- The speed codes, fastest first. -/
def speedsDown : List SpeedCode := [7, 6, 5, 4, 3, 2, 1, 0]

/-- The presence map of a list of runs (R27). -/
def presenceOf (runs : List Nat) : BitVec 8 :=
  speedsDown.foldl (fun m k => if runs.any (inWindow k) then m ||| (1#8 <<< k.val) else m) 0#8

/-- The chosen speed: the fastest whose flag is set (R27). -/
def fastest (map : BitVec 8) : Option SpeedCode := speedsDown.find? fun k => map.getLsbD k.val

/-- A run in bits of length n, halves rounded up (R28). -/
def runBits (n run : Nat) : Nat := (2 * run + n) / (2 * n)

/-- The bits a list of runs forms, the first run being of the level `lv` (R28). -/
def bitsOfRuns (n : Nat) : Level → List Nat → List Level
  | _, [] => []
  | lv, run :: rest => List.replicate (runBits n run) lv ++ bitsOfRuns n lv.flip rest

/-- The first 8 bits of a carriage return: start bit, then 0Dh least significant bit first (R28). -/
def crBits : List Level := [.space, .mark, .space, .mark, .mark, .space, .space, .space]

/-- The carriage-return check (R28). -/
def readsCR (k : SpeedCode) (runs : List Nat) : Bool :=
  (bitsOfRuns (bitLength.get k) .space runs ++ List.replicate 8 Level.mark).take 8 = crBits

/-- A failed character (R30): recorded, tallied, counted, and at the attempts limit the line hangs up with
SPEED_FAIL. -/
def Line.detectFail (r : DetResult) (l : Line) : Line :=
  let n := l.detector.attempts + 1
  let l := { l with
    detector := { l.detector with last := r, attempts := n, intervals := [], phase := .arming }
    tallies := { l.tallies with detFailures := satAdd max16 l.tallies.detFailures 1 } }
  if n = l.config.detAttempts then l.hangup.raiseEvent .speedFail r.code else l

/-- The end of a character (R26 to R30). -/
def State.evaluateCharacter (s : State) (i : LineId) : State :=
  let l := s.line i
  let runs := l.detector.intervals
  let map := presenceOf runs
  let l := { l with detector := { l.detector with presence := map } }
  match fastest map with
  | none => s.setLine i (l.detectFail .noMatch)
  | some k =>
    if readsCR k runs then
      State.admitLine (s.setLine i { l with
        detector := { l.detector with last := .ok, timer := none }
        unit := l.unit.start k l.config.format }) i
    else s.setLine i (l.detectFail .badChar)

/-- Whether the detector is measuring a character. -/
def Line.measuring (l : Line) : Bool := l.state = .detecting && l.detector.phase = .measuring

/-- The current interval reaches the length `len` at its level: the limits of R26, else `go`. -/
def State.atLimit (s : State) (i : LineId) (len : Nat) (go : State) : State :=
  match (s.line i).detector.curLevel with
  | .mark => if Config.quietSamples ≤ len then s.evaluateCharacter i else go
  | .space => if Config.longSpaceSamples ≤ len then s.updLine i (Line.detectFail .noEnd) else go

/-- A transition that ends the current interval at the length `len` (R25, R26). The limits apply first, since a
run that reaches one has ended the measurement before the transition (log 15). The count of a joined interval is the
16-bit counter's, at most 65,535 (R25), where NO_END ends it (log 16). Where a noise start edge returns the
detector to WAITING, R25 gives the current interval no value: it is empty and of level mark (log 16, DESIGN CHOICE). -/
def State.runEnds (s : State) (i : LineId) (len : Nat) : State :=
  s.atLimit i len <|
    let d := (s.line i).detector
    if Config.noiseSamples < len then
      if Config.intervalsSize ≤ d.intervals.length then s.updLine i (Line.detectFail .tooMany)
      else s.updLine i fun l => { l with detector := { d with
        intervals := d.intervals ++ [len], cur := 0, curLevel := d.curLevel.flip } }
    else
      match d.intervals.getLast? with
      | none => s.updLine i fun l => { l with detector := { d with phase := .waiting, cur := 0, curLevel := .mark } }
      | some t =>
        let s' := s.updLine i fun l => { l with detector := { d with
          intervals := d.intervals.dropLast, cur := satAdd max16 t len, curLevel := d.curLevel.flip } }
        s'.atLimit i (satAdd max16 t len) s'

/-- QUIET_LINE (R24). -/
def execQuietLine (i : LineId) (s : State) : Out := s.whenRunning fun s =>
  s.updLine i fun l =>
    if l.state = .detecting ∧ l.detector.phase = .arming then
      { l with detector := { l.detector with phase := .waiting } }
    else l

/-- START_EDGE (R24, R27). -/
def execStartEdge (i : LineId) (s : State) : Out := s.whenRunning fun s =>
  s.updLine i fun l =>
    if l.state = .detecting ∧ l.detector.phase = .waiting then
      { l with detector := { l.detector with phase := .measuring, intervals := [], cur := 0, curLevel := .space,
                                             presence := 0 } }
    else l

/-- TRANSITION (R25): `samples` counted since the previous transition. On a list of 24 the 25th interval fails
the character with TOO_MANY, as R25 says. -/
def execTransition (i : LineId) (samples : Nat) (s : State) : Out := s.whenRunning fun s =>
  let l := s.line i
  if l.measuring then s.runEnds i (l.detector.cur + samples) else s

/-- END_OF_CHARACTER: a mark run reaches 4,096 samples (R26, R28). -/
def execEndOfCharacter (i : LineId) (s : State) : Out := s.whenRunning fun s =>
  let l := s.line i
  if l.measuring ∧ l.detector.curLevel = .mark then s.evaluateCharacter i else s

/-- NO_END: a space run reaches 65,535 samples (R26). -/
def execNoEnd (i : LineId) (s : State) : Out := s.whenRunning fun s =>
  let l := s.line i
  if l.measuring ∧ l.detector.curLevel = .space then s.updLine i (Line.detectFail .noEnd) else s

/-- TOO_MANY: a transition ends a 25th interval of 8 samples or more (R26). -/
def execTooMany (i : LineId) (samples : Nat) (s : State) : Out := s.whenRunning fun s =>
  let l := s.line i
  if l.measuring ∧ Config.intervalsSize ≤ l.detector.intervals.length ∧
      Config.noiseSamples < l.detector.cur + samples then
    s.runEnds i (l.detector.cur + samples)
  else s

/-- DETECTION_TIMER_EXPIRY (R31). -/
def execDetectionTimerExpiry (i : LineId) (s : State) : Out :=
  s.lineExpiry i (fun l => l.state = .detecting ∧ l.detector.timer.isSome) fun l =>
    l.hangup.raiseEvent .speedFail l.detector.last.code

end Sys2Proof.Machine
end

