-- ==== Sys2Proof/Machine/Dispatch.lean ====
section
/-! DEFINITION. One arm for each command. -/

namespace Sys2Proof.Machine

def exec (i : Instr) (s : State) : Host.Outcome State Fault Refusal :=
  match i with
  | .keepalive => Sys2Proof.Machine.execKeepalive s
  | .status => Sys2Proof.Machine.execStatus s
  | .openService => Sys2Proof.Machine.execOpenService s
  | .closeService => Sys2Proof.Machine.execCloseService s
  | .setClock => Sys2Proof.Machine.execSetClock s
  | .adjustClock => Sys2Proof.Machine.execAdjustClock s
  | .loadTariff => Sys2Proof.Machine.execLoadTariff s
  | .loadText => Sys2Proof.Machine.execLoadText s
  | .setMonitor => Sys2Proof.Machine.execSetMonitor s
  | .reset pins => Sys2Proof.Machine.execReset pins s
  | .configureLine => Sys2Proof.Machine.execConfigureLine s
  | .enableLine => Sys2Proof.Machine.execEnableLine s
  | .disableLine => Sys2Proof.Machine.execDisableLine s
  | .lineStatus => Sys2Proof.Machine.execLineStatus s
  | .broadcast => Sys2Proof.Machine.execBroadcast s
  | .loadAccount => Sys2Proof.Machine.execLoadAccount s
  | .deleteAccount => Sys2Proof.Machine.execDeleteAccount s
  | .creditAccount => Sys2Proof.Machine.execCreditAccount s
  | .readAccount => Sys2Proof.Machine.execReadAccount s
  | .setAccountState => Sys2Proof.Machine.execSetAccountState s
  | .output => Sys2Proof.Machine.execOutput s
  | .setSession => Sys2Proof.Machine.execSetSession s
  | .endSession => Sys2Proof.Machine.execEndSession s
  | .readCharges => Sys2Proof.Machine.execReadCharges s
  | .releaseCharges => Sys2Proof.Machine.execReleaseCharges s
  | .labelZeroFrame => Sys2Proof.Machine.execLabelZeroFrame s
  | .unknownKind => Sys2Proof.Machine.execUnknownKind s
  | .frameReceived bytes => Sys2Proof.Machine.execFrameReceived bytes s
  | .frameTimeout => Sys2Proof.Machine.execFrameTimeout s
  | .arbiterChoice => Sys2Proof.Machine.execArbiterChoice s
  | .hostSilenceExpiry => Sys2Proof.Machine.execHostSilenceExpiry s
  | .powerFailWarning => Sys2Proof.Machine.execPowerFailWarning s
  | .powerRecovery pins => Sys2Proof.Machine.execPowerRecovery pins s
  | .resetPinAsserted => Sys2Proof.Machine.execResetPinAsserted s
  | .resetPin pins pfw => Sys2Proof.Machine.execResetPin pins pfw s
  | .powerOn pins pfw ram => Sys2Proof.Machine.execPowerOn pins pfw ram s
  | .ringSeen line => Sys2Proof.Machine.execRing line s
  | .carrierDetect line => Sys2Proof.Machine.execCarrierDetect line s
  | .carrierDrop line => Sys2Proof.Machine.execCarrierDrop line s
  | .carrierWaitExpiry line => Sys2Proof.Machine.execCarrierWaitExpiry line s
  | .carrierLoss line => Sys2Proof.Machine.execCarrierLoss line s
  | .hangupGuardExpiry line => Sys2Proof.Machine.execHangupGuardExpiry line s
  | .lockoutExpiry line => Sys2Proof.Machine.execLockoutExpiry line s
  | .drainTimerExpiry line => Sys2Proof.Machine.execDrainTimerExpiry line s
  | .quietLine line => Sys2Proof.Machine.execQuietLine line s
  | .endOfCharacter line => Sys2Proof.Machine.execEndOfCharacter line s
  | .noEnd line => Sys2Proof.Machine.execNoEnd line s
  | .tooMany line samples => Sys2Proof.Machine.execTooMany line samples s
  | .detectionTimerExpiry line => Sys2Proof.Machine.execDetectionTimerExpiry line s
  | .characterReceived line bits => Sys2Proof.Machine.execCharacterReceived line bits s
  | .framingError line => Sys2Proof.Machine.execFramingError line s
  | .breakReceived line => Sys2Proof.Machine.execBreak line s
  | .inputStore line => Sys2Proof.Machine.execInputStore line s
  | .forwardingTimerExpiry line => Sys2Proof.Machine.execForwardingTimerExpiry line s
  | .transmitCharacter line => Sys2Proof.Machine.execTransmitCharacter line s
  | .nameCharacter line => Sys2Proof.Machine.execNameCharacter line s
  | .passwordCharacter line => Sys2Proof.Machine.execPasswordCharacter line s
  | .dialogTimerExpiry line => Sys2Proof.Machine.execDialogTimerExpiry line s
  | .rejectingTimerExpiry line => Sys2Proof.Machine.execRejectingTimerExpiry line s
  | .meteringTick => Sys2Proof.Machine.execMeteringTick s
  | .graceExpiry line => Sys2Proof.Machine.execGraceExpiry line s
  | .inactivity line => Sys2Proof.Machine.execInactivity line s
  | .startEdge line => Sys2Proof.Machine.execStartEdge line s
  | .transition line samples => Sys2Proof.Machine.execTransition line samples s
  | .powerLoss => Sys2Proof.Machine.execPowerLoss s

end Sys2Proof.Machine
end

