-- ==== Sys2Proof/Machine/Idle.lean ====
section
/-! DEFINITION. The passing of one 10 ms latch-bus scan interval with no command waiting (log 1). -/

namespace Sys2Proof.Machine

/-- A timer 10 ms later; at 0 it waits for its expiry command (log 2). -/
def Timer.pass (t : Timer) : Timer := t.map (· - 1)

/-- The dialog timer 10 ms later; held, it keeps its time (R62, R71). -/
def HeldTimer.pass : HeldTimer → HeldTimer
  | .running n => .running (n - 1)
  | .stopped => .stopped
  | .held n => .held n

/-- A line 10 ms later: its timers, the RI level the scan finds where it was high (log 5), and DTR as the scan writes it
(R1, R2; log 8). -/
def Line.pass (riHigh : Bool) (l : Line) : Line :=
  { l.drive with
    ri := l.ri && riHigh
    carrierWait := Timer.pass l.carrierWait
    carrierLoss := Timer.pass l.carrierLoss
    guard := Timer.pass l.guard
    drain := Timer.pass l.drain
    lockout := Timer.pass l.lockout
    detector := { l.detector with timer := Timer.pass l.detector.timer }
    unit := { l.unit with spaceTimer := Timer.pass l.unit.spaceTimer }
    dialog := { l.dialog with timer := l.dialog.timer.pass, rejecting := Timer.pass l.dialog.rejecting }
    session := l.session.map fun ses => { ses with fwdTimer := Timer.pass ses.fwdTimer } }

/-- The part with nothing commanded for 10 ms. -/
def State.idle (s : State) : Out :=
  .next (if s.mode = .running then
    { s with
      scans := s.scans + 1
      link := { s.link with monitor := Timer.pass s.link.monitor }
      lines := Vector.ofFn fun i => (s.line i).pass (Config.riStillHigh s.scans i) }
  else s)

end Sys2Proof.Machine
end

