-- ==== Sys2Proof/Machine/Step.lean ====
section
/-! DEFINITION. One step of the part, and a command put in front of its queue. -/

namespace Sys2Proof.Machine

/-- One step: the command at the front of the queue, or with none waiting one 10 ms interval (log 1). -/
def step (s : State) : Host.Outcome State Fault Refusal :=
  match s.pending with
  | [] => State.idle s
  | c :: rest => exec c { s with pending := rest }

/-- `s` with the command that a word spells in front of its queue; no row of the table has bits, so `s` as it is. -/
def State.withFetchWord (s : State) (nbits w : Nat) : State :=
  match decodeTableWord nbits w with
  | some c => { s with pending := c :: s.pending }
  | none => s

end Sys2Proof.Machine
end

