-- ==== Sys2Proof/Safety.lean ====
section
/-! DEFINITION. What the claims say of a state: the invariants of the part, a request waiting to be taken, and the
answer to it. -/

namespace Sys2Proof.Machine

/-! ### Invariants -/

/-- Every line meets `P`. -/
def State.AllLines (P : Line → Prop) (s : State) : Prop := ∀ i, P (s.line i)

/-- DTR is high in the answered states and low in the others (R2), as each scan writes it (R1). -/
def Line.DtrRight (l : Line) : Prop := l.dtr = l.state.answered

/-- DTR is right but where the scan after a change of state has it still to write: it may be low for a while in ANSWERING,
which a line enters from IDLE, and high for a while in HANGUP, which it enters from an answered state (R1, R2). -/
def Line.DtrSettled (l : Line) : Prop := l.state ≠ .answering → l.state ≠ .hangup → l.DtrRight

/-- A session, with its meter record, is open on a line exactly in ACTIVE and GRACE (R109). -/
def Line.SessionRight (l : Line) : Prop := l.session.isSome = l.state.metered

/-- The sizes of a session's input buffers (R43): an OPEN filling buffer holds fewer than 256 bytes. -/
def Session.Bounded (ses : Session) : Prop :=
  ses.filling.length ≤ Config.bufferSize
  ∧ (ses.closed = none → ses.filling.length < Config.bufferSize)
  ∧ ∀ b, ses.held = some b → b.bytes.length ≤ Config.bufferSize

/-- The sizes of a line's FIFO, output queue, notices, interval list and input buffers, and the
16-bit count of the current interval (R25, R36, R43, R53, R58). -/
def Line.Bounded (l : Line) : Prop :=
  l.unit.fifo.length ≤ Config.fifoSize
  ∧ l.out.queue.length ≤ Config.queueSize
  ∧ l.out.noticeCur.length ≤ Config.noticeSize
  ∧ l.out.noticeWait.length ≤ Config.noticeSize
  ∧ l.detector.intervals.length ≤ Config.intervalsSize ∧ l.detector.cur ≤ 65535
  ∧ ∀ ses, l.session = some ses → ses.Bounded

/-- The intake queue and the reply queue hold at most 4 (R160, R161). -/
def State.LinkBounded (s : State) : Prop :=
  s.link.intake.length ≤ Config.linkQueueSize ∧ s.link.replies.length ≤ Config.linkQueueSize

/-- The charge store (R143, R144, R148, R150): its header is good and counts the list; the serials rise by one up to
the next serial; records and valid checkpoint entries together keep the room law; the read mark is within the list;
and while the controller runs a checkpoint entry is valid exactly when its line is in ACTIVE or GRACE. -/
structure State.StoreRight (s : State) : Prop where
  good : s.store.headerGood = true
  counted : s.store.records.length = s.store.count
  serials : ∀ (k : Nat) (r : Record), s.store.records[k]? = some r →
    r.serial = s.store.nextSerial - BitVec.ofNat 32 s.store.count + BitVec.ofNat 32 k
  room : s.store.sum ≤ Config.storeSize
  mark : s.readMark ≤ s.store.count
  entries : s.mode = .running → ∀ i, (s.store.checkpoint i).isSome = (s.line i).state.metered

/-- The active count of every account is the number of its sessions and at most 4, its limit is at most 4, and every
session's account is in the table (R79, R86). -/
structure State.CountsRight (s : State) : Prop where
  counts : ∀ n a, s.account? n = some a → a.active = (s.sessionsOf n).length ∧ a.active ≤ 4 ∧ a.limit ≤ 4
  present : ∀ i n, (s.line i).account? = some n → (s.account? n).isSome = true

/-- The budget state of every account is the one that its budget, its overdraft allowance and the warning level of
its class give (R81). -/
def State.BudgetsRight (s : State) : Prop :=
  ∀ n a, s.account? n = some a → a.bstate = budgetStateOf a.budget a.overdraft (s.warnLevel a.cls)

/-- The commands that put every line at its start-up value: start-ups, the RESET pin, the loss of power (R21, R145,
R168, R170). -/
def startsUp : Instr → Bool
  | .reset _ | .powerRecovery _ | .resetPinAsserted | .resetPin _ _ | .powerOn _ _ _ | .powerLoss => true
  | _ => false

/-! ### Scans -/

/-- The commands that hold a scan of the latch bus where they act: what a scan found, and the end of a time counted in
scans (R1; log 8). -/
def holdsScan : Instr → Bool
  | .ringSeen _ | .carrierDetect _ | .carrierDrop _ => true
  | .carrierWaitExpiry _ | .carrierLoss _ | .hangupGuardExpiry _ | .lockoutExpiry _ | .drainTimerExpiry _ => true
  | .detectionTimerExpiry _ | .forwardingTimerExpiry _ | .dialogTimerExpiry _ | .rejectingTimerExpiry _ => true
  | .hostSilenceExpiry | .meteringTick | .graceExpiry _ | .inactivity _ => true
  | _ => false

/-- A line with its DTR as a scan writes it (R1, R2). -/
def Line.driven (l : Line) : Line := { l with dtr := l.state.answered }

/-- `s` after a scan: DTR of all 48 lines written (R1). -/
def State.scanned (s : State) : State := { s with lines := Vector.ofFn fun i => (s.line i).driven }

/-! ### Requests -/

/-- A request of kind `kind`, label `label` and fields `fields` is at the head of the intake queue of a running
controller that may take it (R161). -/
structure State.Asked (s : State) (kind label : Byte) (fields : List Byte) : Prop where
  running : s.mode = .running
  service : s.service ≠ .powerdown
  room : s.link.replies.length < Config.linkQueueSize
  head : s.link.intake.head? = some (kind :: label :: fields)
  label : label ≠ 0

/-- `s` with the request at the head of the intake queue removed and answered: kind + 80h, the label, the result and
the bytes after it (R161, R172). -/
def State.answered (s : State) (kind label : Byte) (result : Result) (bytes : List Byte) : State :=
  { s with link := { s.link with
      intake := s.link.intake.tail
      replies := s.link.replies ++ [⟨kind + 0x80, label, result, bytes⟩] } }

/-! ### A line moved -/

/-- A line that has entered HANGUP: the guard at 2 s, the timers of the call stopped, reception stopped, the
output discarded, the transmitter left to finish its character, the dialog discarded (R10, R23, R32, R62). -/
def Line.onHook (l : Line) : Line :=
  { l with
    state := .hangup
    guard := some 200
    carrierWait := none
    carrierLoss := none
    drain := none
    detector := { l.detector with timer := none, intervals := [] }
    unit := { l.unit with receiving := false, speed := none, fifo := [], spaceTimer := none, inputHeld := false,
                          outputStopped := false }
    out := ⟨[], false, [], [], none, none, l.out.tx⟩
    dialog := ⟨.name, [], [], 0, 0, .stopped, none, none, none, []⟩
    endedPacing := none }

/-- A text as the transmitter would send it (R59). -/
def State.textFor (s : State) (k : Fin 16) (budget : Option Int) (units : Option Nat) : List Byte :=
  expand budget units (s.texts.get k)

/-! ### The tariff set of LOAD TARIFF -/

/-- Every value of a tariff set fits the width of its field in LOAD TARIFF (section 11.2 of 11). -/
structure Tariff.Fits (t : Tariff) : Prop where
  counts : t.bands.length < 256 ∧ t.weekday.length < 256 ∧ t.holiday.length < 256
  rates : ∀ b ∈ t.bands, ∀ c : Cls, b.get c < 65536
  schedules : ∀ e ∈ t.weekday ++ t.holiday, e.start < 65536 ∧ e.band < 256
  weights : t.weightLow < 256 ∧ t.weightMedium < 256 ∧ t.weightHigh < 256
  setup : ∀ c : Cls, t.setup.get c < 65536
  warn : ∀ c : Cls, t.warn.get c < 4294967296
  grace : t.grace < 65536

/-- The checks of R104 in their order: whether the check fails, its item, and the position byte of R172. -/
def Tariff.checks (t : Tariff) (rounding : Byte) : List (Bool × Nat × Nat) :=
  let schedule (day : Nat) (sched : List SchedEntry) : List (Bool × Nat × Nat) :=
    (decide (sched.length < 1 ∨ 6 < sched.length), 3, day * 16)
    :: (sched.zipIdx.map fun p =>
        (if p.2 = 0 then decide (p.1.start ≠ 0)
          else decide (1439 < p.1.start ∨ p.1.start ≤ ((sched[p.2 - 1]?).map SchedEntry.start).getD 0), 4, day * 16 + p.2))
    ++ sched.zipIdx.map fun p => (decide (t.bands.length ≤ p.1.band), 5, day * 16 + p.2)
  let classes : List Cls := [0, 1, 2, 3]
  (decide (t.bands.length < 1 ∨ 8 < t.bands.length), 1, 0)
  :: (t.bands.zipIdx.flatMap fun p => classes.map fun c => (decide (60000 < p.1.get c), 2, p.2 * 4 + c.val))
  ++ schedule 0 t.weekday ++ schedule 1 t.holiday
  ++ ([t.weightLow, t.weightMedium, t.weightHigh].zipIdx.map fun p => (decide (p.1 < 1 ∨ 32 < p.1), 6, p.2))
  ++ (classes.map fun c => (decide (9999 < t.setup.get c), 7, c.val))
  ++ (classes.map fun c => (decide (1000000 < t.warn.get c), 8, c.val))
  ++ [(decide (900 < t.grace), 9, 0), (decide (2 < rounding.toNat), 10, 0)]

/-- The fields of LOAD TARIFF for a tariff set, its rounding byte as given (section 11.2 of 11). -/
def Tariff.fields (t : Tariff) (rounding : Byte) : List Byte :=
  let schedule (sched : List SchedEntry) : List Byte :=
    byteOf sched.length :: sched.flatMap fun e => be16 e.start ++ [byteOf e.band]
  let four (width : Nat → List Byte) (v : Vector Nat 4) : List Byte :=
    width (v.get 0) ++ width (v.get 1) ++ width (v.get 2) ++ width (v.get 3)
  byteOf t.bands.length :: t.bands.flatMap (four be16)
  ++ schedule t.weekday ++ schedule t.holiday
  ++ [byteOf t.weightLow, byteOf t.weightMedium, byteOf t.weightHigh]
  ++ four be16 t.setup ++ four be32 t.warn ++ be16 t.grace ++ [rounding]

/-- The code of a rounding rule (section 11.4 of 11). -/
def Rounding.code : Rounding → Byte
  | .down => 0 | .nearest => 1 | .up => 2

/-! ### Accounts -/

/-- A well-formed account name: 1 to 8 characters, each A–Z or 0–9 (R79). -/
structure NameGood (n : Name) : Prop where
  nonempty : n ≠ []
  short : n.length ≤ 8
  chars : ∀ c ∈ n, isNameChar c = true

/-- The budget state of a budget, an allowance and a class by the table of R81, with the tariff in force. -/
def State.stateOfBudget (s : State) (budget : Int) (overdraft : Nat) (c : Cls) : BudgetState :=
  if budget < -(overdraft : Int) then .exhausted
  else if budget < (s.tariff.map fun t : Tariff => (t.warn.get c : Int)).getD 0 then .warned
  else .normal

/-- A budget within its 32 bits (R80). -/
def clampBudget (z : Int) : Int := max (-2147483648) (min 2147483647 z)

/-- The BUDGET flag after a transition: its contents replaced, its count raised (R85). -/
def Account.flagAfter (a : Account) (budget : Int) (st : BudgetState) : BudgetFlag :=
  ⟨budget, st, match a.notice with | some f => min 255 (f.count + 1) | none => 1⟩

/-- The line of a session of an account after a transition of the account's budget state, the budget now `budget`: the
text of R82 with the account and the session as its markers, and grace begun with the tariff's time (R83) or ended
(R84). A grace time of 0, which ends the session, is apart. -/
def State.lineAfter (s : State) (old new : BudgetState) (budget : Int) (l : Line) : Line :=
  let notice (k : Fin 16) (l : Line) : Line :=
    if l.unit.speed = none then l
    else { l with out := { l.out with
      noticeWait := s.textFor k (some budget) (l.session.map fun ses => ses.meter.units), waitPrompt := none } }
  match old, new with
  | .normal, .warned => notice 7 l
  | .normal, .exhausted | .warned, .exhausted => notice 8 { l with
      state := .grace
      session := l.session.map fun ses => { ses with meter := { ses.meter with
        grace := s.tariff.map Tariff.grace, graceFlag := true } } }
  | .exhausted, .normal | .exhausted, .warned => notice 13 { l with
      state := .active
      session := l.session.map fun ses => { ses with meter := { ses.meter with grace := none } } }
  | .warned, .normal | .normal, .normal | .warned, .warned | .exhausted, .exhausted => l

/-- The tariff in force gives a grace time (R83). -/
def State.GraceGiven (s : State) : Prop := ∃ tariff, s.tariff = some tariff ∧ tariff.grace ≠ 0

/-! ### Sessions -/

/-- A tag names no current session: its line number is above 47, or that line has no session, or another generation
(R127). -/
def State.Stale (s : State) (tag : Nat) : Prop :=
  ∀ i : LineId, i.val = tag / 256 → (s.line i).session = none ∨ (s.line i).generation.toNat ≠ tag % 256

/-- The rounding unit of a residue by the table of R120. -/
def roundingUnitOf (r : Rounding) (residue : Nat) : Nat :=
  match r with
  | .down => 0
  | .nearest => if 14400 ≤ residue then 1 else 0
  | .up => if 0 < residue then 1 else 0

/-- A session closed on line `i` with the rounding unit `ru` (R120, R121). -/
def State.closed (s : State) (i : LineId) (m : Meter) (ru : Nat) : Charge where
  account := m.account
  cls := m.cls
  line := i
  speed := (s.line i).unit.speed.getD 0
  startDay := m.startDay
  startSecond := m.startSecond
  endDay := s.clock.day
  endSecond := s.clock.second
  seconds := m.seconds
  units := min 4294967295 (m.units + ru)
  clockSet := m.clockSet
  saturated := m.saturated || decide (4294967295 < m.units + ru)
  graceFlag := m.graceFlag

/-- The bytes of input that the end of a session on a line discards (R48). -/
def Line.inputHeldBytes (l : Line) (ses : Session) : Nat :=
  l.unit.fifo.length + ses.filling.length + ((ses.held.map fun b => b.bytes.length).getD 0)

/-- The addend of a session at a tick, the clock advanced (R112). -/
def State.tickAddend (s : State) (ses : Session) : Nat := State.addend { s with clock := s.clock.advance } ses.meter

/-- The carry that the session of a line earns at a tick (R113). -/
def State.tickCarry (s : State) (i : LineId) : Nat :=
  ((s.line i).session.map fun ses => (ses.meter.residue + s.tickAddend ses) / 28800).getD 0

/-- The debit that a tick makes on an account (R114). -/
def State.tickDebit (s : State) (n : Name) : Nat := ((s.sessionsOf n).map s.tickCarry).sum

/-- A meter record after a tick's charge (R111, R113, R114). -/
def State.tickMeter (s : State) (ses : Session) : Meter :=
  { ses.meter with
    seconds := min 4294967295 (ses.meter.seconds + 1)
    units := min 4294967295 (ses.meter.units + (ses.meter.residue + s.tickAddend ses) / 28800)
    residue := (ses.meter.residue + s.tickAddend ses) % 28800
    saturated := ses.meter.saturated
      || decide (4294967295 < ses.meter.units + (ses.meter.residue + s.tickAddend ses) / 28800) }

/-- A line after a tick at which its session goes on: charged, a grace second less in GRACE, an inactivity second more
(R111, R117, R118). -/
def State.lineAfterTick (s : State) (l : Line) : Line :=
  { l with session := l.session.map fun ses => { ses with meter := { s.tickMeter ses with
      grace := if l.state = .grace then ses.meter.grace.map (· - 1) else ses.meter.grace
      inactCount := if ses.meter.inactLimit = 0 then ses.meter.inactCount else ses.meter.inactCount + 1 } } }

/-- A session that neither its grace timer nor its inactivity count ends at the next tick (R117, R118). -/
def Line.GoesOn (l : Line) (ses : Session) : Prop :=
  (l.state = .grace → ∀ g, ses.meter.grace = some g → 1 < g)
  ∧ (ses.meter.inactLimit = 0 ∨ ses.meter.inactCount + 1 < ses.meter.inactLimit)

/-- The record, the END report and the line of a session that has ended on line `i` with the closed charge `charge` (R121,
R131, R133). -/
structure State.SessionEnded (s t : State) (i : LineId) (l : Line) (ses : Session) (reason : EndReason)
    (charge : Charge) : Prop where
  session : (t.line i).session = none
  moved : (t.line i).state = .draining ∨ (t.line i).state = .hangup
  record : t.store.records = s.store.records ++ [⟨s.store.nextSerial, charge, reason, false⟩]
  entry : ∀ j, t.store.checkpoints.get j = if j = i then none else s.store.checkpoints.get j
  reports : (t.line i).reports = { l.reports with
    attention := none, outReady := none
    ended := some ⟨BitVec.ofNat 16 (i.val * 256 + l.generation.toNat), reason, s.store.nextSerial, charge.units,
      charge.seconds, min 65535 (l.inputHeldBytes ses)⟩ }
  lost : (t.line i).tallies = { l.tallies with
    inputLost := min 65535 (l.tallies.inputLost + l.inputHeldBytes ses) }

/-! ### Messages and reports -/

/-- Nothing waits ahead of the line reports: no READY, no reply, no service flag that may be sent (R162, R163, R170). -/
structure State.NothingAhead (s : State) : Prop where
  ready : s.link.ready = none
  replies : s.link.replies = []
  powerWarning : s.link.powerWarning = none
  linkLost : s.link.linkLost = none
  linkRestored : s.link.linkRestored = none
  charges : s.link.mask.chargeLevel = true ∨ s.link.chargesPending = none

/-- The END of line `i` is held back by the SIGNON of a session whose acceptance caused it (R72; log 41). -/
def State.EndHeldBack (s : State) (i : LineId) : Prop := ∃ k f, (s.line k).reports.signon = some f ∧ i ∈ f.ahead

/-- A line with no report that may be sent (R162, R163): an END only where it is held back (`held`; R72, log 41). -/
structure LineReports.Silent (m : Mask) (held : Prop) (r : LineReports) : Prop where
  ended : r.ended = none ∨ held
  event : m.lineEvent = true ∨ r.event = none
  signon : r.signon = none
  attention : r.attention = none
  outReady : m.outputReady = true ∨ r.outReady = none

/-- Line `i` has no report that may be sent. -/
def State.Silent (s : State) (i : LineId) : Prop := (s.line i).reports.Silent s.link.mask (s.EndHeldBack i)

/-- The END report `e` of line `i` is the arbiter's next choice: nothing is ahead of the line reports, no line from the
pointer on has a report to give, and no SIGNON precedes it (R72, R162, R163). -/
def State.EndNext (s : State) (i : LineId) (e : EndFlag) : Prop :=
  s.NothingAhead ∧ (s.line i).reports.ended = some e ∧ (s.line i).reports.signon = none
  ∧ ¬ s.EndHeldBack i ∧ ∃ d < 48, i.val = (s.link.linePtr.val + 1 + d) % 48
    ∧ ∀ k < d, ∀ j : LineId, j.val = (s.link.linePtr.val + 1 + k) % 48 → s.Silent j

/-- The END report `e` of line `i` sent: its flag cleared, the line the pointer, its frame begun (R133, R158, R162). -/
def State.endSent (s : State) (i : LineId) (e : EndFlag) : State :=
  State.send { s.setLine i { s.line i with reports := { (s.line i).reports with ended := none } } with
      link := { s.link with linePtr := i } }
    ([0x4B, 0] ++ be16 e.tag.toNat ++ [e.reason.code] ++ be32 e.serial.toNat ++ be32 e.units ++ be32 e.seconds
      ++ be16 e.discarded)

/-- The command `c` makes the check of a sign-on on line `i` in the state `b`, leaving `fifo` in the FIFO: a CR in the
PASSWORD phase, or the sending of the END that a waiting sign-on awaits (R68, R71). -/
def State.Checks (s : State) (i : LineId) (c : Instr) (b : State) (fifo : List Byte) : Prop :=
  s.mode = .running ∧ (s.line i).state = .dialog
  ∧ (c = .passwordCharacter i ∧ (s.line i).dialog.phase = .password ∧ (s.line i).unit.fifo = 0x0D :: fifo ∧ b = s
    ∨ c = .arbiterChoice ∧ (s.line i).dialog.phase = .waiting ∧ (s.line i).unit.fifo = fifo
      ∧ ∃ e, s.EndNext i e ∧ b = s.endSent i e)

/-- A LINE EVENT set pending: kind and detail replace the old, the count rises up to 255 (R16, R163). -/
def Line.withEvent (l : Line) (kind : LineEventKind) (detail : Byte) : Line :=
  { l with reports := { l.reports with
      event := some ⟨kind, match l.reports.event with | some f => min 255 (f.count + 1) | none => 1, detail⟩ } }

/-- A SERVICE EVENT set pending with value `v`: the count rises up to 255 (R163). -/
def serviceFlagAfter (old : Option ServiceFlag) (v : Nat) : Option ServiceFlag :=
  some ⟨match old with | some f => min 255 (f.count + 1) | none => 1, v⟩

/-- A line admitted to DIALOG for the first time in its call, its speed `k` known and text 0, `text`, placed
(R5, R32, R62, R63). -/
def Line.admitted (l : Line) (k : SpeedCode) (text : List Byte) : Line :=
  { l with
    state := .dialog
    carrierWait := none
    detector := { l.detector with timer := none, intervals := [] }
    unit := { l.unit with receiving := true, speed := some k, format := l.config.format, fifo := [], spaceTimer := none }
    dialog := ⟨.name, [], [], 0, l.config.attemptLimit, .running (l.config.dialogLimit * 100), some .user, none, none, []⟩
    out := { l.out with noticeWait := text, waitPrompt := none } }

/-- A line admitted to DIALOG again after a BREAK: its speed `k` known, text 0, `text`, placed, name and attempt count
kept, the dialog timer running on from `n` (R32, R62). -/
def Line.readmitted (l : Line) (k : SpeedCode) (text : List Byte) (n : Nat) : Line :=
  { l.admitted k text with
    dialog := { l.dialog with phase := .name, timer := .running n, promptDue := some .user, nameEcho := l.dialog.name } }

/-- An echo under R52 with the echo of the line configuration: whole at the tail of the output queue, or dropped whole
and tallied. -/
def Line.echoed (chars : List Byte) (l : Line) : Line :=
  if l.config.echo = false then l
  else if l.out.queue.length + chars.length ≤ 512 then { l with out := { l.out with queue := l.out.queue ++ chars } }
  else { l with tallies := { l.tallies with echoLost := min 65535 (l.tallies.echoLost + chars.length) } }

/-- The prompt `p`, of the characters `text`, placed in an empty notice slot, and after the user prompt the kept name
echoed, for which the queue has room (R62, R63). -/
def Line.prompted (p : Prompt) (text : List Byte) (l : Line) : Line :=
  { l with
    dialog := { l.dialog with
      promptDue := if text = [] then none else some p
      nameEcho := if p = .user then [] else l.dialog.nameEcho }
    out := { l.out with
      noticeWait := text
      waitPrompt := if text = [] then l.out.waitPrompt else some p
      queue := l.out.queue ++ (if p = .user ∧ l.config.echo = true then l.dialog.nameEcho else []) } }

/-- Whether a line whose speed becomes known is admitted (R6, R139, R166). -/
def State.Admits (s : State) : Prop := s.service = .opened ∨ s.service = .linkLost ∧ s.link.applied = .none

/-- A line refused with `text`, which it still has to send (R62, R74). -/
structure Line.Refused (text : List Byte) (old new : Line) : Prop where
  state : new.state = .rejecting
  dtr : new.dtr = old.dtr
  notice : new.out.noticeWait = text
  rejecting : new.dialog.rejecting = some 1000
  timer : new.dialog.timer = .stopped
  name : new.dialog.name = []
  password : new.dialog.password = []
  prompt : new.dialog.promptDue = none
  detector : new.detector.timer = none
  session : new.session = old.session
  config : new.config = old.config
  generation : new.generation = old.generation

/-- A line in DIALOG or DETECTING refused by a service change with text 6, `text` (R15, R73): no event, no tally; it goes
to REJECTING, or on to HANGUP where nothing is left to send (R61). -/
structure Line.TurnedAway (text : List Byte) (old new : Line) : Prop where
  reports : new.reports = old.reports
  tallies : new.tallies = old.tallies
  moved : new.state = .hangup ∨ new.state = .rejecting ∧ new.dialog.rejecting = some 1000 ∧ new.dialog.timer = .stopped
    ∧ new.dialog.name = [] ∧ new.dialog.password = [] ∧ new.dialog.promptDue = none
    ∧ (old.unit.speed ≠ none → new.out.noticeWait = text)
  waits : old.unit.speed ≠ none → text ≠ [] → new.state = .rejecting
  leaves : old.unit.speed = none → old.out.noticeCur = [] → old.out.noticeWait = [] → old.out.control = none →
    old.out.tx = none → new.state = .hangup

/-- A number read most significant byte first (R171). -/
def ofBytes (bytes : List Byte) : Nat := bytes.foldl (fun v b => v * 256 + b.toNat) 0

end Sys2Proof.Machine
end

