-- ==== Sys2Proof/Certificates/Slice0/Obligations.lean ====
section
/-! DEFINITION. What is claimed of the TS-48, statement by statement. -/

open Sys2Proof Sys2Proof.Machine

/-! ### The step -/

/-- A step takes the command at the front of the queue: it runs that command on the state with the queue's rest. -/
def Obligations.StepRunsFrontCommand : Prop :=
  ∀ (c : Instr) (s : State) (rest : List Instr),
    step { s with pending := c :: rest } = exec c { s with pending := rest }

/-- With no command waiting, 10 ms pass on a running part (MODEL'S CHOICE, logs 1, 5 and 8): every timer of every line
and of the link runs down, the scan writes each line's DTR for its state (R1, R2), nothing else of a line but the RI
level last seen changes, and no other block's state. -/
def Obligations.IdleStepRunsTimersDown : Prop :=
  ∀ (s : State), s.mode = .running → s.pending = [] →
    ∃ t, step s = .next t
      ∧ { t with link := s.link, lines := s.lines, scans := s.scans } = s
      ∧ t.link = { s.link with monitor := s.link.monitor.map (· - 1) }
      ∧ ∀ i, ∃ ri, t.line i = { s.line i with
          ri := ri
          dtr := (s.line i).state.answered
          carrierWait := (s.line i).carrierWait.map (· - 1)
          carrierLoss := (s.line i).carrierLoss.map (· - 1)
          guard := (s.line i).guard.map (· - 1)
          drain := (s.line i).drain.map (· - 1)
          lockout := (s.line i).lockout.map (· - 1)
          detector := { (s.line i).detector with timer := (s.line i).detector.timer.map (· - 1) }
          unit := { (s.line i).unit with spaceTimer := (s.line i).unit.spaceTimer.map (· - 1) }
          dialog := { (s.line i).dialog with
            timer := match (s.line i).dialog.timer with
              | .running n => .running (n - 1)
              | .stopped => .stopped
              | .held n => .held n
            rejecting := (s.line i).dialog.rejecting.map (· - 1) }
          session := (s.line i).session.map fun ses => { ses with fwdTimer := ses.fwdTimer.map (· - 1) } }

/-- No command stops the part: each answers a next state from every state. -/
def Obligations.EveryCommandAnswersNext : Prop := ∀ (c : Instr) (s : State), ∃ t, exec c s = .next t

/-! ### Invariants that every step keeps -/

/-- DTR is written by scans, for the line states a scan finds (R1, R2, R21). Which commands hold a scan is the MODEL'S
CHOICE (log 8). After an interval with nothing commanded DTR is high on exactly the lines in an answered state. RING,
CARRIER DETECT, CARRIER DROP and METERING TICK write DTR of all 48 lines for the states before them; any other command
that holds a scan writes it so or leaves it; one that starts the part up or takes its power leaves it or makes it low;
the rest leave it. Every step keeps, with R109, that DTR is high in each answered state past ANSWERING and low in
DISABLED, IDLE and LOCKOUT: it has fallen when a line leaves HANGUP. -/
def Obligations.DtrIsWrittenByTheScan : Prop :=
  (∀ (s t : State), s.mode = .running → s.pending = [] → step s = .next t → t.AllLines Line.DtrRight)
  ∧ (∀ (s : State) (c : Instr), s.mode = .running →
    (c = .meteringTick ∨ ∃ i, c = .ringSeen i ∨ c = .carrierDetect i ∨ c = .carrierDrop i) →
    ∃ t, exec c s = .next t ∧ ∀ j, (t.line j).dtr = (s.line j).state.answered)
  ∧ (∀ (c : Instr) (s t : State), exec c s = .next t → ∀ i,
    (holdsScan c = false → startsUp c = false → (t.line i).dtr = (s.line i).dtr)
    ∧ (holdsScan c = true → (t.line i).dtr = (s.line i).dtr ∨ (t.line i).dtr = (s.line i).state.answered)
    ∧ (startsUp c = true → (t.line i).dtr = (s.line i).dtr ∨ (t.line i).dtr = false))
  ∧ ∀ (s t : State), s.AllLines Line.SessionRight → s.AllLines Line.DtrSettled → step s = .next t →
    t.AllLines Line.DtrSettled

/-- A meter record exists exactly in ACTIVE and GRACE (R109), and with it the charge store's laws hold: header, list
and serials (R143, R144), the room law and the validity of checkpoint entries (R148), the read mark (R150). -/
def Obligations.StepKeepsSessionsAndStore : Prop :=
  ∀ (s t : State), s.AllLines Line.SessionRight → s.StoreRight → step s = .next t →
    t.AllLines Line.SessionRight ∧ t.StoreRight

/-- No FIFO, queue, buffer, notice, interval list or link queue grows past its size, nor the count of the current
interval past 16 bits (R25, R36, R43, R53, R58, R160, R161). -/
def Obligations.StepKeepsBufferSizes : Prop :=
  ∀ (s t : State), s.AllLines Line.Bounded → s.LinkBounded → step s = .next t →
    t.AllLines Line.Bounded ∧ t.LinkBounded

/-- Every account's active count is the number of its sessions, at most 4, and every session's account is in the table
(R86). -/
def Obligations.StepKeepsActiveCounts : Prop :=
  ∀ (s t : State), s.AllLines Line.SessionRight → s.CountsRight → step s = .next t → t.CountsRight

/-- Every account's budget state is the one its budget, allowance and warning level give (R81). -/
def Obligations.StepKeepsBudgetStates : Prop :=
  ∀ (s t : State), s.BudgetsRight → step s = .next t → t.BudgetsRight

/-- The part right after reset meets every invariant. -/
def Obligations.ResetMeetsInvariants : Prop :=
  State.reset.AllLines Line.DtrRight ∧ State.reset.AllLines Line.DtrSettled ∧ State.reset.AllLines Line.SessionRight
  ∧ State.reset.StoreRight ∧ State.reset.AllLines Line.Bounded ∧ State.reset.LinkBounded ∧ State.reset.CountsRight
  ∧ State.reset.BudgetsRight

/-! ### Requests of service, clock, tariff, texts and monitor -/

/-- KEEPALIVE is answered DONE with no fields. STATUS is answered DONE with the items of R167 in the order of section
11.2, and the four link tallies, captured in the reply, are cleared. -/
def Obligations.KeepaliveAndStatusAnswerDone : Prop :=
  ∀ (s : State) (label : Byte) (fields : List Byte),
    (s.Asked 0x01 label fields → exec .keepalive s = .next (s.answered 0x01 label .done []))
    ∧ (s.Asked 0x02 label fields →
      exec .status s = .next (State.answered
        { s with link := { s.link with badLength := 0, timeout := 0, badCheck := 0, overflow := 0 } } 0x02 label .done
        ([(match s.service with | .closed => 0 | .opened => 1 | .linkLost => 2 | .powerdown => 0xFF : Byte)]
          ++ be16 s.clock.day.toNat ++ be24 s.clock.second ++ [boolCode s.clock.isSet] ++ beInt16 s.clock.offset
          ++ [boolCode s.tariff.isSome] ++ be16 s.accounts.length
          ++ [byteOf (allLines.filter fun i => (s.line i).state = .active ∨ (s.line i).state = .grace).length]
          ++ be16 s.store.count
          ++ [byteOf (allLines.filter fun i => (s.store.checkpoints.get i).isSome).length]
          ++ be16 s.readMark ++ [byteOf s.link.period, s.link.action.code]
          ++ [boolCode s.link.mask.outputReady, boolCode s.link.mask.budget, boolCode s.link.mask.lineEvent,
              boolCode s.link.mask.chargeLevel]
          ++ be16 s.link.chargeLevel ++ be16 s.link.badLength ++ be16 s.link.timeout ++ be16 s.link.badCheck
          ++ be16 s.link.overflow)))

/-- OPEN SERVICE by service state (R108, R164): in CLOSED it opens the service, with the clock SET and a tariff loaded,
and starts the monitor at its period; without one of them it is NOT_READY with both shown; in OPEN it is DONE with no
change; in LINK_LOST it is STATE. -/
def Obligations.OpenServiceByServiceState : Prop :=
  ∀ (s : State) (label : Byte) (fields : List Byte), s.Asked 0x03 label fields →
    (s.service = .closed → s.clock.isSet = true → s.tariff.isSome = true →
      exec .openService s = .next (State.answered
        { s with
          service := .opened
          link := { s.link with monitor := if s.link.period = 0 then none else some (s.link.period * 100) } }
        0x03 label .done []))
    ∧ (s.service = .closed → (s.clock.isSet = false ∨ s.tariff = none) →
      exec .openService s
        = .next (s.answered 0x03 label .notReady [boolCode s.clock.isSet, boolCode s.tariff.isSome]))
    ∧ (s.service = .opened → exec .openService s = .next (s.answered 0x03 label .done []))
    ∧ (s.service = .linkLost → exec .openService s = .next (s.answered 0x03 label .state [0, 0]))

/-- CLOSE SERVICE (R137, R138, R164). In OPEN and LINK_LOST either option closes the service, stops the monitor and
turns away every line in DIALOG and DETECTING with text 6, its markers without account and session (MODEL'S CHOICE, log
38); in CLOSED no line is turned away. STOP leaves every other line, the accounts and the charge store alone. END_ALL
ends every session SERVICE_CLOSED as one whole: no line is left in ACTIVE or GRACE, each ended line has its END pending
with that reason and is in DRAINING or already in HANGUP, one record of that reason is appended for each session, every
checkpoint entry is empty. The reply counts the sessions ended and the lines turned away. Any other option is
BAD_FIELD. -/
def Obligations.CloseServiceByOption : Prop :=
  ∀ (s : State) (label opt : Byte) (rest : List Byte) (closed : State) (away : List LineId),
    s.Asked 0x04 label (opt :: rest) →
    closed = (if s.service = .closed then s
      else { s with service := .closed, link := { s.link with monitor := none } }) →
    away = (if s.service = .closed then []
      else allLines.filter fun i => (s.line i).state = .dialog ∨ (s.line i).state = .detecting) →
    (opt = 0 → ∃ t, exec .closeService s = .next t
      ∧ { t with lines := s.lines } = closed.answered 0x04 label .done [0, byteOf away.length]
      ∧ ∀ i, if i ∈ away then (s.line i).TurnedAway (s.textFor 6 none none) (t.line i) else t.line i = s.line i)
    ∧ (opt = 1 → s.AllLines Line.SessionRight → s.StoreRight →
      ∃ t ended, exec .closeService s = .next t ∧ t.service = .closed ∧ t.link.monitor = closed.link.monitor
        ∧ t.store.records = s.store.records ++ ended ∧ ended.length = s.meteredLines.length
        ∧ (∀ r ∈ ended, r.reason = .serviceClosed ∧ r.recovered = false)
        ∧ (∀ i, t.store.checkpoints.get i = none)
        ∧ t.link.replies
          = s.link.replies ++ [⟨0x84, label, .done, [byteOf s.meteredLines.length, byteOf away.length]⟩]
        ∧ ∀ i, (t.line i).state.metered = false
          ∧ ((s.line i).state.metered = true →
            ((t.line i).state = .draining ∨ (t.line i).state = .hangup) ∧ (t.line i).session = none
            ∧ ∃ e, (t.line i).reports.ended = some e ∧ e.reason = .serviceClosed
              ∧ e.tag = BitVec.ofNat 16 (i.val * 256 + (s.line i).generation.toNat))
          ∧ ((s.line i).state.metered = false →
            if i ∈ away then (s.line i).TurnedAway (s.textFor 6 none none) (t.line i) else t.line i = s.line i))
    ∧ (opt ≠ 0 → opt ≠ 1 → exec .closeService s = .next (s.answered 0x04 label .badField [1, 0]))

/-- SET CLOCK (R98): a second above 86,399 is BAD_FIELD with nothing changed; otherwise the clock takes day and second,
is SET, drops its slew, CLOCK_SET is set on every metered session, and the reply carries the clock and their number.
ADJUST CLOCK (R99): NOT_READY while the clock is UNSET; otherwise the offset, clamped to −300 to +300, replaces the
adjust offset and the slew count becomes 0. -/
def Obligations.ClockIsSetAndAdjusted : Prop :=
  (∀ (s : State) (label : Byte) (day : BitVec 16) (second : Nat) (rest : List Byte), second < 16777216 →
    s.Asked 0x05 label (be16 day.toNat ++ be24 second ++ rest) →
    (86399 < second → exec .setClock s = .next (s.answered 0x05 label .badField [2, 0]))
    ∧ (second ≤ 86399 → ∃ t, exec .setClock s = .next t
        ∧ { t with lines := s.lines } = State.answered
            { s with clock := { day := day, second := second, isSet := true, offset := 0, slew := 0 } } 0x05 label .done
            (be16 day.toNat ++ be24 second
              ++ [byteOf (allLines.filter fun i => (s.line i).state = .active ∨ (s.line i).state = .grace).length])
        ∧ ∀ i, t.line i = if (s.line i).state = .active ∨ (s.line i).state = .grace then
            { s.line i with session := (s.line i).session.map fun ses =>
                { ses with meter := { ses.meter with clockSet := true } } }
          else s.line i))
  ∧ ∀ (s : State) (label : Byte) (offset : BitVec 16) (rest : List Byte),
    s.Asked 0x06 label (be16 offset.toNat ++ rest) →
    (s.clock.isSet = false → exec .adjustClock s = .next (s.answered 0x06 label .notReady [0, 0]))
    ∧ (s.clock.isSet = true → exec .adjustClock s = .next (State.answered
        { s with clock := { s.clock with offset := max (-300) (min 300 offset.toInt), slew := 0 } } 0x06 label .done
        (be16 (BitVec.ofInt 16 (max (-300) (min 300 offset.toInt))).toNat)))

/-- LOAD TEXT (R76), by its checks in their order: index, mode, length of the result. -/
def Obligations.LoadTextReplacesOrExtends : Prop :=
  ∀ (s : State) (label index mode : Byte) (bytes rest : List Byte), bytes.length < 256 →
    s.Asked 0x08 label (index :: mode :: BitVec.ofNat 8 bytes.length :: (bytes ++ rest)) →
    (15 < index.toNat → exec .loadText s = .next (s.answered 0x08 label .badField [1, 0]))
    ∧ ∀ (h : index.toNat < 16),
      (mode ≠ 0 → mode ≠ 1 → exec .loadText s = .next (s.answered 0x08 label .badField [2, 0]))
      ∧ ∀ (text : List Byte),
        (mode = 0 ∧ text = bytes ∨ mode = 1 ∧ text = s.texts.get ⟨index.toNat, h⟩ ++ bytes) →
        (80 < text.length → exec .loadText s = .next (s.answered 0x08 label .badField [3, 0]))
        ∧ (text.length ≤ 80 → exec .loadText s = .next (State.answered
            { s with texts := s.texts.set index.toNat text h } 0x08 label .done [index, byteOf text.length]))

/-- SET MONITOR (R154, R166): an action or a mask byte out of range is BAD_FIELD, the first such field named;
otherwise period, action, mask and charge level, clamped to 2048, are replaced, the monitor restarts in OPEN, and the
charge-level armed flag is set when the new level is nonzero and above the record count, and cleared otherwise. -/
def Obligations.SetMonitorReplacesTheSettings : Prop :=
  ∀ (s : State) (label period action m1 m2 m3 m4 : Byte) (level : Nat) (rest : List Byte), level < 65536 →
    s.Asked 0x09 label ([period, action, m1, m2, m3, m4] ++ be16 level ++ rest) →
    ∀ checks : List (Bool × Byte),
      checks = [(decide (2 < action.toNat), 2), (decide (1 < m1.toNat), 3), (decide (1 < m2.toNat), 4),
        (decide (1 < m3.toNat), 5), (decide (1 < m4.toNat), 6)] →
    (∀ c, checks.find? (·.1) = some c → exec .setMonitor s = .next (s.answered 0x09 label .badField [c.2, 0]))
    ∧ (checks.find? (·.1) = none →
        exec .setMonitor s = .next (State.answered
          { s with
            chargeArmed := decide (min level 2048 ≠ 0 ∧ s.store.count < min level 2048)
            link := { s.link with
              period := period.toNat
              action := if action = 0 then .none else if action = 1 then .refuse else .hangup
              mask := ⟨decide (m1 = 1), decide (m2 = 1), decide (m3 = 1), decide (m4 = 1)⟩
              chargeLevel := min level 2048
              monitor := if s.service = .opened then (if period = 0 then none else some (period.toNat * 100))
                else s.link.monitor } }
          0x09 label .done ([period, action, m1, m2, m3, m4] ++ be16 (min level 2048))))

/-- The taking of requests (R161, R171, R172). A request whose body ends before its layout does is BAD_FIELD with field
number 0, and nothing else changes: fewer bytes than the fields of fixed size take, fewer than the count of a data string
calls for, or the fields of a tariff set cut short anywhere. A queued frame of label 0
is taken with no reply; a frame whose kind is no request code is answered UNKNOWN with reply kind FFh; both need a free
place in the reply queue (MODEL'S CHOICE, log 26). With four replies waiting no request is taken and nothing changes;
nor is one with no frame waiting (MODEL'S CHOICE, log 4). -/
def Obligations.RequestsShortUnknownOrWaiting : Prop :=
  ∀ (s : State),
    (∀ (label : Byte) (fields : List Byte),
      (∀ p ∈ ([(.closeService, 0x04, 1), (.setClock, 0x05, 5), (.adjustClock, 0x06, 2), (.loadTariff, 0x07, 33),
          (.loadText, 0x08, 3), (.setMonitor, 0x09, 8), (.configureLine, 0x10, 23), (.enableLine, 0x11, 1),
          (.disableLine, 0x12, 1), (.lineStatus, 0x13, 1), (.broadcast, 0x14, 1), (.loadAccount, 0x18, 24),
          (.deleteAccount, 0x19, 8), (.creditAccount, 0x1A, 12), (.readAccount, 0x1B, 8), (.setAccountState, 0x1C, 9),
          (.output, 0x20, 4), (.setSession, 0x21, 13), (.endSession, 0x22, 3), (.readCharges, 0x28, 1),
          (.releaseCharges, 0x29, 2)] : List (Instr × Byte × Nat)),
        fields.length < p.2.2 → s.Asked p.2.1 label fields →
        exec p.1 s = .next (s.answered p.2.1 label .badField [0, 0]))
      ∧ (∀ (index mode count : Byte), fields.length < count.toNat → s.Asked 0x08 label (index :: mode :: count :: fields) →
        exec .loadText s = .next (s.answered 0x08 label .badField [0, 0]))
      ∧ (∀ (tag count : Nat), count < 65536 → fields.length < count → s.Asked 0x20 label (be16 tag ++ be16 count ++ fields) →
        exec .output s = .next (s.answered 0x20 label .badField [0, 0]))
      ∧ ∀ (tariff : Tariff) (rounding : Byte) (k : Nat), tariff.Fits → k < (tariff.fields rounding).length →
        s.Asked 0x07 label ((tariff.fields rounding).take k) →
        exec .loadTariff s = .next (s.answered 0x07 label .badField [0, 0]))
    ∧ (∀ (kind label : Byte) (fields : List Byte), s.mode = .running → s.service ≠ .powerdown →
      s.link.replies.length < 4 → s.link.intake.head? = some (kind :: label :: fields) →
      (label = 0 → exec .labelZeroFrame s = .next { s with link := { s.link with intake := s.link.intake.tail } })
      ∧ (label ≠ 0 →
        kind ∉ ([0x01, 0x02, 0x03, 0x04, 0x05, 0x06, 0x07, 0x08, 0x09, 0x0A, 0x10, 0x11, 0x12, 0x13, 0x14, 0x18, 0x19,
          0x1A, 0x1B, 0x1C, 0x20, 0x21, 0x22, 0x28, 0x29] : List Byte) →
        exec .unknownKind s = .next { s with link := { s.link with
          intake := s.link.intake.tail
          replies := s.link.replies ++ [⟨0xFF, label, .unknown, [0, 0]⟩] } }))
    ∧ (s.link.replies.length = 4 ∨ s.link.intake = [] → ∀ pins : Pins,
      ∀ c ∈ ([.keepalive, .status, .openService, .closeService, .setClock, .adjustClock, .loadTariff, .loadText,
        .setMonitor, .reset pins, .configureLine, .enableLine, .disableLine, .lineStatus, .broadcast, .loadAccount,
        .deleteAccount, .creditAccount, .readAccount, .setAccountState, .output, .setSession, .endSession, .readCharges,
        .releaseCharges, .labelZeroFrame, .unknownKind] : List Instr), exec c s = .next s)

/-- LOAD TARIFF (R104, R105, R106, R172). The first check of R104 that fails is BAD_FIELD with its item and position, and
nothing changes. A set that passes every check replaces the set in force as carried, and the reply carries the band count
and the two schedule counts. Every account keeps its budget and is re-evaluated with its class's new warning level: a
transition sets BUDGET, and one from NORMAL to WARNED places text 7 on every session of the account. Nothing else
changes but the free orders (MODEL'S CHOICE, log 13). -/
def Obligations.LoadTariffReplacesTheSet : Prop :=
  ∀ (s : State) (label : Byte) (tariff : Tariff) (rounding : Byte) (rest : List Byte), tariff.Fits →
    s.Asked 0x07 label (tariff.fields rounding ++ rest) →
    (∀ c, (tariff.checks rounding).find? (·.1) = some c →
      exec .loadTariff s = .next (s.answered 0x07 label .badField [byteOf c.2.1, byteOf c.2.2]))
    ∧ ((tariff.checks rounding).find? (·.1) = none → rounding = tariff.rounding.code → s.BudgetsRight →
      ∀ st : Account → BudgetState,
      st = (fun a => State.stateOfBudget { s with tariff := some tariff } a.budget a.overdraft a.cls) →
      ∃ t joined, exec .loadTariff s = .next t
        ∧ { t with
            accounts := s.accounts, lines := s.lines, orders := s.orders
            link := { t.link with budgetOrder := s.link.budgetOrder } }
          = State.answered { s with tariff := some tariff } 0x07 label .done
              [byteOf tariff.bands.length, byteOf tariff.weekday.length, byteOf tariff.holiday.length]
        ∧ t.accounts.length = s.accounts.length
        ∧ (∀ n, t.account? n = (s.account? n).map fun a => if st a = a.bstate then a
            else { a with bstate := st a, notice := some (a.flagAfter a.budget (st a)) })
        ∧ t.link.budgetOrder = s.link.budgetOrder ++ joined
        ∧ (∀ n, n ∈ joined ↔ ∃ a, s.account? n = some a ∧ a.notice = none ∧ st a ≠ a.bstate)
        ∧ (∀ n i, i ∈ s.sessionsOf n → t.line i = match s.account? n with
          | some a => s.lineAfter a.bstate (st a) a.budget (s.line i)
          | none => s.line i)
        ∧ ∀ i, (∀ n, i ∉ s.sessionsOf n) → t.line i = s.line i)

/-- A RESET request (R141, R155, R168, R170), in a state whose sessions and store agree: it has no reply; every session
is closed with one record of reason RESET, nothing is recovered, and the controller is then as after a start-up of kind
RESET_REQUEST with the lines' RI and CD as the pins show them. -/
def Obligations.ResetRequestClosesAndStartsUp : Prop :=
  ∀ (s : State) (label : Byte) (fields : List Byte) (pins : Pins), s.Asked 0x0A label fields →
    s.AllLines Line.SessionRight → s.StoreRight →
    ∃ t ended, exec (.reset pins) s = .next t
      ∧ t.store.records = s.store.records ++ ended ∧ ended.length = s.meteredLines.length
      ∧ (∀ r ∈ ended, r.reason = .reset ∧ r.recovered = false) ∧ (∀ i, t.store.checkpoints.get i = none)
      ∧ ∃ orders, t = { State.reset with
          strap := pins.strap
          link := Link.atStart (some ⟨.resetRequest, .intact, s.store.count + s.meteredLines.length, 0⟩)
          lines := Vector.ofFn fun i => Line.atStart (pins.ri.getLsbD i.val) (pins.cd.getLsbD i.val)
          store := t.store
          orders := orders
          scans := s.scans
          pending := s.pending }

/-! ### Requests on lines -/

/-- CONFIGURE LINE (R17): the line number, the line's state and the enumerated fields are checked in that order; then
the whole configuration is replaced by the fields carried, each limit field clamped to the nearer end of its range, and
the reply carries it as taken. -/
def Obligations.ConfigureLineReplacesTheConfiguration : Prop :=
  ∀ (s : State) (label line mode speed format cw da dt dlHi dlLo al lo ia ec n f0 f1 f2 f3 ft ap ac op ip : Byte)
    (rest : List Byte),
    s.Asked 0x10 label ([line, mode, speed, format, cw, da, dt, dlHi, dlLo, al, lo, ia, ec, n, f0, f1, f2, f3, ft, ap,
      ac, op, ip] ++ rest) →
    (47 < line.toNat → exec .configureLine s = .next (s.answered 0x10 label .badField [1, 0]))
    ∧ ∀ i : LineId, i.val = line.toNat →
      ((s.line i).state ≠ .idle → (s.line i).state ≠ .disabled → (s.line i).state ≠ .lockout →
        exec .configureLine s = .next (s.answered 0x10 label .state [0, 0]))
      ∧ ((s.line i).state = .idle ∨ (s.line i).state = .disabled ∨ (s.line i).state = .lockout →
        ∀ checks : List (Bool × Byte),
          checks = [(decide (1 < mode.toNat), 2), (decide (7 < speed.toNat), 3), (decide (2 < format.toNat), 4),
            (decide (1 < ec.toNat), 12), (decide (4 < n.toNat), 13), (decide (1 < ap.toNat), 15),
            (decide (1 < op.toNat), 16), (decide (1 < ip.toNat), 17)] →
        (∀ c, checks.find? (·.1) = some c →
          exec .configureLine s = .next (s.answered 0x10 label .badField [c.2, 0]))
        ∧ (checks.find? (·.1) = none → ∀ sp : SpeedCode, sp.val = speed.toNat →
            ∀ config : LineConfig, config = {
                mode := if mode = 0 then .auto else .fixed
                fixedSpeed := sp
                format := if format = 0 then .f7E1 else if format = 1 then .f7O1 else .f8N1
                carrierWait := max 5 (min 60 cw.toNat)
                detAttempts := max 1 (min 9 da.toNat)
                detTime := max 10 (min 60 dt.toNat)
                dialogLimit := max 30 (min 300 (dlHi.toNat * 256 + dlLo.toNat))
                attemptLimit := max 1 (min 9 al.toNat)
                lockout := min 60 lo.toNat
                inactivity := min 240 ia.toNat
                echo := decide (ec = 1)
                fwdChars := [f0, f1, f2, f3].take n.toNat
                fwdTimer := ft.toNat
                attention := if ap = 0 then none else some ac
                outPacing := decide (op = 1)
                inPacing := decide (ip = 1) } →
              exec .configureLine s = .next (State.answered (s.setLine i { s.line i with config := config }) 0x10 label
                .done (line :: configBlock config))))

/-- ENABLE LINE (R13): a line in DISABLED enters HANGUP; any other is left alone. DISABLE LINE by line state (R14): in
ACTIVE and GRACE disable pending is set and the session ends LINE_DISABLED, its queue discarded and text 10 placed
(R131), here where its closing debit makes no transition. Both are answered DONE with the line; a line above 47 is
BAD_FIELD. -/
def Obligations.EnableAndDisableByLineState : Prop :=
  ∀ (s : State) (label line : Byte) (rest : List Byte),
    (s.Asked 0x11 label (line :: rest) →
      (47 < line.toNat → exec .enableLine s = .next (s.answered 0x11 label .badField [1, 0]))
      ∧ ∀ i : LineId, i.val = line.toNat →
        ((s.line i).state = .disabled →
          exec .enableLine s = .next (State.answered (s.setLine i (s.line i).onHook) 0x11 label .done [line]))
        ∧ ((s.line i).state ≠ .disabled → exec .enableLine s = .next (s.answered 0x11 label .done [line])))
    ∧ (s.Asked 0x12 label (line :: rest) →
      (47 < line.toNat → exec .disableLine s = .next (s.answered 0x12 label .badField [1, 0]))
      ∧ ∀ i : LineId, i.val = line.toNat → ∀ l, l = s.line i →
        (l.state = .disabled → exec .disableLine s = .next (s.answered 0x12 label .done [line]))
        ∧ (l.state = .idle → exec .disableLine s = .next (State.answered
            (s.setLine i { l with state := .disabled, carrierLoss := none }) 0x12 label .done [line]))
        ∧ (l.state = .lockout → exec .disableLine s = .next (State.answered
            (s.setLine i (Line.withEvent { l with state := .disabled, carrierLoss := none, lockout := none }
              .lockoutEnd 0)) 0x12 label .done [line]))
        ∧ (l.state = .hangup → exec .disableLine s = .next (State.answered
            (s.setLine i { l with disablePending := true }) 0x12 label .done [line]))
        ∧ ((l.state = .answering ∨ l.state = .detecting ∨ l.state = .dialog ∨ l.state = .rejecting
              ∨ l.state = .draining) →
            exec .disableLine s = .next (State.answered
              (s.setLine i (Line.onHook { l with disablePending := true })) 0x12 label .done [line]))
        ∧ (l.state.metered = true → ∀ (ses : Session) (a : Account) (tariff : Tariff) (ru : Nat) (budget : Int)
            (charge : Charge), l.session = some ses → s.tariff = some tariff → s.account? ses.meter.account = some a →
            ru = roundingUnitOf tariff.rounding ses.meter.residue → budget = clampBudget (a.budget - ru) →
            s.stateOfBudget budget a.overdraft a.cls = a.bstate → charge = s.closed i ses.meter ru →
            ∃ t, exec .disableLine s = .next t ∧ s.SessionEnded t i l ses .lineDisabled charge
              ∧ (t.line i).disablePending = true
              ∧ t.account? ses.meter.account = some { a with budget := budget, active := a.active - 1 }
              ∧ (∀ m, m ≠ ses.meter.account → t.account? m = s.account? m)
              ∧ t.link.replies = s.link.replies ++ [⟨0x92, label, .done, [line]⟩]
              ∧ (∀ j, j ≠ i → t.line j = s.line j)
              ∧ (l.unit.speed ≠ none → s.textFor 10 (some budget) (some charge.units) ≠ [] →
                (t.line i).state = .draining ∧ (t.line i).drain = some 3000 ∧ (t.line i).out.queue = []
                ∧ (t.line i).out.noticeWait = s.textFor 10 (some budget) (some charge.units))))

/-- LINE STATUS (R19, R20): the 74 bytes of section 11.2 show the line as it stood, and its six tallies, captured in
the reply, are cleared; nothing else changes. -/
def Obligations.LineStatusShowsTheLineAndClearsTallies : Prop :=
  ∀ (s : State) (label line : Byte) (rest : List Byte), s.Asked 0x13 label (line :: rest) →
    (47 < line.toNat → exec .lineStatus s = .next (s.answered 0x13 label .badField [1, 0]))
    ∧ ∀ i : LineId, i.val = line.toNat → ∀ l, l = s.line i →
      ∃ remaining speed format session, exec .lineStatus s = .next (State.answered
          (s.setLine i { l with tallies := ⟨0, 0, 0, 0, 0, 0⟩ }) 0x13 label .done
          ([line, l.state.code, boolCode l.disablePending, boolCode l.lockoutDue, boolCode l.ri, boolCode l.cd,
              boolCode l.dtr]
            ++ remaining ++ [speed, format, l.generation] ++ session
            ++ [byteOf l.unit.fifo.length]
            ++ be16 ((l.session.map fun ses : Session => ses.filling.length).getD 0)
            ++ be16 ((l.session.bind fun ses : Session => ses.held.map fun b => b.bytes.length).getD 0)
            ++ be16 l.out.queue.length ++ [byteOf (l.out.noticeCur.length + l.out.noticeWait.length)]
            ++ be16 l.tallies.parity ++ be16 l.tallies.framing ++ be16 l.tallies.overruns ++ be16 l.tallies.inputLost
            ++ be16 l.tallies.echoLost ++ be16 l.tallies.detFailures ++ [l.detector.last.code]
            ++ ((List.range 8).map fun k => boolCode (l.detector.presence.getLsbD k)) ++ configBlock l.config))
        ∧ (remaining = be16 (match (match l.state with
              | .answering => l.carrierWait | .hangup => l.guard | .lockout => l.lockout | _ => none) with
            | some n => (n + 99) / 100
            | none => 0))
        ∧ (l.state = .dialog ∨ l.state.metered = true ∨ l.state = .draining ∨ l.state = .rejecting →
            speed = (match l.unit.speed with | some k => byteOf k.val | none => 0xFF))
        ∧ (l.state ≠ .dialog → l.state.metered = false → l.state ≠ .draining → l.state ≠ .rejecting → speed = 0xFF)
        ∧ format = (if l.unit.speed = none then l.config.format.code else l.unit.format.code)
        ∧ (∀ ses, l.session = some ses → l.state.metered = true →
            session = 1 :: be16 (i.val * 256 + l.generation.toNat) ++ padName ses.meter.account)
        ∧ (l.state.metered = false → session = List.replicate 11 0)

/-- BROADCAST (R60, R77): text 14 or 15 becomes the waiting notice of every line in DIALOG, ACTIVE and GRACE that has a
speed, expanded in ACTIVE and GRACE with the session's own account and units; the reply counts those lines; other lines
are not reached. Any other index is BAD_FIELD. -/
def Obligations.BroadcastReachesDialogAndSessions : Prop :=
  ∀ (s : State) (label index : Byte) (rest : List Byte), s.Asked 0x14 label (index :: rest) →
    (index ≠ 14 → index ≠ 15 → exec .broadcast s = .next (s.answered 0x14 label .badField [1, 0]))
    ∧ ∀ k : Fin 16, k.val = index.toNat → (k = 14 ∨ k = 15) →
      ∃ t, exec .broadcast s = .next t
        ∧ { t with lines := s.lines } = s.answered 0x14 label .done
            [byteOf (allLines.filter fun i => (s.line i).state = .dialog ∨ (s.line i).state.metered).length]
        ∧ ∀ i,
          ((s.line i).state ≠ .dialog → (s.line i).state.metered = false → t.line i = s.line i)
          ∧ ((s.line i).state.metered = true → (s.line i).unit.speed ≠ none →
              ∀ ses, (s.line i).session = some ses →
              t.line i = { s.line i with out := { (s.line i).out with
                noticeWait := s.textFor k ((s.account? ses.meter.account).map Account.budget) (some ses.meter.units)
                waitPrompt := none } })
          ∧ ((s.line i).state = .dialog → (s.line i).unit.speed ≠ none → s.textFor k none none ≠ [] →
              t.line i = { s.line i with out := { (s.line i).out with
                noticeWait := s.textFor k none none, waitPrompt := none } })

/-! ### Requests on accounts -/

/-- LOAD ACCOUNT whose fields pass their checks (R79 to R85, R88, R89). A new name is refused with TABLE_FULL at 1024
entries; else it becomes an entry with the fields carried, its budget state evaluated without a transition. An existing
entry takes the host fields and keeps active count, failure count and BUDGET flag; it is re-evaluated, and a transition
sets BUDGET and acts on every session of the account. Entry into EXHAUSTED is here with a grace time. The reply
carries name, budget, budget state and active count; other accounts and other lines are left alone. -/
def Obligations.LoadAccountAddsOrReplaces : Prop :=
  ∀ (s : State) (label : Byte) (n : Name) (check : BitVec 32) (cls : Cls) (budget : BitVec 32)
    (overdraft limit failLimit : Nat) (state : AcctState) (rest : List Byte) (st : BudgetState),
    NameGood n → overdraft ≤ 1000000 → 1 ≤ limit → limit ≤ 4 → failLimit ≤ 15 →
    s.Asked 0x18 label (padName n ++ be32 check.toNat ++ [byteOf cls.val] ++ be32 budget.toNat ++ be32 overdraft
      ++ [byteOf limit, state.code, byteOf failLimit] ++ rest) →
    st = s.stateOfBudget budget.toInt overdraft cls →
    (s.account? n = none → 1024 ≤ s.accounts.length →
      exec .loadAccount s = .next (s.answered 0x18 label .tableFull [0, 0]))
    ∧ (s.account? n = none → s.accounts.length < 1024 → ∃ t, exec .loadAccount s = .next t
      ∧ t.account? n = some { name := n, check := check, cls := cls, budget := budget.toInt, overdraft := overdraft
                              limit := limit, state := state, failures := 0, failLimit := failLimit
                              bstate := st, active := 0, notice := none }
      ∧ (∀ m, m ≠ n → t.account? m = s.account? m) ∧ t.accounts.length = s.accounts.length + 1
      ∧ { t with accounts := s.accounts } = s.answered 0x18 label .done
          (padName n ++ be32 budget.toNat ++ [st.code, 0]))
    ∧ ∀ a, s.account? n = some a → (st = .exhausted → a.bstate = .exhausted ∨ s.GraceGiven) →
      ∃ t, exec .loadAccount s = .next t
        ∧ t.account? n = some { a with
            check := check, cls := cls, budget := budget.toInt, overdraft := overdraft, limit := limit, state := state
            failLimit := failLimit, bstate := st
            notice := if st = a.bstate then a.notice else some (a.flagAfter budget.toInt st) }
        ∧ (∀ m, m ≠ n → t.account? m = s.account? m) ∧ t.accounts.length = s.accounts.length
        ∧ { t with accounts := s.accounts, lines := s.lines } = State.answered
            { s with link := { s.link with
              budgetOrder := s.link.budgetOrder ++ (if st ≠ a.bstate ∧ a.notice = none then [n] else []) } }
            0x18 label .done (padName n ++ be32 budget.toNat ++ [st.code, byteOf a.active])
        ∧ ∀ i, t.line i
          = if i ∈ s.sessionsOf n then s.lineAfter a.bstate st budget.toInt (s.line i) else s.line i

/-- The requests that name an account check the name first (R79, R88, R171): any 8 bytes that are no well-formed name
padded with spaces are BAD_FIELD with field 1; a well-formed name that is not in the table is NO_SUCH. LOAD ACCOUNT then
checks class, overdraft, limit, state and failure limit, and names the first out of range. None of these changes
anything. -/
def Obligations.AccountFieldsAreChecked : Prop :=
  ∀ (s : State) (label : Byte),
    (∀ (field more : List Byte), field.length = 8 → (∀ n, NameGood n → field ≠ padName n) → 16 ≤ more.length →
      ∀ p ∈ ([(.loadAccount, 0x18), (.deleteAccount, 0x19), (.creditAccount, 0x1A), (.readAccount, 0x1B),
          (.setAccountState, 0x1C)] : List (Instr × Byte)),
        s.Asked p.2 label (field ++ more) → exec p.1 s = .next (s.answered p.2 label .badField [1, 0]))
    ∧ ∀ (n : Name) (rest : List Byte), NameGood n →
      (s.account? n = none → ∀ p ∈ ([(.deleteAccount, 0x19), (.readAccount, 0x1B)] : List (Instr × Byte)),
        s.Asked p.2 label (padName n ++ rest) → exec p.1 s = .next (s.answered p.2 label .noSuch [0, 0]))
      ∧ (s.account? n = none → ∀ amount : BitVec 32, amount.toInt.natAbs ≤ 1000000 →
        s.Asked 0x1A label (padName n ++ be32 amount.toNat ++ rest) →
        exec .creditAccount s = .next (s.answered 0x1A label .noSuch [0, 0]))
      ∧ (s.account? n = none → ∀ st : AcctState, s.Asked 0x1C label (padName n ++ [st.code] ++ rest) →
        exec .setAccountState s = .next (s.answered 0x1C label .noSuch [0, 0]))
      ∧ ∀ (check budget : BitVec 32) (overdraft : Nat) (cls limit st failLimit : Byte) (checks : List (Bool × Byte)),
        overdraft < 4294967296 →
        checks = [(decide (3 < cls.toNat), 3), (decide (1000000 < overdraft), 5),
          (decide (limit = 0 ∨ 4 < limit.toNat), 6), (decide (2 < st.toNat), 7), (decide (15 < failLimit.toNat), 8)] →
        s.Asked 0x18 label (padName n ++ be32 check.toNat ++ [cls] ++ be32 budget.toNat ++ be32 overdraft
          ++ [limit, st, failLimit] ++ rest) →
        ∀ c, checks.find? (·.1) = some c → exec .loadAccount s = .next (s.answered 0x18 label .badField [c.2, 0])

/-- DELETE ACCOUNT (R90): IN_USE while the account has sessions; else the entry goes, with its BUDGET flag and place
in the BUDGET order. READ ACCOUNT (R93) shows the entry and changes nothing. SET ACCOUNT STATE (R94) sets the state,
and to OPEN clears the failure count; a state out of range is BAD_FIELD. -/
def Obligations.DeleteReadAndSetStateOfAccount : Prop :=
  ∀ (s : State) (label : Byte) (n : Name) (a : Account) (rest : List Byte), NameGood n → s.account? n = some a →
    (s.Asked 0x19 label (padName n ++ rest) →
      (0 < a.active → exec .deleteAccount s = .next (s.answered 0x19 label .inUse [0, 0]))
      ∧ (a.active = 0 → ∃ t, exec .deleteAccount s = .next t ∧ t.account? n = none
          ∧ (∀ m, m ≠ n → t.account? m = s.account? m)
          ∧ { t with accounts := s.accounts } = State.answered
              { s with link := { s.link with budgetOrder := s.link.budgetOrder.filter (· ≠ n) } } 0x19 label .done []))
    ∧ (s.Asked 0x1B label (padName n ++ rest) → ∃ tags, exec .readAccount s = .next (s.answered 0x1B label .done
        (padName n ++ [byteOf a.cls.val] ++ beInt32 a.budget ++ be32 a.overdraft
          ++ [byteOf a.limit, a.state.code, byteOf a.failLimit, byteOf a.failures, a.bstate.code, byteOf a.active]
          ++ be32 ((s.tariff.map fun t : Tariff => t.warn.get a.cls).getD 0)
          ++ [boolCode a.notice.isSome, byteOf (s.sessionsOf n).length] ++ tags))
        ∧ tags.length = 8
        ∧ ((s.sessionsOf n).length ≤ 4 → tags = (s.sessionsOf n).flatMap (fun i =>
            be16 (i.val * 256 + (s.line i).generation.toNat)) ++ List.replicate (8 - 2 * (s.sessionsOf n).length) 0))
    ∧ (∀ b : Byte, s.Asked 0x1C label (padName n ++ [b] ++ rest) →
      (2 < b.toNat → exec .setAccountState s = .next (s.answered 0x1C label .badField [2, 0]))
      ∧ ∀ st : AcctState, st.code = b → ∃ t failures, exec .setAccountState s = .next t
          ∧ failures = (if st = .opened then 0 else a.failures)
          ∧ t.account? n = some { a with state := st, failures := failures }
          ∧ (∀ m, m ≠ n → t.account? m = s.account? m)
          ∧ { t with accounts := s.accounts } = s.answered 0x1C label .done [b, byteOf failures])

/-- CREDIT ACCOUNT (R80 to R85, R91): an amount beyond ±1,000,000 is BAD_FIELD. Else the amount is added with
saturation and the account re-evaluated. Without a transition only the budget changes. Out of EXHAUSTED, every session
of the account goes back to ACTIVE with its grace timer stopped and its GRACE flag kept, and reads text 13. Into
EXHAUSTED with a grace time, every session goes to GRACE with that time and the GRACE flag, and reads text 8. A
transition sets BUDGET; lines of no session of the account are left alone. -/
def Obligations.CreditAccountActsOnBudgetAndSessions : Prop :=
  ∀ (s : State) (label : Byte) (n : Name) (a : Account) (amount : BitVec 32) (rest : List Byte) (budget : Int)
    (st : BudgetState),
    NameGood n → s.account? n = some a → s.Asked 0x1A label (padName n ++ be32 amount.toNat ++ rest) →
    budget = clampBudget (a.budget + amount.toInt) → st = s.stateOfBudget budget a.overdraft a.cls →
    (1000000 < amount.toInt.natAbs → exec .creditAccount s = .next (s.answered 0x1A label .badField [2, 0]))
    ∧ (amount.toInt.natAbs ≤ 1000000 → (st = .exhausted → ∃ tariff, s.tariff = some tariff ∧ tariff.grace ≠ 0) →
      ∃ t, exec .creditAccount s = .next t
        ∧ t.account? n = some (if st = a.bstate then { a with budget := budget }
            else { a with budget := budget, bstate := st, notice := some (a.flagAfter budget st) })
        ∧ (∀ m, m ≠ n → t.account? m = s.account? m)
        ∧ t.store = s.store ∧ t.clock = s.clock ∧ t.tariff = s.tariff ∧ t.service = s.service
        ∧ t.link.replies = s.link.replies ++ [⟨0x9A, label, .done, beInt32 budget ++ [st.code]⟩]
        ∧ t.link.budgetOrder
          = s.link.budgetOrder ++ (if st ≠ a.bstate ∧ a.notice = none then [n] else [])
        ∧ ∀ i,
          ((i ∉ s.sessionsOf n ∨ st = a.bstate ∨ a.bstate = .warned ∧ st = .normal) → t.line i = s.line i)
          ∧ (i ∈ s.sessionsOf n → ∀ ses, (s.line i).session = some ses → (s.line i).unit.speed ≠ none →
            (a.bstate = .normal → st = .warned →
              t.line i = { s.line i with out := { (s.line i).out with
                noticeWait := s.textFor 7 (some budget) (some ses.meter.units), waitPrompt := none } })
            ∧ (a.bstate = .exhausted → st ≠ .exhausted →
              t.line i = { s.line i with
                state := .active
                session := some { ses with meter := { ses.meter with grace := none } }
                out := { (s.line i).out with
                  noticeWait := s.textFor 13 (some budget) (some ses.meter.units), waitPrompt := none } })
            ∧ (a.bstate ≠ .exhausted → st = .exhausted →
              t.line i = { s.line i with
                state := .grace
                session := some { ses with meter := { ses.meter with
                  grace := s.tariff.map Tariff.grace, graceFlag := true } }
                out := { (s.line i).out with
                  noticeWait := s.textFor 8 (some budget) (some ses.meter.units), waitPrompt := none } })))

/-! ### Requests on sessions and on the charge store -/

/-- OUTPUT (R54): a count above 256 is BAD_FIELD; a tag that names no current session is STALE; else the leading bytes
that fit join the tail of the 512-byte queue, the reply carries their number, DONE if it is all and PARTIAL otherwise,
and the queue is armed by a PARTIAL or by being left full; nothing else changes. -/
def Obligations.OutputAppendsWhatFits : Prop :=
  ∀ (s : State) (label : Byte) (tag : Nat) (data rest : List Byte), tag < 65536 → data.length < 65536 →
    s.Asked 0x20 label (be16 tag ++ be16 data.length ++ data ++ rest) →
    (256 < data.length → exec .output s = .next (s.answered 0x20 label .badField [2, 0]))
    ∧ (data.length ≤ 256 → s.Stale tag → exec .output s = .next (s.answered 0x20 label .stale [0, 0]))
    ∧ (data.length ≤ 256 → ∀ i : LineId, i.val = tag / 256 → (s.line i).session ≠ none →
        (s.line i).generation.toNat = tag % 256 → ∀ l taken, l = s.line i →
        taken = data.take (512 - l.out.queue.length) →
        exec .output s = .next (State.answered
          (s.setLine i { l with out := { l.out with
            queue := l.out.queue ++ taken
            armed := l.out.armed || decide (taken.length < data.length)
              || decide (512 ≤ (l.out.queue ++ taken).length) } })
          0x20 label (if taken.length = data.length then .done else .partly) (be16 taken.length)))

/-- SET SESSION (R37, R38, R47, R129): the fields, then the tag are checked; then the six copies are replaced; a
forwarding timer setting of 0 stops the timer; output pacing off clears output stopped; input pacing off while input is
held puts DC1 into the control slot; nothing else changes. -/
def Obligations.SetSessionReplacesTheCopies : Prop :=
  ∀ (s : State) (label ec n f0 f1 f2 f3 ft ap ac op ip : Byte) (tag : Nat) (rest : List Byte)
    (checks : List (Bool × Byte)), tag < 65536 →
    checks = [(decide (1 < ec.toNat), 2), (decide (4 < n.toNat), 3), (decide (1 < ap.toNat), 5),
      (decide (1 < op.toNat), 6), (decide (1 < ip.toNat), 7)] →
    s.Asked 0x21 label (be16 tag ++ [ec, n, f0, f1, f2, f3, ft, ap, ac, op, ip] ++ rest) →
    (∀ c, checks.find? (·.1) = some c → exec .setSession s = .next (s.answered 0x21 label .badField [c.2, 0]))
    ∧ (checks.find? (·.1) = none → s.Stale tag →
        exec .setSession s = .next (s.answered 0x21 label .stale [0, 0]))
    ∧ (checks.find? (·.1) = none → ∀ (i : LineId) (l : Line) (ses : Session) (copies : Copies), i.val = tag / 256 →
        l = s.line i → l.session = some ses → l.generation.toNat = tag % 256 →
        copies = { echo := decide (ec = 1), fwdChars := [f0, f1, f2, f3].take n.toNat, fwdTimer := ft.toNat
                   attention := if ap = 0 then none else some ac, outPacing := decide (op = 1)
                   inPacing := decide (ip = 1) } →
        exec .setSession s = .next (State.answered
          (s.setLine i { l with
            session := some { ses with copies := copies, fwdTimer := if ft = 0 then none else ses.fwdTimer }
            unit := { l.unit with
              outputStopped := l.unit.outputStopped && decide (op = 1)
              inputHeld := l.unit.inputHeld && decide (ip = 1) }
            out := { l.out with control := if ip = 0 ∧ l.unit.inputHeld = true then some 0x11 else l.out.control } })
          0x21 label .done (copiesBlock copies)))

/-- END SESSION (R120, R121, R130, R131, R133, R134), where the closing debit makes no transition: the session closes
with its rounding unit, its record joins the tail of the charge store and its checkpoint entry is cleared, the account
gives back the place and pays the rounding unit, the input is discarded and tallied, the queue is kept with DRAIN and
emptied with DISCARD, END is set, text 10 is placed and the line drains for up to 30 s; the reply carries tag, serial,
units and seconds; other lines are left alone. An append that brings the record count to an armed charge level sets
CHARGES_PENDING and clears the armed flag (R154). Any other option is BAD_FIELD, a tag of no current session STALE. -/
def Obligations.EndSessionRunsTheEndSequence : Prop :=
  ∀ (s : State) (label opt : Byte) (tag : Nat) (rest : List Byte), tag < 65536 →
    s.Asked 0x22 label (be16 tag ++ [opt] ++ rest) →
    (1 < opt.toNat → exec .endSession s = .next (s.answered 0x22 label .badField [2, 0]))
    ∧ (opt.toNat ≤ 1 → s.Stale tag → exec .endSession s = .next (s.answered 0x22 label .stale [0, 0]))
    ∧ (opt.toNat ≤ 1 → ∀ (i : LineId) (l : Line) (ses : Session) (a : Account) (tariff : Tariff) (ru : Nat)
        (budget : Int) (charge : Charge), i.val = tag / 256 → l = s.line i → l.session = some ses →
        l.generation.toNat = tag % 256 → s.tariff = some tariff → s.account? ses.meter.account = some a →
        ru = roundingUnitOf tariff.rounding ses.meter.residue → budget = clampBudget (a.budget - ru) →
        s.stateOfBudget budget a.overdraft a.cls = a.bstate → charge = s.closed i ses.meter ru →
        ∃ t, exec .endSession s = .next t
          ∧ t.store.records = s.store.records ++ [⟨s.store.nextSerial, charge, .requested, false⟩]
          ∧ t.store.count = s.store.count + 1 ∧ t.store.nextSerial = s.store.nextSerial + 1
          ∧ t.store.oldest = s.store.oldest
          ∧ (∀ j, t.store.checkpoints.get j = if j = i then none else s.store.checkpoints.get j)
          ∧ t.account? ses.meter.account = some { a with budget := budget, active := a.active - 1 }
          ∧ (∀ m, m ≠ ses.meter.account → t.account? m = s.account? m)
          ∧ t.link.replies = s.link.replies ++ [⟨0xA2, label, .done,
              be16 tag ++ be32 s.store.nextSerial.toNat ++ be32 charge.units ++ be32 charge.seconds⟩]
          ∧ t.service = s.service ∧ t.clock = s.clock ∧ t.tariff = s.tariff ∧ t.readMark = s.readMark
          ∧ (s.chargeArmed = true ∧ s.link.chargeLevel ≤ s.store.count + 1 → t.chargeArmed = false
            ∧ t.link.chargesPending.map (·.count) = (serviceFlagAfter s.link.chargesPending 0).map (·.count))
          ∧ (s.chargeArmed = false ∨ s.store.count + 1 < s.link.chargeLevel →
            t.chargeArmed = s.chargeArmed ∧ t.link.chargesPending = s.link.chargesPending)
          ∧ (∀ j, j ≠ i → t.line j = s.line j)
          ∧ (t.line i).session = none ∧ (t.line i).unit.fifo = []
          ∧ (t.line i).reports = { l.reports with
              attention := none, outReady := none
              ended := some ⟨BitVec.ofNat 16 tag, .requested, s.store.nextSerial, charge.units, charge.seconds,
                min 65535 (l.inputHeldBytes ses)⟩ }
          ∧ (t.line i).tallies = { l.tallies with
              inputLost := min 65535 (l.tallies.inputLost + l.inputHeldBytes ses) }
          ∧ ((t.line i).state = .draining ∨ (t.line i).state = .hangup)
          ∧ (l.unit.speed ≠ none → s.textFor 10 (some budget) (some charge.units) ≠ [] →
              (t.line i).state = .draining ∧ (t.line i).drain = some 3000
              ∧ (t.line i).endedPacing = some (ses.copies.outPacing, ses.copies.inPacing)
              ∧ (t.line i).out = { l.out with
                  armed := false, queue := if opt = 0 then l.out.queue else [], waitPrompt := none
                  noticeWait := s.textFor 10 (some budget) (some charge.units)
                  control := if l.unit.inputHeld = true then some 0x11 else l.out.control }))

/-- READ CHARGES (R150, R151): a count clamped to 1 to 8; the oldest records, that many at most, oldest first, with the
count taken, their number, the record count and the read mark, which rises to that number; retained memory and all else
are unchanged. RELEASE CHARGES (R144, R152, R154): a count above the read mark is taken as the read mark; nothing is
removed for 0; else the n oldest records go, the oldest position moves on past 2047 to 0, record count and read mark fall
by n, the header is rewritten, and the charge-level flag is armed where the count is now below a nonzero level. -/
def Obligations.ChargesAreReadAndReleased : Prop :=
  (∀ (s : State) (label count : Byte) (rest : List Byte) (n k : Nat), s.Asked 0x28 label (count :: rest) →
    n = max 1 (min 8 count.toNat) → k = min n s.store.count →
    exec .readCharges s = .next (State.answered { s with readMark := max s.readMark k } 0x28 label .done
      ([byteOf n, byteOf k] ++ be16 s.store.count ++ be16 (max s.readMark k)
        ++ (s.store.records.take k).flatMap recordBytes)))
  ∧ ∀ (s : State) (label : Byte) (count n : Nat) (rest : List Byte), count < 65536 →
    s.Asked 0x29 label (be16 count ++ rest) → n = min count s.readMark →
    (n = 0 → exec .releaseCharges s
      = .next (s.answered 0x29 label .done ([0, 0] ++ be16 s.store.count ++ be16 s.readMark)))
    ∧ (n ≠ 0 → exec .releaseCharges s = .next (State.answered
        { s with
          store := {
            records := s.store.records.drop n
            count := s.store.count - n
            oldest := (s.store.oldest + n) % 2048
            nextSerial := s.store.nextSerial
            integrity := integrityOf (s.store.count - n) ((s.store.oldest + n) % 2048) s.store.nextSerial
            checkpoints := s.store.checkpoints }
          readMark := s.readMark - n
          chargeArmed := s.chargeArmed || (s.link.chargeLevel ≠ 0 && s.store.count - n < s.link.chargeLevel) }
        0x29 label .done (be16 n ++ be16 (s.store.count - n) ++ be16 (s.readMark - n))))

/-- Retained memory (R143, R144, R146, R152, R171, R173). The header holds count, oldest position, next serial and
integrity word, most significant byte first (their order is the MODEL'S CHOICE, log 31). The k-th record stands in slot
(oldest + k) mod 2048. An append writes the slot after the newest and a release empties the slots of the records removed;
neither changes another slot. A record takes 35 bytes, its fields at the offsets of R173; a checkpoint entry takes the
same with serial, end reason and RECOVERED 0. -/
def Obligations.RetainedMemoryLayout : Prop :=
  (∀ st : Store, st.count < 65536 → st.oldest < 65536 → st.integrity < 65536 →
    st.headerBytes.length = 10 ∧ ofBytes (st.headerBytes.take 2) = st.count
    ∧ ofBytes ((st.headerBytes.drop 2).take 2) = st.oldest
    ∧ ofBytes ((st.headerBytes.drop 4).take 4) = st.nextSerial.toNat
    ∧ ofBytes (st.headerBytes.drop 8) = st.integrity)
  ∧ (∀ st : Store, st.records.length = st.count → st.count ≤ 2048 → st.oldest < 2048 →
    (∀ k < 2048, st.slotBytes ((st.oldest + k) % 2048) = st.records[k]?.map recordBytes)
    ∧ (∀ (i : LineId) (c : Charge) (r : EndReason) (recovered : Bool) (slot : Nat), st.count < 2048 →
      slot = (st.oldest + st.count) % 2048 →
      (st.append i c r recovered).slotBytes slot = some (recordBytes ⟨st.nextSerial, c, r, recovered⟩)
      ∧ ∀ k < 2048, k ≠ slot → (st.append i c r recovered).slotBytes k = st.slotBytes k)
    ∧ ∀ n k, n ≤ st.count → k < 2048 → (st.release n).slotBytes ((st.oldest + k) % 2048)
      = if k < n then none else st.slotBytes ((st.oldest + k) % 2048))
  ∧ ∀ (r : Record) (c : Charge) (bytes : List Byte) (slice : Nat → Nat → List Byte), c = r.charge →
    c.account.length ≤ 8 → c.startSecond < 86400 → c.endSecond < 86400 → c.seconds < 4294967296 →
    c.units < 4294967296 →
    bytes = recordBytes r → slice = (fun offset n => (bytes.drop offset).take n) →
    bytes.length = 35 ∧ ofBytes (slice 0 4) = r.serial.toNat
    ∧ slice 4 8 = c.account ++ List.replicate (8 - c.account.length) 0x20
    ∧ ofBytes (slice 12 1) = c.cls.val ∧ ofBytes (slice 13 1) = c.line.val ∧ ofBytes (slice 14 1) = c.speed.val
    ∧ (∃ flags : Byte, slice 15 1 = [flags] ∧ flags.getLsbD 0 = c.clockSet ∧ flags.getLsbD 1 = c.saturated
      ∧ flags.getLsbD 2 = c.graceFlag ∧ flags.getLsbD 3 = r.recovered ∧ flags.toNat < 16)
    ∧ ofBytes (slice 16 2) = c.startDay.toNat ∧ ofBytes (slice 18 3) = c.startSecond
    ∧ ofBytes (slice 21 2) = c.endDay.toNat ∧ ofBytes (slice 23 3) = c.endSecond
    ∧ ofBytes (slice 26 4) = c.seconds ∧ ofBytes (slice 30 4) = c.units ∧ slice 34 1 = [r.reason.code]
    ∧ checkpointBytes c = (recordBytes ⟨0, c, r.reason, false⟩).take 34 ++ [0]

/-! ### The host link -/

/-- FRAME RECEIVED of one whole frame, made of its body by R158, while hunting (R158, R159, R160, R165): the body comes
back out of the frame as it went in. In CLOSED, OPEN and LINK_LOST it joins the tail of the intake queue, or with four
waiting is discarded and tallied as OVERFLOW; in OPEN it restarts the monitor; in LINK_LOST it restores OPEN, starts the
monitor and sets LINK_RESTORED with the recorded count added; in POWERDOWN it is discarded. Bytes other than A5h are
ignored in the hunt.
The errors of the receiver (R159): a gap of 20 ms within a frame is tallied as TIMEOUT and the hunt starts again; a
length outside 2 to 400 is tallied as BAD_LENGTH and its two bytes are hunted over; a wrong check is tallied as
BAD_CHECK and the frame discarded. A gap while hunting does nothing. -/
def Obligations.ReceiverTakesFramesOutOfBytes : Prop :=
  (∀ (s : State) (body bytes : List Byte) (link : Link) (monitor : Timer), s.mode = .running →
    s.link.receiver = .hunting → 2 ≤ body.length → body.length ≤ 400 →
    bytes = [0xA5] ++ be16 body.length ++ body ++ be16 (crc (be16 body.length ++ body)).toNat →
    link = (if s.link.intake.length < 4 then { s.link with intake := s.link.intake ++ [body] }
      else { s.link with overflow := min 65535 (s.link.overflow + 1) }) →
    monitor = (if s.link.period = 0 then none else some (s.link.period * 100)) →
    (s.service = .closed → exec (.frameReceived bytes) s = .next { s with link := link })
    ∧ (s.service = .opened → exec (.frameReceived bytes) s = .next { s with link := { link with monitor := monitor } })
    ∧ (s.service = .linkLost → exec (.frameReceived bytes) s = .next
        { s with
          service := .opened
          link := { link with
            monitor := monitor
            linkRestored := serviceFlagAfter s.link.linkRestored (match s.link.linkRestored with
              | some f => min 65535 (f.value + s.link.lostSessions)
              | none => s.link.lostSessions) } })
    ∧ (s.service = .powerdown → exec (.frameReceived bytes) s = .next s)
    ∧ ∀ noise : List Byte, (∀ b ∈ noise, b ≠ 0xA5) → exec (.frameReceived noise) s = .next s)
  ∧ ∀ (s : State), s.mode = .running →
    (s.link.receiver ≠ .hunting → exec .frameTimeout s = .next
      { s with link := { s.link with receiver := .hunting, timeout := min 65535 (s.link.timeout + 1) } })
    ∧ (s.link.receiver = .hunting → exec .frameTimeout s = .next s)
    ∧ (∀ hi lo : Byte, s.link.receiver = .length [hi] →
      (hi.toNat * 256 + lo.toNat < 2 ∨ 400 < hi.toNat * 256 + lo.toNat) →
      exec (.frameReceived [lo]) s = .next { s with link := { s.link with
        badLength := min 65535 (s.link.badLength + 1)
        receiver := if hi = 0xA5 then .length [lo] else if lo = 0xA5 then .length [] else .hunting } })
    ∧ (∀ (hi lo c d : Byte) (body : List Byte), s.link.receiver = .body hi lo (body ++ [c]) →
      body.length = hi.toNat * 256 + lo.toNat → be16 (crc (hi :: lo :: body)).toNat ≠ [c, d] →
      exec (.frameReceived [d]) s = .next { s with link := { s.link with
        receiver := .hunting, badCheck := min 65535 (s.link.badCheck + 1) } })

/-- The arbiter's first choices (R162, R163, R170, R172, R173): READY before all else, then the oldest reply, then
POWER_WARNING, LINK_LOST, LINK_RESTORED and, unless masked, CHARGES_PENDING with the count and read mark of the moment.
What is chosen leaves its place and is sent in a frame; nothing else changes. With nothing to send the transmitter is
idle. -/
def Obligations.ArbiterSendsReadyRepliesServiceEvents : Prop :=
  ∀ (s : State), s.mode = .running →
    (∀ r, s.link.ready = some r → exec .arbiterChoice s = .next (State.send
      { s with link := { s.link with ready := none } }
      ([0x40, 0, r.kind.code, r.verdict.code] ++ be16 r.count ++ [byteOf r.recovered])))
    ∧ (s.link.ready = none →
      (∀ r rest, s.link.replies = r :: rest → exec .arbiterChoice s = .next (State.send
        { s with link := { s.link with replies := rest } } ([r.kind, r.label, r.result.code] ++ r.fields)))
      ∧ (s.link.replies = [] →
        (∀ f, s.link.powerWarning = some f → exec .arbiterChoice s = .next (State.send
          { s with link := { s.link with powerWarning := none } }
          ([0x41, 0, 1, byteOf f.count] ++ be16 f.value ++ [0, 0])))
        ∧ (s.link.powerWarning = none →
          (∀ f, s.link.linkLost = some f → exec .arbiterChoice s = .next (State.send
            { s with link := { s.link with linkLost := none } } ([0x41, 0, 2, byteOf f.count] ++ be16 f.value ++ [0, 0])))
          ∧ (s.link.linkLost = none →
            (∀ f, s.link.linkRestored = some f → exec .arbiterChoice s = .next (State.send
              { s with link := { s.link with linkRestored := none } }
              ([0x41, 0, 3, byteOf f.count] ++ be16 f.value ++ [0, 0])))
            ∧ (s.link.linkRestored = none → s.link.mask.chargeLevel = false →
              ∀ f, s.link.chargesPending = some f → exec .arbiterChoice s = .next (State.send
                { s with link := { s.link with chargesPending := none } }
                ([0x41, 0, 4, byteOf f.count] ++ be16 s.store.count ++ be16 s.readMark)))))))
    ∧ (s.NothingAhead → (∀ i, s.Silent i) →
      (s.link.mask.budget = true ∨ s.link.budgetOrder = []) →
      (∀ i ses, (s.line i).session = some ses → ses.held = none) →
      exec .arbiterChoice s = .next { s with link := { s.link with tx := none } })

/-- The arbiter's choice of a line report (R72, R162, R163, R173), with nothing ahead of the line reports. The first
line after the pointer with a report to give is served and becomes the pointer; of its reports it gives END, or SIGNON
in place of an END it still precedes, then LINE EVENT, SIGNON, ATTENTION, OUTPUT READY, passing over masked ones and
an END that the SIGNON of another line holds back (R72; MODEL'S CHOICE where R162 differs, log 41). Only that flag is
cleared. (An END that a waiting sign-on awaits is apart.) -/
def Obligations.ArbiterSendsLineReports : Prop :=
  ∀ (s : State) (i : LineId) (d : Nat) (r : LineReports) (after : LineReports → List Byte → State),
    s.mode = .running → s.NothingAhead → d < 48 → i.val = (s.link.linePtr.val + 1 + d) % 48 →
    (∀ k < d, ∀ j : LineId, j.val = (s.link.linePtr.val + 1 + k) % 48 → s.Silent j) →
    r = (s.line i).reports →
    after = (fun reports body => State.send
      { s.setLine i { s.line i with reports := reports } with link := { s.link with linePtr := i } } body) →
    (∀ e, r.ended = some e → r.signon = none → ¬ s.EndHeldBack i →
      ((s.line i).state = .dialog → (s.line i).dialog.phase ≠ .waiting) →
      exec .arbiterChoice s = .next (after { r with ended := none }
        ([0x4B, 0] ++ be16 e.tag.toNat ++ [e.reason.code] ++ be32 e.serial.toNat ++ be32 e.units ++ be32 e.seconds
          ++ be16 e.discarded)))
    ∧ (∀ f, r.signon = some f → (r.ended ≠ none ∨ s.link.mask.lineEvent = true ∨ r.event = none) →
      exec .arbiterChoice s = .next (after { r with signon := none }
        ([0x4A, 0] ++ be16 f.tag.toNat ++ padName f.account ++ [byteOf f.cls.val, byteOf f.speed.val]
          ++ be16 f.startDay.toNat ++ be24 f.startSecond)))
    ∧ (r.ended = none ∨ r.signon = none ∧ s.EndHeldBack i → s.link.mask.lineEvent = false → ∀ f, r.event = some f →
      exec .arbiterChoice s = .next (after { r with event := none }
        [0x4E, 0, byteOf i.val, f.kind.code, byteOf f.count, f.detail]))
    ∧ (r.ended = none ∨ s.EndHeldBack i → r.signon = none → (s.link.mask.lineEvent = true ∨ r.event = none) →
      (∀ f, r.attention = some f → exec .arbiterChoice s = .next (after { r with attention := none }
        ([0x49, 0] ++ be16 f.tag.toNat ++ [byteOf f.count] ++ be16 f.inputLost ++ be16 f.outputLost)))
      ∧ (r.attention = none → s.link.mask.outputReady = false → ∀ f, r.outReady = some f →
        exec .arbiterChoice s = .next (after { r with outReady := none }
          ([0x4C, 0] ++ be16 f.tag.toNat ++ be16 f.level))))

/-- The arbiter's last choices (R46, R162, R163, R173), with no line report to give: the BUDGET NOTICE of the first
account in the BUDGET order, whose flag is cleared and which leaves the order; with BUDGET masked or no account in the
order, the held LINE DATA buffer of the first line after the LINE DATA pointer that holds one, whose held slot takes a
CLOSED filling buffer at once. -/
def Obligations.ArbiterSendsBudgetNoticesAndLineData : Prop :=
  ∀ (s : State), s.mode = .running → s.NothingAhead → (∀ i, s.Silent i) →
    (∀ n rest a f, s.link.mask.budget = false → s.link.budgetOrder = n :: rest → s.account? n = some a →
      a.notice = some f →
      ∃ t, exec .arbiterChoice s = .next t ∧ t.account? n = some { a with notice := none }
        ∧ (∀ m, m ≠ n → t.account? m = s.account? m)
        ∧ { t with accounts := s.accounts } = State.send
            { s with link := { s.link with budgetOrder := rest.filter (· ≠ n) } }
            ([0x4D, 0] ++ padName n ++ beInt32 f.budget ++ [f.state.code, byteOf f.count]))
    ∧ (s.link.mask.budget = true ∨ s.link.budgetOrder = [] →
      ∀ (i : LineId) (d : Nat) (ses : Session) (b : Buffer), d < 48 → i.val = (s.link.dataPtr.val + 1 + d) % 48 →
      (∀ k < d, ∀ j : LineId, j.val = (s.link.dataPtr.val + 1 + k) % 48 →
        ∀ other, (s.line j).session = some other → other.held = none) →
      (s.line i).session = some ses → ses.held = some b →
      exec .arbiterChoice s = .next (State.send
        { s.setLine i { s.line i with session := some (match ses.closed with
            | some cause => { ses with held := some ⟨ses.filling, cause⟩, filling := [], closed := none }
            | none => { ses with held := none }) } with link := { s.link with dataPtr := i } }
        ([0x48, 0] ++ be16 (i.val * 256 + (s.line i).generation.toNat) ++ [b.cause.code] ++ be16 b.bytes.length
          ++ b.bytes)))

/-- HOST SILENCE EXPIRY, the service OPEN and the monitor running (R137, R139, R165): the service is LINK_LOST, the
monitor stops, and LINK_LOST is set with the action. NONE and REFUSE do no more than record 0. HANGUP ends every
session with LINK_LOST as one whole, records their number, and turns away every line in DIALOG or DETECTING with text
6, its markers without account and session (MODEL'S CHOICE, log 38). Its scan writes DTR (MODEL'S CHOICE, log 8). The
action is the applied one until the next expiry, by which lines are admitted in LINK_LOST (R6, R166). Without a
running monitor nothing happens (MODEL'S CHOICE, log 3). -/
def Obligations.HostSilenceLosesTheLink : Prop :=
  ∀ (s : State), s.mode = .running →
    (s.service ≠ .opened ∨ s.link.monitor = none → exec .hostSilenceExpiry s = .next s)
    ∧ (s.service = .opened → s.link.monitor ≠ none →
      (∀ value, s.link.action = .none ∧ value = 0 ∨ s.link.action = .refuse ∧ value = 1 →
        exec .hostSilenceExpiry s = .next { s.scanned with
          service := .linkLost
          link := { s.link with
            monitor := none, linkLost := serviceFlagAfter s.link.linkLost value, applied := s.link.action
            lostSessions := 0 } })
      ∧ (s.link.action = .hangup → s.AllLines Line.SessionRight → s.StoreRight →
        ∃ t ended, exec .hostSilenceExpiry s = .next t ∧ t.service = .linkLost ∧ t.link.monitor = none
          ∧ t.link.linkLost = serviceFlagAfter s.link.linkLost 2 ∧ t.link.applied = .hangup
          ∧ t.link.lostSessions = s.meteredLines.length
          ∧ t.store.records = s.store.records ++ ended ∧ ended.length = s.meteredLines.length
          ∧ (∀ r ∈ ended, r.reason = .linkLost ∧ r.recovered = false)
          ∧ (∀ i, t.store.checkpoints.get i = none) ∧ t.clock = s.clock ∧ t.tariff = s.tariff
          ∧ ∀ i,
            ((s.line i).state.metered = true →
              ((t.line i).state = .draining ∨ (t.line i).state = .hangup) ∧ (t.line i).session = none
              ∧ ∃ e, (t.line i).reports.ended = some e ∧ e.reason = .linkLost
                ∧ e.tag = BitVec.ofNat 16 (i.val * 256 + (s.line i).generation.toNat))
            ∧ ((s.line i).state = .dialog ∨ (s.line i).state = .detecting →
              (s.line i).TurnedAway (s.textFor 6 none none) (t.line i))
            ∧ ((s.line i).state.metered = false → (s.line i).state ≠ .dialog → (s.line i).state ≠ .detecting →
              t.line i = (s.line i).driven)))

/-! ### Supply, reset and start-up -/

/-- POWER FAIL WARNING (R140, R160, R169): in POWERDOWN it is only the level seen. Otherwise every session ends with
POWER and every other answered line hangs up, so that no line is answered, and DTR is left for the next scan to write
(R1; the scan: log 8); the records join the charge store; POWER_WARNING is set with the number ended; the intake queue
is emptied and the service is POWERDOWN. -/
def Obligations.PowerFailWarningEndsEverything : Prop :=
  ∀ (s : State), s.mode = .running → s.AllLines Line.SessionRight → s.StoreRight →
    (s.service = .powerdown → exec .powerFailWarning s = .next { s with pfw := true })
    ∧ (s.service ≠ .powerdown → ∃ t ended, exec .powerFailWarning s = .next t
        ∧ t.service = .powerdown ∧ t.pfw = true ∧ t.clock = s.clock ∧ t.tariff = s.tariff ∧ t.texts = s.texts
        ∧ (∃ charges, t.link = { s.link with
            intake := [], monitor := none, chargesPending := charges, budgetOrder := t.link.budgetOrder
            powerWarning := serviceFlagAfter s.link.powerWarning s.meteredLines.length })
        ∧ t.store.records = s.store.records ++ ended ∧ ended.length = s.meteredLines.length
        ∧ (∀ r ∈ ended, r.reason = .power ∧ r.recovered = false)
        ∧ (∀ i, t.store.checkpoints.get i = none)
        ∧ ∀ i, (t.line i).state.answered = false ∧ (t.line i).dtr = (s.line i).dtr
          ∧ ((s.line i).state.answered = false → t.line i = s.line i)
          ∧ ((s.line i).state.answered = true → (s.line i).state.metered = false → t.line i = (s.line i).onHook)
          ∧ ((s.line i).state.metered = true → (t.line i).state = .hangup ∧ (t.line i).session = none
            ∧ ∃ e, (t.line i).reports.ended = some e ∧ e.reason = .power
              ∧ e.tag = BitVec.ofNat 16 (i.val * 256 + (s.line i).generation.toNat)))

/-- Start-ups of the kinds POWER_ON, RESET_PIN and POWER_RECOVERY (R155, R156, R157, R170). Every piece of volatile
state has its start-up value, the pins are read, and READY is owed. On a good header the verdict is INTACT: the valid
checkpoint entries become records of reason LOST, marked RECOVERED, in line order, with the next serials, and are
cleared. On a bad header it is LOST and the store is empty. PFW found asserted takes a start-up of the first two kinds
on into POWERDOWN with a POWER_WARNING of count 0. -/
def Obligations.StartUpsRestoreAndRecover : Prop :=
  ∀ (s : State) (pins : Pins) (c : Instr) (kind : StartKind) (start : Ready → Store → State),
    (c = .powerOn pins false .kept ∧ kind = .powerOn
      ∨ c = .resetPin pins false ∧ s.mode ≠ .unpowered ∧ kind = .resetPin
      ∨ c = .powerRecovery pins ∧ s.mode = .running ∧ s.service = .powerdown ∧ kind = .powerRecovery) →
    start = (fun ready store => { State.reset with
      strap := pins.strap
      link := Link.atStart (some ready)
      lines := Vector.ofFn fun i => Line.atStart (pins.ri.getLsbD i.val) (pins.cd.getLsbD i.val)
      store := store
      orders := s.orders
      scans := s.scans
      pending := s.pending }) →
    (s.StoreRight → ∀ recovered : List Record,
      recovered = ((allLines.filterMap fun i => s.store.checkpoints.get i).zipIdx.map fun p =>
        ⟨s.store.nextSerial + BitVec.ofNat 32 p.2, p.1, .lost, true⟩) →
      exec c s = .next (start ⟨kind, .intact, s.store.count + recovered.length, recovered.length⟩
        { records := s.store.records ++ recovered
          count := s.store.count + recovered.length
          oldest := s.store.oldest
          nextSerial := s.store.nextSerial + BitVec.ofNat 32 recovered.length
          integrity := integrityOf (s.store.count + recovered.length) s.store.oldest
            (s.store.nextSerial + BitVec.ofNat 32 recovered.length)
          checkpoints := Vector.replicate 48 none }))
    ∧ (s.store.headerGood = false →
      exec c s = .next (start ⟨kind, .lost, 0, 0⟩ ⟨[], 0, 0, 0, 65535, Vector.replicate 48 none⟩))
    ∧ exec (.powerOn pins false .bad) s
      = .next (start ⟨.powerOn, .lost, 0, 0⟩ ⟨[], 0, 0, 0, 65535, Vector.replicate 48 none⟩)
    ∧ (∀ t, exec c s = .next t → ∀ c', c = .powerOn pins false .kept ∧ c' = .powerOn pins true .kept
        ∨ c = .resetPin pins false ∧ c' = .resetPin pins true →
      exec c' s = .next { t with
        pfw := true, service := .powerdown, orders := t.orders.tail
        link := { t.link with powerWarning := some ⟨1, 0⟩ } })

/-- The RESET pin asserted and the loss of power (R143, R145, R168): the volatile state is gone, no line is answered and
DTR is low on all, and the retained charge store keeps its contents. Until the pin is released or power returns nothing
acts on the part but the supply and the pin (MODEL'S CHOICE of the volatile values in between, log 11). -/
def Obligations.HoldAndPowerLossKeepTheStore : Prop :=
  ∀ (s : State),
    (∀ c mode, (c = .powerLoss ∧ mode = .unpowered
        ∨ c = .resetPinAsserted ∧ mode = .inReset ∧ s.mode ≠ .unpowered) →
      ∃ t, exec c s = .next t ∧ t.mode = mode ∧ t.store = s.store ∧ t.pending = s.pending ∧ t.accounts = []
        ∧ t.service = .closed ∧ t.tariff = none ∧ t.clock = ⟨0, 0, false, 0, 0⟩ ∧ t.link = Link.atStart none
        ∧ ∀ i, t.line i = Line.atStart false false)
    ∧ (s.mode = .unpowered → exec .resetPinAsserted s = .next s ∧ ∀ pins pfw, exec (.resetPin pins pfw) s = .next s)
    ∧ (s.mode ≠ .running → ∀ c, (∀ pins pfw ram, c ≠ .powerOn pins pfw ram) → (∀ pins pfw, c ≠ .resetPin pins pfw) →
      c ≠ .resetPinAsserted → c ≠ .powerLoss → exec c s = .next s)

/-! ### Rings, carrier and the line's timers -/

/-- RING (R3, R4): in IDLE with the service OPEN or LINK_LOST the line goes to ANSWERING with lockout due cleared and
the carrier wait started; any other ring is only seen. The scan that finds it writes DTR of all lines for the states
before it (R1). CARRIER WAIT EXPIRY (R7) takes an ANSWERING line to HANGUP with ANSWER_FAIL, with its scan (MODEL'S
CHOICE, log 8); elsewhere it does nothing (MODEL'S CHOICE, log 3). -/
def Obligations.RingAnswersAnIdleLine : Prop :=
  ∀ (s : State) (i : LineId) (l : Line), s.mode = .running → l = (s.line i).driven →
    (l.state = .idle → (s.service = .opened ∨ s.service = .linkLost) →
      exec (.ringSeen i) s = .next (s.scanned.setLine i { l with
        state := .answering, ri := true, lockoutDue := false, carrierLoss := none
        carrierWait := some (l.config.carrierWait * 100) }))
    ∧ ((l.state ≠ .idle ∨ s.service = .closed ∨ s.service = .powerdown) →
      exec (.ringSeen i) s = .next (s.scanned.setLine i { l with ri := true }))
    ∧ (l.state = .answering → l.carrierWait ≠ none →
      exec (.carrierWaitExpiry i) s = .next (s.scanned.setLine i (l.onHook.withEvent .answerFail 0)))
    ∧ ((l.state ≠ .answering ∨ l.carrierWait = none) → exec (.carrierWaitExpiry i) s = .next s)

/-- CARRIER DETECT (R5, R6, R8, R15). In ANSWERING, CD having been low, an AUTO line goes to DETECTING with the
detection timer started (the level of its empty current interval is the MODEL'S CHOICE, log 16); a FIXED line has its
fixed speed known and is admitted to DIALOG, or refused with text 6. In a watched state it ends a dip: the
carrier-loss timer stops. The scan that finds CD high writes DTR of all lines for the states before it (R1). -/
def Obligations.CarrierBringsDetectionOrDialog : Prop :=
  ∀ (s : State) (i : LineId) (l : Line), s.mode = .running → l = (s.line i).driven →
    (l.state = .answering → l.cd = false →
      (l.config.mode = .auto → exec (.carrierDetect i) s = .next (s.scanned.setLine i { l with
        state := .detecting, cd := true, carrierWait := none
        detector := ⟨.arming, [], 0, .mark, 0, 0, .none, some (l.config.detTime * 100)⟩ }))
      ∧ (l.config.mode = .fixed → s.Admits → (∀ n, l.dialog.timer ≠ .held n) → s.textFor 0 none none ≠ [] →
        exec (.carrierDetect i) s = .next (s.scanned.setLine i
          (Line.admitted { l with cd := true } l.config.fixedSpeed (s.textFor 0 none none))))
      ∧ (l.config.mode = .fixed → ¬ s.Admits → s.textFor 6 none none ≠ [] →
        ∃ new, exec (.carrierDetect i) s = .next (s.scanned.setLine i new) ∧ l.Refused (s.textFor 6 none none) new
          ∧ new.cd = true ∧ new.carrierWait = none ∧ new.unit.speed = some l.config.fixedSpeed
          ∧ new.reports = l.reports))
    ∧ (l.state.watched = true →
      exec (.carrierDetect i) s = .next (s.scanned.setLine i { l with cd := true, carrierLoss := none }))

/-- CARRIER DROP in a watched state starts the 500 ms carrier-loss timer where it does not run (R8). CARRIER LOSS
without that timer does nothing (MODEL'S CHOICE, log 3). With it (R9), a watched line without session hangs up; a
session ends with CARRIER_LOST, and where its closing debit makes no transition its record joins the charge store, its
place and its rounding unit are settled with the account, END is set, the line is in HANGUP and other lines are left
alone (R120, R121, R131, R135). The scan of either writes DTR of all lines (R1; that CARRIER LOSS holds one: MODEL'S
CHOICE, log 8). -/
def Obligations.CarrierLossHangsUpOrEndsTheSession : Prop :=
  ∀ (s : State) (i : LineId) (l : Line), s.mode = .running → l = (s.line i).driven →
    (l.state.watched = true → exec (.carrierDrop i) s = .next (s.scanned.setLine i { l with
      cd := false, carrierLoss := some (l.carrierLoss.getD 50) }))
    ∧ (l.carrierLoss = none → exec (.carrierLoss i) s = .next s)
    ∧ (l.carrierLoss ≠ none → l.state.watched = true → l.state.metered = false →
      exec (.carrierLoss i) s = .next (s.scanned.setLine i l.onHook))
    ∧ (l.carrierLoss ≠ none → l.state.metered = true →
      ∀ (ses : Session) (a : Account) (tariff : Tariff) (ru : Nat) (budget : Int) (charge : Charge),
        l.session = some ses → s.tariff = some tariff → s.account? ses.meter.account = some a →
        ru = roundingUnitOf tariff.rounding ses.meter.residue → budget = clampBudget (a.budget - ru) →
        s.stateOfBudget budget a.overdraft a.cls = a.bstate → charge = s.closed i ses.meter ru →
        ∃ t, exec (.carrierLoss i) s = .next t
          ∧ t.store.records = s.store.records ++ [⟨s.store.nextSerial, charge, .carrierLost, false⟩]
          ∧ t.store.count = s.store.count + 1 ∧ t.store.nextSerial = s.store.nextSerial + 1
          ∧ (∀ j, t.store.checkpoints.get j = if j = i then none else s.store.checkpoints.get j)
          ∧ t.account? ses.meter.account = some { a with budget := budget, active := a.active - 1 }
          ∧ (∀ m, m ≠ ses.meter.account → t.account? m = s.account? m)
          ∧ t.link.replies = s.link.replies ∧ t.service = s.service ∧ t.clock = s.clock ∧ t.tariff = s.tariff
          ∧ (∀ j, j ≠ i → t.line j = (s.line j).driven)
          ∧ t.line i = { l.onHook with
              session := none
              tallies := { l.tallies with inputLost := min 65535 (l.tallies.inputLost + l.inputHeldBytes ses) }
              reports := { l.reports with
                attention := none, outReady := none
                ended := some ⟨BitVec.ofNat 16 (i.val * 256 + l.generation.toNat), .carrierLost, s.store.nextSerial,
                  charge.units, charge.seconds, min 65535 (l.inputHeldBytes ses)⟩ } })

/-- The ways out of HANGUP and the timers that end a call (R11, R12, R74, R135). With the guard expired and CD low the
line leaves HANGUP: to DISABLED where a disable is pending, to LOCKOUT with LOCKOUT_START where lockout is due and its
time is not 0, else to IDLE. With CD high it stays. LOCKOUT EXPIRY takes it to IDLE with LOCKOUT_END; the drain and
the rejecting timer take it to HANGUP. The scan of each writes DTR of all lines (MODEL'S CHOICE, log 8), so DTR is low
as a line leaves HANGUP (R2). -/
def Obligations.TimersMoveTheLineOn : Prop :=
  ∀ (s : State) (i : LineId) (l base : Line), s.mode = .running → l = (s.line i).driven →
    base = { l with guard := none, cd := false, carrierLoss := none, lockoutDue := false } →
    (∀ c, (c = .hangupGuardExpiry i ∧ l.guard ≠ none ∧ l.cd = false ∨ c = .carrierDrop i ∧ l.guard = none) →
      l.state = .hangup →
      (l.disablePending = true →
        exec c s = .next (s.scanned.setLine i { base with state := .disabled, disablePending := false }))
      ∧ (l.disablePending = false → l.lockoutDue = true → l.config.lockout ≠ 0 →
        exec c s = .next (s.scanned.setLine i (Line.withEvent
          { base with state := .lockout, lockout := some (l.config.lockout * 6000) }
          .lockoutStart (byteOf l.config.lockout))))
      ∧ (l.disablePending = false → (l.lockoutDue = false ∨ l.config.lockout = 0) →
        exec c s = .next (s.scanned.setLine i { base with state := .idle })))
    ∧ (l.state = .hangup → l.guard ≠ none → l.cd = true →
      exec (.hangupGuardExpiry i) s = .next (s.scanned.setLine i { l with guard := none }))
    ∧ (l.state = .lockout → l.lockout ≠ none →
      exec (.lockoutExpiry i) s = .next (s.scanned.setLine i (Line.withEvent
        { l with state := .idle, carrierLoss := none, lockout := none } .lockoutEnd 0)))
    ∧ (l.state = .draining → l.drain ≠ none → exec (.drainTimerExpiry i) s = .next (s.scanned.setLine i l.onHook))
    ∧ (l.state = .rejecting → l.dialog.rejecting ≠ none →
      exec (.rejectingTimerExpiry i) s = .next (s.scanned.setLine i l.onHook))

/-! ### Speed detection -/

/-- The detector measures (R24, R25): QUIET LINE arms it, START EDGE begins a character, and TRANSITION ends a run. A
run of 8 samples or more joins the list, within the limits of R26. A shorter one is noise: on an empty list the
detector waits again for an edge, its current interval empty and of level mark (MODEL'S CHOICE, log 16), else the run
before it goes on through it. -/
def Obligations.DetectorMeasuresRuns : Prop :=
  ∀ (s : State) (i : LineId) (l : Line) (d : Detector), s.mode = .running → l = s.line i → d = l.detector →
    l.state = .detecting →
    (d.phase = .arming → exec (.quietLine i) s = .next (s.setLine i { l with detector := { d with phase := .waiting } }))
    ∧ (d.phase = .waiting → exec (.startEdge i) s = .next (s.setLine i { l with detector := { d with
        phase := .measuring, intervals := [], cur := 0, curLevel := .space, presence := 0 } }))
    ∧ (d.phase = .measuring → ∀ samples len, len = d.cur + samples →
      (d.curLevel = .mark → len < 4096) → (d.curLevel = .space → len < 65535) →
      (8 ≤ len → d.intervals.length < 24 → exec (.transition i samples) s = .next (s.setLine i { l with
        detector := { d with intervals := d.intervals ++ [len], cur := 0, curLevel := d.curLevel.flip } }))
      ∧ (len ≤ 7 → d.intervals = [] → exec (.transition i samples) s = .next (s.setLine i { l with
        detector := { d with phase := .waiting, cur := 0, curLevel := .mark } }))
      ∧ (len ≤ 7 → ∀ before t, d.intervals = before ++ [t] →
        (d.curLevel = .space → t + len < 4096) → (d.curLevel = .mark → t + len < 65535) →
        exec (.transition i samples) s = .next (s.setLine i { l with
          detector := { d with intervals := before, cur := t + len, curLevel := d.curLevel.flip } })))

/-- The failures of a character (R25, R26, R27, R30) and of the detection (R31): a space run at 65,535 samples, a 25th
interval, a list with no run in any speed's window, and a chosen speed at which the list does not begin as a carriage
return does; the first and the last two also where a noise interval joins its neighbours into a run that long, whose
16-bit count is at most 65,535. Each is recorded, tallied and counted, and the detector arms again; at the attempts
limit, and when the detection timer expires, with its scan (MODEL'S CHOICE, log 8), the line hangs up with SPEED_FAIL
and the result. What a failure leaves of the current interval is the MODEL'S CHOICE (log 16). -/
def Obligations.DetectionFailsByRule : Prop :=
  ∀ (s : State) (i : LineId) (l : Line) (d : Detector), s.mode = .running → l = s.line i → d = l.detector →
    l.state = .detecting →
    (d.phase = .measuring → ∀ (c : Instr) (r : DetResult) (presence : BitVec 8) (cur : Nat) (level : Level) (failed : Line),
      (r = .noEnd ∧ presence = d.presence
          ∧ (c = .noEnd i ∧ d.curLevel = .space ∧ cur = d.cur ∧ level = d.curLevel
            ∨ ∃ samples before t, c = .transition i samples ∧ d.curLevel = .mark ∧ d.cur + samples ≤ 7
              ∧ d.intervals = before ++ [t] ∧ 65535 ≤ t + (d.cur + samples) ∧ cur = 65535 ∧ level = .space)
        ∨ (∃ samples, (c = .tooMany i samples ∨ c = .transition i samples) ∧ 24 ≤ d.intervals.length
            ∧ 8 ≤ d.cur + samples ∧ (d.curLevel = .mark → d.cur + samples < 4096)
            ∧ (d.curLevel = .space → d.cur + samples < 65535) ∧ r = .tooMany ∧ presence = d.presence
            ∧ cur = d.cur ∧ level = d.curLevel)
        ∨ ∃ runs, (c = .endOfCharacter i ∧ d.curLevel = .mark ∧ runs = d.intervals ∧ cur = d.cur ∧ level = d.curLevel
            ∨ ∃ samples t, c = .transition i samples ∧ d.curLevel = .space ∧ d.cur + samples ≤ 7
              ∧ d.intervals = runs ++ [t] ∧ 4096 ≤ t + (d.cur + samples) ∧ cur = min 65535 (t + (d.cur + samples))
              ∧ level = .mark)
          ∧ presence = presenceOf runs
          ∧ (r = .noMatch ∧ (∀ run ∈ runs, ∀ k : SpeedCode, inWindow k run = false)
            ∨ r = .badChar ∧ ∃ k : SpeedCode, (∃ run ∈ runs, inWindow k run = true)
              ∧ (∀ j : SpeedCode, k < j → ∀ run ∈ runs, inWindow j run = false) ∧ readsCR k runs = false)) →
      failed = { l with
        detector := { d with presence := presence, last := r, attempts := d.attempts + 1, intervals := []
                             phase := .arming, cur := cur, curLevel := level }
        tallies := { l.tallies with detFailures := min 65535 (l.tallies.detFailures + 1) } } →
      (d.attempts + 1 ≠ l.config.detAttempts → exec c s = .next (s.setLine i failed))
      ∧ (d.attempts + 1 = l.config.detAttempts →
        exec c s = .next (s.setLine i (failed.onHook.withEvent .speedFail r.code))))
    ∧ (d.timer ≠ none →
      exec (.detectionTimerExpiry i) s
        = .next (s.scanned.setLine i (l.driven.onHook.withEvent .speedFail d.last.code)))

/-- END OF CHARACTER on a carriage return (R6, R27, R28, R29): where some run lies in the window of speed `k` and none in
a faster one's, and the five runs before the mark read as 1, 1, 1, 2 and 3 or 4 bits of `k`, the speed is `k`; the
line is admitted to DIALOG with result OK and the presence map of the list, or refused with text 6. After a BREAK, which
left the dialog timer held, it is a re-entry (R62): name, attempt count and time left are kept, and the name is to be
echoed after the prompt. -/
def Obligations.CarriageReturnGivesTheSpeed : Prop :=
  ∀ (s : State) (i : LineId) (l : Line) (k : SpeedCode) (n : Nat), s.mode = .running → l = s.line i →
    l.state = .detecting → l.detector.phase = .measuring → l.detector.curLevel = .mark →
    n = (#v[1396, 1024, 512, 256, 128, 64, 32, 16] : Vector Nat 8).get k →
    (∃ run ∈ l.detector.intervals, inWindow k run = true) →
    (∀ j : SpeedCode, k < j → ∀ run ∈ l.detector.intervals, inWindow j run = false) →
    ((l.detector.intervals.map fun run => (2 * run + n) / (2 * n)) = [1, 1, 1, 2, 3]
      ∨ (l.detector.intervals.map fun run => (2 * run + n) / (2 * n)) = [1, 1, 1, 2, 4]) →
    ∃ (map : BitVec 8) (known : Line),
      (∀ j : SpeedCode, map.getLsbD j.val = l.detector.intervals.any (inWindow j))
      ∧ known = { l with
          detector := { l.detector with presence := map, last := .ok, timer := none }
          unit := { l.unit with
            receiving := true, speed := some k, format := l.config.format, fifo := [], spaceTimer := none } }
      ∧ (s.Admits → (∀ m, l.dialog.timer ≠ .held m) → s.textFor 0 none none ≠ [] →
        exec (.endOfCharacter i) s = .next (s.setLine i (known.admitted k (s.textFor 0 none none))))
      ∧ (s.Admits → ∀ m, l.dialog.timer = .held m → s.textFor 0 none none ≠ [] →
        exec (.endOfCharacter i) s = .next (s.setLine i (known.readmitted k (s.textFor 0 none none) m)))
      ∧ (¬ s.Admits → s.textFor 6 none none ≠ [] →
        ∃ new, exec (.endOfCharacter i) s = .next (s.setLine i new) ∧ known.Refused (s.textFor 6 none none) new
          ∧ new.unit = known.unit ∧ new.reports = l.reports)

/-! ### Characters, input and output -/

/-- CHARACTER RECEIVED in DIALOG, ACTIVE, GRACE, DRAINING and REJECTING of a character that is no attention character
(R33, R35, R36, R38, R40): wrong parity is tallied, a session's inactivity count restarts; with output pacing on DC3 and
DC1 stop and release output and are not stored; in DRAINING, under the ended session's pacing copy, and in REJECTING any
other is discarded without a tally; elsewhere it joins the FIFO, or with 16 waiting is an overrun; at 8, input pacing
sends DC3 once. FRAMING ERROR (R34) is tallied and stores nothing. While the line does not receive, neither does
anything (MODEL'S CHOICE, log 3). -/
def Obligations.CharacterReceivedIsPacedOrStored : Prop :=
  ∀ (s : State) (i : LineId) (l base : Line) (bits ch : Byte) (pacing inPacing wrong : Bool) (attention : Option Byte),
    s.mode = .running → l = s.line i →
    ch = (if l.unit.format = .f8N1 then bits else bits &&& 0x7F) →
    (l.session = none ∧ (l.state = .dialog ∨ l.state = .rejecting) ∧ pacing = l.config.outPacing ∧ inPacing = false
        ∧ attention = none
      ∨ l.session = none ∧ l.state = .draining ∧ l.endedPacing = some (pacing, inPacing) ∧ attention = none
      ∨ ∃ ses, l.session = some ses ∧ l.state.metered = true ∧ pacing = ses.copies.outPacing
        ∧ inPacing = ses.copies.inPacing ∧ attention = ses.copies.attention) →
    wrong = decide (l.unit.format = .f7E1 ∧ ((List.range 8).filter fun k => bits.getLsbD k).length % 2 = 1
      ∨ l.unit.format = .f7O1 ∧ ((List.range 8).filter fun k => bits.getLsbD k).length % 2 = 0) →
    base = { l with
      tallies := { l.tallies with parity := if wrong then min 65535 (l.tallies.parity + 1) else l.tallies.parity }
      session := l.session.map fun ses => { ses with meter := { ses.meter with inactCount := 0 } } } →
    (l.unit.receiving = false →
      exec (.characterReceived i bits) s = .next s ∧ exec (.framingError i) s = .next s)
    ∧ (l.unit.receiving = true →
      exec (.framingError i) s = .next (s.setLine i { l with tallies := { l.tallies with
        framing := min 65535 (l.tallies.framing + 1) } })
      ∧ (attention ≠ some ch →
        (pacing = true → ch = 0x13 → exec (.characterReceived i bits) s = .next (s.setLine i { base with
          unit := { l.unit with outputStopped := true } }))
        ∧ (pacing = true → ch = 0x11 → exec (.characterReceived i bits) s = .next (s.setLine i { base with
          unit := { l.unit with outputStopped := false } }))
        ∧ ((pacing = false ∨ ch ≠ 0x13 ∧ ch ≠ 0x11) → l.state = .draining ∨ l.state = .rejecting →
          exec (.characterReceived i bits) s = .next (s.setLine i base))
        ∧ ((pacing = false ∨ ch ≠ 0x13 ∧ ch ≠ 0x11) → l.state ≠ .draining → l.state ≠ .rejecting →
          (16 ≤ l.unit.fifo.length → exec (.characterReceived i bits) s = .next (s.setLine i { base with
            tallies := { base.tallies with overruns := min 65535 (l.tallies.overruns + 1) } }))
          ∧ (l.unit.fifo.length < 16 →
            (inPacing = true ∧ l.unit.inputHeld = false ∧ 8 ≤ l.unit.fifo.length + 1 →
              exec (.characterReceived i bits) s = .next (s.setLine i { base with
                unit := { l.unit with fifo := l.unit.fifo ++ [ch], inputHeld := true }
                out := { l.out with control := some 0x13 } }))
            ∧ (¬ (inPacing = true ∧ l.unit.inputHeld = false ∧ 8 ≤ l.unit.fifo.length + 1) →
              exec (.characterReceived i bits) s = .next (s.setLine i { base with
                unit := { l.unit with fifo := l.unit.fifo ++ [ch] } }))))))

/-- Attention on a session (R35, R38, R40, R49, R51, R54), by BREAK or by the attention character, whose wrong parity is
tallied: the input and the queued output are discarded and counted, ATTENTION is set or accumulates, held input is
released, an armed queue reports OUTPUT READY. BREAK in DIALOG takes an AUTO line back to DETECTING with the dialog timer
held (R39, R62; the level of the empty current interval: log 16) and does nothing on a FIXED one. -/
def Obligations.AttentionDiscardsInputAndOutput : Prop :=
  ∀ (s : State) (i : LineId) (l : Line), s.mode = .running → l = s.line i → l.unit.receiving = true →
    (l.state.metered = true → ∀ (ses : Session) (c : Instr) (tag : BitVec 16) (lost : Nat) (wrong : Bool),
      l.session = some ses →
      (c = .breakReceived i ∧ wrong = false
        ∨ ∃ bits ch, c = .characterReceived i bits ∧ ses.copies.attention = some ch ∧ ch = charOf l.unit.format bits
          ∧ wrong = parityWrong l.unit.format bits) →
      tag = BitVec.ofNat 16 (i.val * 256 + l.generation.toNat) → lost = l.inputHeldBytes ses →
      exec c s = .next (s.setLine i { l with
        unit := { l.unit with fifo := [], inputHeld := false }
        session := some { ses with
          meter := { ses.meter with inactCount := 0 }, filling := [], closed := none, held := none, fwdTimer := none }
        tallies := { l.tallies with
          inputLost := min 65535 (l.tallies.inputLost + lost)
          parity := if wrong then min 65535 (l.tallies.parity + 1) else l.tallies.parity }
        out := { l.out with
          queue := [], armed := false, control := if l.unit.inputHeld = true then some 0x11 else l.out.control }
        reports := { l.reports with
          attention := some (match l.reports.attention with
            | some f => ⟨tag, min 255 (f.count + 1), min 65535 (f.inputLost + lost),
                min 65535 (f.outputLost + l.out.queue.length)⟩
            | none => ⟨tag, 1, min 65535 lost, min 65535 l.out.queue.length⟩)
          outReady := if l.out.armed = true then some ⟨tag, 0⟩ else l.reports.outReady } }))
    ∧ (l.state = .dialog → l.config.mode = .fixed → exec (.breakReceived i) s = .next s)
    ∧ (l.state = .dialog → l.config.mode = .auto → ∀ n, l.dialog.timer = .running n →
      exec (.breakReceived i) s = .next (s.setLine i { l with
        state := .detecting, carrierWait := none
        detector := ⟨.arming, [], 0, .mark, 0, 0, .none, some (l.config.detTime * 100)⟩
        unit := { l.unit with receiving := false, speed := none, fifo := [], spaceTimer := none, inputHeld := false
                              outputStopped := false }
        out := ⟨[], false, [], [], none, none, l.out.tx⟩
        dialog := { l.dialog with timer := .held n, promptDue := none, nameEcho := [] } }))

/-- INPUT STORE and FORWARDING TIMER EXPIRY (R38, R42, R43, R44, R45, R52). The head of the FIFO joins an OPEN filling
buffer, is echoed whole or the echo is tallied as lost, restarts the forwarding timer, and completes the buffer with
FWD_CHAR before FULL; the expired timer, with its scan (MODEL'S CHOICE, log 8), completes it with TIMER, and stopped
or on an empty buffer does nothing (MODEL'S CHOICE, log 3). A complete buffer moves to an empty held slot, or is
CLOSED while the slot is taken. -/
def Obligations.InputStoreFillsTheBuffer : Prop :=
  ∀ (s : State) (i : LineId) (l : Line) (ses : Session) (complete : Cause → Session → Session), s.mode = .running →
    l = s.line i → l.session = some ses → l.state.metered = true → ses.closed = none →
    complete = (fun cause ses => match ses.held with
      | none => { ses with held := some ⟨ses.filling, cause⟩, filling := [], closed := none, fwdTimer := none }
      | some _ => { ses with closed := some cause, fwdTimer := none }) →
    (∀ (ch : Byte) (rest echo : List Byte) (fits : Bool) (stored : Session), l.unit.fifo = ch :: rest →
      echo = (if ses.copies.echo = false then [] else if ch = 0x0D then [0x0D, 0x0A] else [ch]) →
      fits = decide (l.out.queue.length + echo.length ≤ 512) →
      stored = { ses with
        filling := ses.filling ++ [ch]
        fwdTimer := if ses.copies.fwdTimer = 0 then none else some (ses.copies.fwdTimer * 10) } →
      l.out.queue.length ≤ 512 →
      exec (.inputStore i) s = .next (s.setLine i { l with
        unit := { l.unit with fifo := rest, inputHeld := l.unit.inputHeld && !rest.isEmpty }
        out := { l.out with
          queue := if fits then l.out.queue ++ echo else l.out.queue
          control := if l.unit.inputHeld = true ∧ rest = [] then some 0x11 else l.out.control }
        tallies := { l.tallies with
          echoLost := if fits then l.tallies.echoLost else min 65535 (l.tallies.echoLost + echo.length) }
        session := some (if ch ∈ ses.copies.fwdChars then complete .fwdChar stored
          else if 256 ≤ ses.filling.length + 1 then complete .full stored else stored) }))
    ∧ (ses.fwdTimer ≠ none → ses.filling ≠ [] →
      exec (.forwardingTimerExpiry i) s
        = .next (s.scanned.setLine i { l.driven with session := some (complete .timer ses) }))
    ∧ (ses.fwdTimer = none ∨ ses.filling = [] → exec (.forwardingTimerExpiry i) s = .next s)

/-- TRANSMIT CHARACTER on a line with a speed (R54, R55, R56, R58, R61): the character in progress has ended and the next
is taken from the control slot, which output stopped does not hold up, then the notice begun, the notice waiting and the
queue; an armed queue at 128 bytes or fewer reports OUTPUT READY; with nothing to take the transmitter is idle. A line in
REJECTING or DRAINING with nothing left to send hangs up. -/
def Obligations.TransmitterTakesTheNextCharacter : Prop :=
  ∀ (s : State) (i : LineId) (l : Line) (o : Output) (after : Output → State), s.mode = .running → l = s.line i →
    o = l.out → after = (fun o => s.setLine i { l with out := o }) → l.unit.speed ≠ none →
    (l.state = .rejecting ∨ l.state = .draining → o.noticeCur = [] → o.noticeWait = [] → o.control = none →
      (l.state = .draining → o.queue = []) →
      exec (.transmitCharacter i) s = .next (s.setLine i (Line.onHook { l with out := { o with tx := none } })))
    ∧ (l.state ≠ .rejecting → l.state ≠ .draining →
      (∀ ch, o.control = some ch → exec (.transmitCharacter i) s
        = .next (after { o with control := none, tx := some (txBits l.unit.format ch) }))
      ∧ (o.control = none → l.unit.outputStopped = true →
        exec (.transmitCharacter i) s = .next (after { o with tx := none }))
      ∧ (o.control = none → l.unit.outputStopped = false → l.dialog.promptDue = none →
        (∀ ch rest, o.noticeCur = ch :: rest → exec (.transmitCharacter i) s
          = .next (after { o with noticeCur := rest, tx := some (txBits l.unit.format ch) }))
        ∧ (o.noticeCur = [] →
          (∀ ch rest, o.noticeWait = ch :: rest → exec (.transmitCharacter i) s
            = .next (after { o with
                noticeCur := rest, noticeWait := [], waitPrompt := none, tx := some (txBits l.unit.format ch) }))
          ∧ (o.noticeWait = [] →
            (∀ ch rest, o.queue = ch :: rest → (o.armed = false ∨ 128 < rest.length) →
              exec (.transmitCharacter i) s
                = .next (after { o with queue := rest, tx := some (txBits l.unit.format ch) }))
            ∧ (∀ ch rest, o.queue = ch :: rest → o.armed = true → rest.length ≤ 128 →
              exec (.transmitCharacter i) s = .next (s.setLine i { l with
                out := { o with queue := rest, armed := false, tx := some (txBits l.unit.format ch) }
                reports := { l.reports with
                  outReady := some ⟨BitVec.ofNat 16 (i.val * 256 + l.generation.toNat), rest.length⟩ } }))
            ∧ (o.queue = [] → exec (.transmitCharacter i) s = .next (after { o with tx := none }))))))
    ∧ ∀ ch : Byte, txBits .f8N1 ch = ch ∧ txBits .f7E1 ch &&& 0x7F = ch &&& 0x7F ∧ txBits .f7O1 ch &&& 0x7F = ch &&& 0x7F
      ∧ ((List.range 8).filter fun k => (txBits .f7E1 ch).getLsbD k).length % 2 = 0
      ∧ ((List.range 8).filter fun k => (txBits .f7O1 ch).getLsbD k).length % 2 = 1

/-- The due prompt (R52, R62, R63) is placed as the transmitter empties the notice slot, and after the user prompt the
kept name is echoed, one character at a time as it stood at the re-entry (MODEL'S CHOICE, log 23), here with room for it.
Prompt due is cleared as the prompt's first character is taken, or at the placing where the prompt has no characters. A
notice that replaced the prompt, or stood before it, leaves it due. -/
def Obligations.DuePromptIsPlacedInTheEmptySlot : Prop :=
  ∀ (s : State) (i : LineId) (l : Line) (o : Output) (p : Prompt) (text : List Byte) (ch : Byte) (rest : List Byte)
    (after : Output → Line), s.mode = .running → l = s.line i → o = l.out → l.unit.speed ≠ none →
    l.state = .dialog → o.control = none → l.unit.outputStopped = false → l.dialog.promptDue = some p →
    text = s.textFor (if p = .user then 1 else 2) none none → o.queue.length + l.dialog.nameEcho.length ≤ 512 →
    after = (fun o => { l with out := { o with tx := some (txBits l.unit.format ch) } }) →
    (o.noticeCur = ch :: rest →
      (rest = [] → o.noticeWait = [] → exec (.transmitCharacter i) s
        = .next (s.setLine i ((after { o with noticeCur := [] }).prompted p text)))
      ∧ (rest ≠ [] ∨ o.noticeWait ≠ [] → exec (.transmitCharacter i) s
        = .next (s.setLine i (after { o with noticeCur := rest }))))
    ∧ (o.noticeCur = [] → o.noticeWait = ch :: rest →
      (o.waitPrompt = some p → exec (.transmitCharacter i) s
        = .next (s.setLine i { after { o with noticeCur := rest, noticeWait := [], waitPrompt := none } with
            dialog := { l.dialog with promptDue := none } }))
      ∧ (o.waitPrompt ≠ some p → rest ≠ [] → exec (.transmitCharacter i) s
        = .next (s.setLine i (after { o with noticeCur := rest, noticeWait := [], waitPrompt := none })))
      ∧ (o.waitPrompt ≠ some p → rest = [] → exec (.transmitCharacter i) s = .next (s.setLine i
          ((after { o with noticeCur := [], noticeWait := [], waitPrompt := none }).prompted p text))))

/-! ### The dialog -/

/-- NAME CHARACTER, PASSWORD CHARACTER but for CR, and DIALOG TIMER EXPIRY (R52, R63 to R66). Name characters are
folded to upper case, held up to 8 and echoed; BS and DEL erase one; CR after a name asks for the password and CR on
an empty name asks for the name again, the prompt placed at once in an empty slot; other characters are dropped. A
notice that waits at a CR is left as it is, even where it is the old phase's prompt, which R63 lets the new placement
replace (MODEL'S CHOICE, log 22). Password characters are held up to 12 and never echoed. The dialog timer's expiry,
with its scan (MODEL'S CHOICE, log 8), refuses the line with text 11 and DIALOG_TIMEOUT. -/
def Obligations.DialogTakesNameAndPassword : Prop :=
  ∀ (s : State) (i : LineId) (l : Line) (d : Dialog) (ch up : Byte) (rest : List Byte)
    (after : Dialog → List Byte → Line), s.mode = .running → l = s.line i → d = l.dialog →
    l.state = .dialog →
    after = (fun d echo => Line.echoed echo { l with unit := { l.unit with fifo := rest }, dialog := d }) →
    up = (if 0x61 ≤ ch.toNat ∧ ch.toNat ≤ 0x7A then ch - 0x20 else ch) →
    (l.unit.fifo = ch :: rest →
      (d.phase = .name →
        (isNameChar up = true → d.name.length < 8 →
          exec (.nameCharacter i) s = .next (s.setLine i (after { d with name := d.name ++ [up] } [up])))
        ∧ (isNameChar up = true → 8 ≤ d.name.length →
          exec (.nameCharacter i) s = .next (s.setLine i { l with unit := { l.unit with fifo := rest } }))
        ∧ (ch = 0x08 ∨ ch = 0x7F →
          (d.name ≠ [] → exec (.nameCharacter i) s
            = .next (s.setLine i (after { d with name := d.name.dropLast } [0x08, 0x20, 0x08])))
          ∧ (d.name = [] →
            exec (.nameCharacter i) s = .next (s.setLine i { l with unit := { l.unit with fifo := rest } })))
        ∧ (ch = 0x0D → ∀ (p : Prompt) (asked : Line),
          (d.name ≠ [] ∧ p = .password ∧ asked = after
              { d with phase := .password, password := [], promptDue := some .password, nameEcho := [] } [0x0D, 0x0A]
            ∨ d.name = [] ∧ p = .user ∧ asked = after { d with promptDue := some .user } [0x0D, 0x0A]) →
          (l.out.noticeCur ≠ [] ∨ l.out.noticeWait ≠ [] → exec (.nameCharacter i) s = .next (s.setLine i asked))
          ∧ (l.out.noticeCur = [] → l.out.noticeWait = [] →
            l.out.queue.length + 2 + d.nameEcho.length ≤ 512 → exec (.nameCharacter i) s
              = .next (s.setLine i (asked.prompted p (s.textFor (if p = .user then 1 else 2) none none)))))
        ∧ (isNameChar up = false → ch ≠ 0x08 → ch ≠ 0x7F → ch ≠ 0x0D →
          exec (.nameCharacter i) s = .next (s.setLine i { l with unit := { l.unit with fifo := rest } })))
      ∧ (d.phase = .password → ∀ taken : Dialog → State,
        taken = (fun d => s.setLine i { l with unit := { l.unit with fifo := rest }, dialog := d }) →
        (0x20 ≤ ch.toNat → ch.toNat ≤ 0x7E → d.password.length < 12 →
          exec (.passwordCharacter i) s = .next (taken { d with password := d.password ++ [ch] }))
        ∧ (0x20 ≤ ch.toNat → ch.toNat ≤ 0x7E → 12 ≤ d.password.length →
          exec (.passwordCharacter i) s = .next (taken d))
        ∧ (ch = 0x08 ∨ ch = 0x7F →
          exec (.passwordCharacter i) s = .next (taken { d with password := d.password.dropLast }))
        ∧ ((ch.toNat < 0x20 ∨ 0x7F < ch.toNat) → ch ≠ 0x08 → ch ≠ 0x0D →
          exec (.passwordCharacter i) s = .next (taken d))))
    ∧ (∀ n, d.timer = .running n → l.unit.speed ≠ none → s.textFor 11 none none ≠ [] →
      ∃ new, exec (.dialogTimerExpiry i) s = .next (s.scanned.setLine i new)
        ∧ l.driven.Refused (s.textFor 11 none none) new
        ∧ new.reports = (l.withEvent .dialogTimeout 0).reports ∧ new.unit = l.unit ∧ new.tallies = l.tallies)

/-- A sign-on accepted (R67, R68, R71, R72, R109, R110, R119, R126, R147), where the setup charge makes no transition.
The check is made at a CR in the PASSWORD phase, or again as the END that a waiting sign-on awaits is sent: the check
value right, the account OPEN and not EXHAUSTED with a place free, the service OPEN, room in the charge store and no
END pending. The generation rises; the account takes the place, pays the setup charge and loses its failures; the
session opens with its meter record, copies and checkpoint entry; the line is ACTIVE and SIGNON is set. Other lines are
left alone. -/
def Obligations.AcceptedSignOnOpensTheSession : Prop :=
  ∀ (before s : State) (i : LineId) (c : Instr) (l : Line) (rest : List Byte) (a : Account) (tariff : Tariff)
    (k : SpeedCode) (setup : Nat) (budget : Int) (gen : BitVec 8) (meter : Meter),
    before.Checks i c s rest → l = s.line i →
    s.account? l.dialog.name = some a → a.check = checkValue l.dialog.name l.dialog.password → a.state = .opened →
    s.service = .opened → s.store.sum < 2048 → a.bstate ≠ .exhausted → a.active < a.limit → l.reports.ended = none →
    s.tariff = some tariff → l.unit.speed = some k → setup = tariff.setup.get a.cls →
    budget = clampBudget (a.budget - setup) → s.stateOfBudget budget a.overdraft a.cls = a.bstate →
    gen = l.generation + 1 →
    meter = { account := l.dialog.name, cls := a.cls
              tier := if k.val ≤ 2 then .low else if k.val ≤ 5 then .medium else .high
              startDay := s.clock.day, startSecond := s.clock.second, seconds := 0, units := setup, residue := 0
              grace := none, inactLimit := l.config.inactivity * 60, inactCount := 0, clockSet := false
              saturated := false, graceFlag := false } →
    ∃ t, exec c before = .next t
      ∧ t.account? l.dialog.name = some { a with budget := budget, active := a.active + 1, failures := 0 }
      ∧ (∀ m, m ≠ l.dialog.name → t.account? m = s.account? m)
      ∧ (∀ j, t.store.checkpoints.get j = if j = i then
            some ⟨l.dialog.name, a.cls, i, k, s.clock.day, s.clock.second, s.clock.day, s.clock.second, 0, setup, false,
              false, false⟩
          else s.store.checkpoints.get j)
      ∧ { t with accounts := s.accounts, store := s.store, lines := s.lines } = s
      ∧ { t.store with checkpoints := s.store.checkpoints } = s.store
      ∧ (∀ j, j ≠ i → t.line j = s.line j)
      ∧ (t.line i).state = .active ∧ (t.line i).generation = gen ∧ (t.line i).unit = { l.unit with fifo := rest }
      ∧ (t.line i).session = some ⟨meter, ⟨l.config.echo, l.config.fwdChars, l.config.fwdTimer, l.config.attention,
          l.config.outPacing, l.config.inPacing⟩, [], none, none, none⟩
      ∧ (t.line i).reports = { l.reports with signon := some ⟨BitVec.ofNat 16 (i.val * 256 + gen.toNat), l.dialog.name,
          a.cls, k, s.clock.day, s.clock.second, []⟩ }
      ∧ (t.line i).dialog.timer = .stopped ∧ (t.line i).dialog.name = [] ∧ (t.line i).dialog.password = []
      ∧ (t.line i).config = l.config ∧ (t.line i).dtr = l.dtr

/-- A sign-on not accepted (R68, R69, R70, R71), the check made at a CR in the PASSWORD phase, or again as the END that
a waiting sign-on awaits is sent. No such account, a wrong check value or an account not OPEN is an invalid attempt
with text 3: below the attempt limit the line goes back to NAME with the prompt due and the timer running, at the limit
it is refused with lockout due; an OPEN account counts a failure and may lock. Then the first that holds refuses the
line with its text and its REFUSED reason and clears the failures: service not OPEN, charge store full, account
EXHAUSTED, no place. Else with END pending at a CR the line waits, its dialog timer held. -/
def Obligations.SignOnFailsOrWaits : Prop :=
  ∀ (before s : State) (i : LineId) (c : Instr) (l : Line) (rest : List Byte) (matched : Option Account),
    before.Checks i c s rest → l = s.line i → l.unit.speed ≠ none → matched = s.account? l.dialog.name →
    ((matched = none ∨ ∃ a, matched = some a
        ∧ (a.check ≠ checkValue l.dialog.name l.dialog.password ∨ a.state ≠ .opened)) → s.textFor 3 none none ≠ [] →
      ∃ t, exec c before = .next t
        ∧ { t with accounts := s.accounts, lines := s.lines } = s
        ∧ (∀ j, j ≠ i → t.line j = s.line j)
        ∧ (∀ m, m ≠ l.dialog.name → t.account? m = s.account? m)
        ∧ t.account? l.dialog.name = matched.map (fun a => if a.state = .opened then
            { a with
              failures := min 15 (a.failures + 1)
              state := if a.failLimit ≠ 0 ∧ a.failLimit ≤ min 15 (a.failures + 1) then .locked else .opened }
          else a)
        ∧ (l.dialog.attempts + 1 < l.dialog.attemptLimit → (t.line i).state = .dialog
          ∧ (t.line i).dialog.phase = .name ∧ (t.line i).dialog.name = [] ∧ (t.line i).dialog.password = []
          ∧ (∀ n, l.dialog.timer = .running n ∨ l.dialog.timer = .held n → (t.line i).dialog.timer = .running n)
          ∧ (t.line i).unit = { l.unit with fifo := rest }
          ∧ (t.line i).dialog.attempts = l.dialog.attempts + 1 ∧ (t.line i).dialog.promptDue = some .user
          ∧ (t.line i).out.noticeWait = s.textFor 3 none none ∧ (t.line i).reports = l.reports)
        ∧ (l.dialog.attemptLimit ≤ l.dialog.attempts + 1 → l.Refused (s.textFor 3 none none) (t.line i)
          ∧ (t.line i).lockoutDue = true ∧ (t.line i).reports = l.reports))
    ∧ (∀ a, matched = some a → a.check = checkValue l.dialog.name l.dialog.password → a.state = .opened →
      (∀ (text : Fin 16) (code : Byte),
        (s.service ≠ .opened ∧ text = 6 ∧ code = 1
          ∨ s.service = .opened ∧ 2048 ≤ s.store.sum ∧ text = 12 ∧ code = 2
          ∨ s.service = .opened ∧ s.store.sum < 2048 ∧ a.bstate = .exhausted ∧ text = 4 ∧ code = 3
          ∨ s.service = .opened ∧ s.store.sum < 2048 ∧ a.bstate ≠ .exhausted ∧ a.limit ≤ a.active ∧ text = 5
            ∧ code = 4) →
        s.textFor text (some a.budget) none ≠ [] →
        ∃ t, exec c before = .next t
          ∧ { t with accounts := s.accounts, lines := s.lines } = s
          ∧ (∀ j, j ≠ i → t.line j = s.line j)
          ∧ t.account? l.dialog.name = some { a with failures := 0 }
          ∧ (∀ m, m ≠ l.dialog.name → t.account? m = s.account? m)
          ∧ l.Refused (s.textFor text (some a.budget) none) (t.line i)
          ∧ (t.line i).reports = (l.withEvent .refused code).reports)
      ∧ (s.service = .opened → s.store.sum < 2048 → a.bstate ≠ .exhausted → a.active < a.limit →
        l.reports.ended ≠ none →
        ∃ t, exec c before = .next t ∧ { t with lines := s.lines } = s
          ∧ (∀ j, j ≠ i → t.line j = s.line j)
          ∧ (t.line i).state = .dialog ∧ (t.line i).reports = l.reports
          ∧ (t.line i).dialog.phase = .waiting ∧ (t.line i).dialog.promptDue = none
          ∧ (∀ n, l.dialog.timer = .running n → (t.line i).dialog.timer = .held n)))

/-- The check value (R67): over the name padded to 8 with spaces, a zero byte and the password, it starts at 1 and each
byte makes it 37 times itself plus the byte, modulo 2 to the 32nd; written out, byte j from the end weighs 37 to the
j-th power. -/
def Obligations.CheckValueWeighsByPowersOf37 : Prop :=
  ∀ (name password : List Byte), name.length ≤ 8 → ∀ bytes : List Byte,
    bytes = name ++ List.replicate (8 - name.length) 0x20 ++ [0] ++ password →
    (checkValue name password).toNat
      = (37 ^ bytes.length + (bytes.reverse.zipIdx.map fun p => p.1.toNat * 37 ^ p.2).sum) % 2 ^ 32

/-! ### Metering -/

/-- The addend of a tick (R100, R103, R112): the clock's day is a HOLIDAY where it is 5 or 6 modulo 7; of that day
type's schedule the last entry whose start is at or below the minute of day gives the band; the addend is the band's
rate for the session's class times the weight of its tier. -/
def Obligations.AddendIsRateTimesWeight : Prop :=
  ∀ (s : State) (meter : Meter) (t : Tariff) (before after : List SchedEntry) (e : SchedEntry) (rates : Vector Nat 4),
    s.tariff = some t →
    (if s.clock.day.toNat % 7 = 5 ∨ s.clock.day.toNat % 7 = 6 then t.holiday else t.weekday) = before ++ e :: after →
    e.start ≤ s.clock.second / 60 → (∀ x ∈ after, s.clock.second / 60 < x.start) → t.bands[e.band]? = some rates →
    t.band s.clock = e.band
    ∧ s.addend meter = rates.get meter.cls
      * (match meter.tier with | .low => t.weightLow | .medium => t.weightMedium | .high => t.weightHigh)

/-- METERING TICK where it ends no session and makes no transition (R96, R97, R111 to R118): the clock advances, by 2
or by 0 at every tenth tick of a slew; every session gains a second, its addend over 28,800 in units and residue, a
grace second less in GRACE, an inactivity second more; every account with sessions pays their carries together; at a
full minute of a session its checkpoint entry is refreshed; its scan writes DTR (MODEL'S CHOICE, log 8); nothing else
changes. -/
def Obligations.MeteringTickChargesEverySession : Prop :=
  ∀ (s : State) (clock : Clock) (step : Nat) (charged : Session → Session) (carry : LineId → Nat),
    s.mode = .running → s.AllLines Line.SessionRight →
    step = (if s.clock.offset = 0 ∨ s.clock.slew + 1 < 10 then 1 else if 0 < s.clock.offset then 2 else 0) →
    clock = (if s.clock.isSet = false then s.clock else
      { day := if 86400 ≤ s.clock.second + step then s.clock.day + 1 else s.clock.day
        second := if 86400 ≤ s.clock.second + step then s.clock.second + step - 86400 else s.clock.second + step
        isSet := true
        offset := if step = 2 then s.clock.offset - 1 else if step = 0 then s.clock.offset + 1 else s.clock.offset
        slew := if s.clock.offset = 0 ∨ step ≠ 1 then 0 else s.clock.slew + 1 }) →
    charged = (fun ses => { ses with meter := { ses.meter with
      seconds := min 4294967295 (ses.meter.seconds + 1)
      units := min 4294967295 (ses.meter.units
        + (ses.meter.residue + State.addend { s with clock := clock } ses.meter) / 28800)
      residue := (ses.meter.residue + State.addend { s with clock := clock } ses.meter) % 28800
      saturated := ses.meter.saturated || decide (4294967295 < ses.meter.units
        + (ses.meter.residue + State.addend { s with clock := clock } ses.meter) / 28800) } }) →
    carry = (fun i => ((s.line i).session.map fun ses =>
      (ses.meter.residue + State.addend { s with clock := clock } ses.meter) / 28800).getD 0) →
    (∀ n a, s.account? n = some a → s.sessionsOf n ≠ [] → s.stateOfBudget
      (clampBudget (a.budget - ((s.sessionsOf n).map carry).sum)) a.overdraft a.cls = a.bstate) →
    (∀ i ses, (s.line i).session = some ses → ((s.line i).state = .grace → ∀ g, ses.meter.grace = some g → 1 < g)
      ∧ (ses.meter.inactLimit = 0 ∨ ses.meter.inactCount + 1 < ses.meter.inactLimit)) →
    ∃ t, exec .meteringTick s = .next t
      ∧ { t with lines := s.lines, accounts := s.accounts, store := s.store }
        = { s with clock := clock, orders := s.orders.tail }
      ∧ { t.store with checkpoints := s.store.checkpoints } = s.store
      ∧ (∀ n, t.account? n = (s.account? n).map fun a => if s.sessionsOf n = [] then a
          else { a with budget := clampBudget (a.budget - ((s.sessionsOf n).map carry).sum) })
      ∧ ∀ i,
        ((s.line i).session = none → t.line i = (s.line i).driven
          ∧ t.store.checkpoints.get i = s.store.checkpoints.get i)
        ∧ ∀ ses, (s.line i).session = some ses →
          t.line i = { (s.line i).driven with session := some { charged ses with meter := {
            (charged ses).meter with
            grace := if (s.line i).state = .grace then ses.meter.grace.map (· - 1) else ses.meter.grace
            inactCount := if ses.meter.inactLimit = 0 then ses.meter.inactCount else ses.meter.inactCount + 1 } } }
          ∧ t.store.checkpoints.get i = if (charged ses).meter.seconds % 60 ≠ 0 then s.store.checkpoints.get i
            else (s.store.checkpoints.get i).map fun c => { c with
              seconds := (charged ses).meter.seconds, units := (charged ses).meter.units
              clockSet := ses.meter.clockSet, saturated := (charged ses).meter.saturated
              graceFlag := ses.meter.graceFlag, endDay := clock.day, endSecond := clock.second }

/-- METERING TICK whose debit makes a transition of an account (R82, R83, R85, R114, R115, R117, R120), its sessions in
ACTIVE and short of their inactivity limit; what else the tick does to other accounts is free. The account pays the
carries together and sets BUDGET. Into WARNED each session reads text 7. Into EXHAUSTED with a grace time each session
enters GRACE with the full time, not counted down at this tick, and reads text 8. Into EXHAUSTED with grace 0 each
session ends with BUDGET, charged for the tick and closed with its rounding unit, which the account pays, and gives
back its place. -/
def Obligations.TickDebitActsOnEverySession : Prop :=
  ∀ (s : State) (n : Name) (a : Account) (tariff : Tariff) (budget : Int) (st : BudgetState) (ru : LineId → Nat),
    s.mode = .running → s.AllLines Line.SessionRight → s.tariff = some tariff → s.account? n = some a →
    s.sessionsOf n ≠ [] → budget = clampBudget (a.budget - s.tickDebit n) →
    st = s.stateOfBudget budget a.overdraft a.cls → a.bstate ≠ .exhausted → st ≠ a.bstate → st ≠ .normal →
    (∀ i ∈ s.sessionsOf n, ∀ ses, (s.line i).session = some ses → (s.line i).state = .active ∧ (s.line i).GoesOn ses) →
    ru = (fun i => ((s.line i).session.map fun ses =>
      roundingUnitOf tariff.rounding (s.tickMeter ses).residue).getD 0) →
    ∃ t, exec .meteringTick s = .next t ∧ t.clock = s.clock.advance
      ∧ ((st = .warned ∨ tariff.grace ≠ 0) →
        t.account? n = some { a with budget := budget, bstate := st, notice := some (a.flagAfter budget st) }
        ∧ ∀ i ∈ s.sessionsOf n, ∀ ses, (s.line i).session = some ses →
          (t.line i).state = (if st = .warned then .active else .grace)
          ∧ (∃ after, (t.line i).session = some after ∧ after.meter.seconds = (s.tickMeter ses).seconds
            ∧ after.meter.units = (s.tickMeter ses).units ∧ after.meter.residue = (s.tickMeter ses).residue
            ∧ after.meter.grace = (if st = .warned then ses.meter.grace else some tariff.grace)
            ∧ after.meter.graceFlag = (ses.meter.graceFlag || decide (st = .exhausted)))
          ∧ ((s.line i).unit.speed ≠ none → (t.line i).out = { (s.line i).out with
              noticeWait := s.textFor (if st = .warned then 7 else 8) (some budget) (some (s.tickMeter ses).units)
              waitPrompt := none }))
      ∧ (st = .exhausted → tariff.grace = 0 →
        t.account? n = some { a with
          budget := clampBudget (budget - (((s.sessionsOf n).map ru).sum : Nat)), bstate := .exhausted
          notice := some (a.flagAfter budget .exhausted), active := a.active - (s.sessionsOf n).length }
        ∧ ∀ i ∈ s.sessionsOf n, ∀ ses, (s.line i).session = some ses →
          (t.line i).session = none ∧ ((t.line i).state = .draining ∨ (t.line i).state = .hangup)
          ∧ t.store.checkpoints.get i = none
          ∧ ∃ e, (t.line i).reports.ended = some e ∧ e.reason = .budget
            ∧ e.tag = BitVec.ofNat 16 (i.val * 256 + (s.line i).generation.toNat)
            ∧ e.units = min 4294967295 ((s.tickMeter ses).units + ru i) ∧ e.seconds = (s.tickMeter ses).seconds
            ∧ ∃ r ∈ t.store.records, r.serial = e.serial ∧ r.reason = .budget ∧ r.recovered = false
              ∧ r.charge = State.closed { s with clock := s.clock.advance } i (s.tickMeter ses) (ru i))

/-- A closing debit and a setup debit that make a transition (R72, R82, R83, R85, R119, R120). END SESSION: the ending
session gets its end text, and the transition acts on the account's other sessions alone, which with grace 0 end
BUDGET where the account is exhausted. A sign-on accepted: the transition acts on the account's sessions when the
acceptance is complete, the new one among them; with grace 0 all of them end BUDGET, the new one's SIGNON still
pending and holding back the END of each (MODEL'S CHOICE where R72 and R162 differ, log 41). Either sets BUDGET; lines
of other accounts are left alone. -/
def Obligations.ClosingAndSetupDebitsActOnSessions : Prop :=
  (∀ (s : State) (label opt : Byte) (tag : Nat) (rest : List Byte) (i : LineId) (l : Line) (ses : Session)
      (n : Name) (a : Account) (tariff : Tariff) (ru : Nat) (budget : Int) (st : BudgetState), tag < 65536 →
    s.Asked 0x22 label (be16 tag ++ [opt] ++ rest) → opt.toNat ≤ 1 → i.val = tag / 256 → l = s.line i →
    l.session = some ses → l.generation.toNat = tag % 256 → n = ses.meter.account → s.tariff = some tariff →
    s.AllLines Line.SessionRight → s.account? n = some a →
    ru = roundingUnitOf tariff.rounding ses.meter.residue →
    budget = clampBudget (a.budget - ru) → st = s.stateOfBudget budget a.overdraft a.cls → st ≠ a.bstate →
    ∃ t, exec .endSession s = .next t ∧ (t.line i).session = none
      ∧ ((t.line i).state = .draining ∨ (t.line i).state = .hangup)
      ∧ (l.unit.speed ≠ none → s.textFor 10 (some budget) (some (s.closed i ses.meter ru).units) ≠ [] →
        (t.line i).out.noticeWait = s.textFor 10 (some budget) (some (s.closed i ses.meter ru).units))
      ∧ (∀ j, j ∉ s.sessionsOf n → t.line j = s.line j)
      ∧ (∀ m, m ≠ n → t.account? m = s.account? m)
      ∧ ((st = .exhausted → tariff.grace ≠ 0) →
        t.account? n = some { a with
          budget := budget, bstate := st, notice := some (a.flagAfter budget st), active := a.active - 1 }
        ∧ ∀ j ∈ s.sessionsOf n, j ≠ i → t.line j = s.lineAfter a.bstate st budget (s.line j))
      ∧ (st = .exhausted → tariff.grace = 0 → ∀ j ∈ s.sessionsOf n, j ≠ i → (t.line j).session = none
        ∧ ((t.line j).state = .draining ∨ (t.line j).state = .hangup)
        ∧ ∃ e, (t.line j).reports.ended = some e ∧ e.reason = .budget))
  ∧ ∀ (before s : State) (i : LineId) (c : Instr) (l : Line) (rest : List Byte) (n : Name) (a : Account)
      (tariff : Tariff) (setup : Nat) (budget : Int) (st : BudgetState),
    before.Checks i c s rest → l = s.line i → n = l.dialog.name →
    s.AllLines Line.SessionRight →
    s.account? n = some a → a.check = checkValue n l.dialog.password → a.state = .opened →
    s.service = .opened → s.store.sum < 2048 → a.bstate ≠ .exhausted → a.active < a.limit → l.reports.ended = none →
    s.tariff = some tariff → l.unit.speed ≠ none → setup = tariff.setup.get a.cls →
    budget = clampBudget (a.budget - setup) → st = s.stateOfBudget budget a.overdraft a.cls → st ≠ a.bstate →
    ((st = .exhausted → tariff.grace ≠ 0) → ∃ t, exec c before = .next t
      ∧ t.account? n = some { a with
          budget := budget, bstate := st, notice := some (a.flagAfter budget st), active := a.active + 1, failures := 0 }
      ∧ (∀ m, m ≠ n → t.account? m = s.account? m)
      ∧ (∀ j, j ≠ i → t.line j
        = if j ∈ s.sessionsOf n then s.lineAfter a.bstate st budget (s.line j) else s.line j)
      ∧ (t.line i).state = (if st = .exhausted then .grace else .active)
      ∧ (∃ ses, (t.line i).session = some ses ∧ ses.meter.account = n ∧ ses.meter.units = setup
        ∧ ses.meter.grace = (if st = .exhausted then some tariff.grace else none)
        ∧ ses.meter.graceFlag = decide (st = .exhausted))
      ∧ (st ≠ .normal → (t.line i).out.noticeWait
        = s.textFor (if st = .exhausted then 8 else 7) (some budget) (some setup)))
    ∧ (st = .exhausted → tariff.grace = 0 → ∃ t f, exec c before = .next t
      ∧ (∃ b, t.account? n = some b ∧ b.bstate = .exhausted ∧ b.notice = some (a.flagAfter budget st))
      ∧ (∀ m, m ≠ n → t.account? m = s.account? m)
      ∧ (t.line i).reports.signon = some f ∧ f.tag = BitVec.ofNat 16 (i.val * 256 + (l.generation + 1).toNat)
      ∧ f.account = n ∧ (t.line i).reports.ended.map EndFlag.tag = some f.tag
      ∧ (∀ j, j = i ∨ j ∈ s.sessionsOf n → (t.line j).session = none
        ∧ ((t.line j).state = .draining ∨ (t.line j).state = .hangup) ∧ t.EndHeldBack j
        ∧ ∃ e, (t.line j).reports.ended = some e ∧ e.reason = .budget)
      ∧ ∀ j, j ≠ i → j ∉ s.sessionsOf n → t.line j = s.line j)

/-- GRACE EXPIRY and INACTIVITY (R114, R117, R118, R120, R121, R123, R131), as the metering tick at which the grace
timer reaches 0 or the count reaches its limit (MODEL'S CHOICE, log 14), where it ends this session alone and no debit
makes a transition: the session is charged for the tick and then ends, with BUDGET or with INACTIVITY, its record, END
and account settled; every other session goes on charged, and every account with sessions pays its carries. The tick's
scan writes DTR (MODEL'S CHOICE, log 8). At any other time neither does anything (log 14). -/
def Obligations.GraceAndInactivityEndTheSession : Prop :=
  ∀ (s : State) (i : LineId) (l : Line) (ses : Session), s.mode = .running → l = s.line i → l.session = some ses →
    l.state.metered = true →
    ((l.state ≠ .grace ∨ ses.meter.grace ≠ some 1) → exec (.graceExpiry i) s = .next s)
    ∧ ((ses.meter.inactLimit = 0 ∨ ses.meter.inactCount + 1 < ses.meter.inactLimit) →
      exec (.inactivity i) s = .next s)
    ∧ ∀ (c : Instr) (reason : EndReason) (n : Name) (a : Account) (tariff : Tariff) (ru : Nat) (paid : Int)
        (charge : Charge),
      (c = .graceExpiry i ∧ reason = .budget ∧ l.state = .grace ∧ ses.meter.grace = some 1
        ∨ c = .inactivity i ∧ reason = .inactivity ∧ (l.state = .active ∨ ∃ g, ses.meter.grace = some g ∧ 1 < g)
          ∧ ses.meter.inactLimit ≠ 0 ∧ ses.meter.inactLimit ≤ ses.meter.inactCount + 1) →
      s.AllLines Line.SessionRight → n = ses.meter.account → s.tariff = some tariff → s.account? n = some a →
      (∀ j other, j ≠ i → (s.line j).session = some other → (s.line j).GoesOn other) →
      (∀ m b, s.account? m = some b → s.sessionsOf m ≠ [] →
        s.stateOfBudget (clampBudget (b.budget - s.tickDebit m)) b.overdraft b.cls = b.bstate) →
      ru = roundingUnitOf tariff.rounding (s.tickMeter ses).residue →
      paid = clampBudget (clampBudget (a.budget - s.tickDebit n) - ru) →
      s.stateOfBudget paid a.overdraft a.cls = a.bstate →
      charge = State.closed { s with clock := s.clock.advance } i (s.tickMeter ses) ru →
      ∃ t, exec c s = .next t ∧ exec .meteringTick s = .next t ∧ t.clock = s.clock.advance
        ∧ t.store.records = s.store.records ++ [⟨s.store.nextSerial, charge, reason, false⟩]
        ∧ t.store.checkpoints.get i = none
        ∧ t.account? n = some { a with budget := paid, active := a.active - 1 }
        ∧ (∀ m, m ≠ n → t.account? m = (s.account? m).map fun b => if s.sessionsOf m = [] then b
          else { b with budget := clampBudget (b.budget - s.tickDebit m) })
        ∧ (∀ j, j ≠ i → t.line j = (s.lineAfterTick (s.line j)).driven)
        ∧ ((t.line i).state = .draining ∨ (t.line i).state = .hangup) ∧ (t.line i).session = none
        ∧ (t.line i).reports.ended = some ⟨BitVec.ofNat 16 (i.val * 256 + l.generation.toNat), reason,
            s.store.nextSerial, charge.units, charge.seconds, min 65535 (l.inputHeldBytes ses)⟩
end

