-- ==== Sys2Proof/Laws/State.lean ====
section
/-! SUPPORT. One lemma for each field and each named update of the state, and the reading of a line after a line is
written. -/

namespace Sys2Proof.Machine

@[simp] theorem State.setLine_mode (s : State) (i : LineId) (l : Line) : (s.setLine i l).mode = s.mode := rfl
@[simp] theorem State.setLine_pfw (s : State) (i : LineId) (l : Line) : (s.setLine i l).pfw = s.pfw := rfl
@[simp] theorem State.setLine_strap (s : State) (i : LineId) (l : Line) : (s.setLine i l).strap = s.strap := rfl
@[simp] theorem State.setLine_service (s : State) (i : LineId) (l : Line) : (s.setLine i l).service = s.service := rfl
@[simp] theorem State.setLine_link (s : State) (i : LineId) (l : Line) : (s.setLine i l).link = s.link := rfl
@[simp] theorem State.setLine_clock (s : State) (i : LineId) (l : Line) : (s.setLine i l).clock = s.clock := rfl
@[simp] theorem State.setLine_tariff (s : State) (i : LineId) (l : Line) : (s.setLine i l).tariff = s.tariff := rfl
@[simp] theorem State.setLine_texts (s : State) (i : LineId) (l : Line) : (s.setLine i l).texts = s.texts := rfl
@[simp] theorem State.setLine_accounts (s : State) (i : LineId) (l : Line) : (s.setLine i l).accounts = s.accounts := rfl
@[simp] theorem State.setLine_store (s : State) (i : LineId) (l : Line) : (s.setLine i l).store = s.store := rfl
@[simp] theorem State.setLine_readMark (s : State) (i : LineId) (l : Line) : (s.setLine i l).readMark = s.readMark := rfl
@[simp] theorem State.setLine_chargeArmed (s : State) (i : LineId) (l : Line) : (s.setLine i l).chargeArmed = s.chargeArmed := rfl
@[simp] theorem State.setLine_orders (s : State) (i : LineId) (l : Line) : (s.setLine i l).orders = s.orders := rfl
@[simp] theorem State.setLine_scans (s : State) (i : LineId) (l : Line) : (s.setLine i l).scans = s.scans := rfl
@[simp] theorem State.setLine_pending (s : State) (i : LineId) (l : Line) : (s.setLine i l).pending = s.pending := rfl

@[simp] theorem State.updLine_mode (s : State) (i : LineId) (f : Line → Line) : (s.updLine i f).mode = s.mode := rfl
@[simp] theorem State.updLine_pfw (s : State) (i : LineId) (f : Line → Line) : (s.updLine i f).pfw = s.pfw := rfl
@[simp] theorem State.updLine_strap (s : State) (i : LineId) (f : Line → Line) : (s.updLine i f).strap = s.strap := rfl
@[simp] theorem State.updLine_service (s : State) (i : LineId) (f : Line → Line) : (s.updLine i f).service = s.service := rfl
@[simp] theorem State.updLine_link (s : State) (i : LineId) (f : Line → Line) : (s.updLine i f).link = s.link := rfl
@[simp] theorem State.updLine_clock (s : State) (i : LineId) (f : Line → Line) : (s.updLine i f).clock = s.clock := rfl
@[simp] theorem State.updLine_tariff (s : State) (i : LineId) (f : Line → Line) : (s.updLine i f).tariff = s.tariff := rfl
@[simp] theorem State.updLine_texts (s : State) (i : LineId) (f : Line → Line) : (s.updLine i f).texts = s.texts := rfl
@[simp] theorem State.updLine_accounts (s : State) (i : LineId) (f : Line → Line) : (s.updLine i f).accounts = s.accounts := rfl
@[simp] theorem State.updLine_store (s : State) (i : LineId) (f : Line → Line) : (s.updLine i f).store = s.store := rfl
@[simp] theorem State.updLine_readMark (s : State) (i : LineId) (f : Line → Line) : (s.updLine i f).readMark = s.readMark := rfl
@[simp] theorem State.updLine_chargeArmed (s : State) (i : LineId) (f : Line → Line) : (s.updLine i f).chargeArmed = s.chargeArmed := rfl
@[simp] theorem State.updLine_orders (s : State) (i : LineId) (f : Line → Line) : (s.updLine i f).orders = s.orders := rfl
@[simp] theorem State.updLine_scans (s : State) (i : LineId) (f : Line → Line) : (s.updLine i f).scans = s.scans := rfl
@[simp] theorem State.updLine_pending (s : State) (i : LineId) (f : Line → Line) : (s.updLine i f).pending = s.pending := rfl

@[simp] theorem State.pushReply_mode (s : State) (r : Reply) : (s.pushReply r).mode = s.mode := rfl
@[simp] theorem State.pushReply_pfw (s : State) (r : Reply) : (s.pushReply r).pfw = s.pfw := rfl
@[simp] theorem State.pushReply_strap (s : State) (r : Reply) : (s.pushReply r).strap = s.strap := rfl
@[simp] theorem State.pushReply_service (s : State) (r : Reply) : (s.pushReply r).service = s.service := rfl
@[simp] theorem State.pushReply_clock (s : State) (r : Reply) : (s.pushReply r).clock = s.clock := rfl
@[simp] theorem State.pushReply_tariff (s : State) (r : Reply) : (s.pushReply r).tariff = s.tariff := rfl
@[simp] theorem State.pushReply_texts (s : State) (r : Reply) : (s.pushReply r).texts = s.texts := rfl
@[simp] theorem State.pushReply_accounts (s : State) (r : Reply) : (s.pushReply r).accounts = s.accounts := rfl
@[simp] theorem State.pushReply_lines (s : State) (r : Reply) : (s.pushReply r).lines = s.lines := rfl
@[simp] theorem State.pushReply_store (s : State) (r : Reply) : (s.pushReply r).store = s.store := rfl
@[simp] theorem State.pushReply_readMark (s : State) (r : Reply) : (s.pushReply r).readMark = s.readMark := rfl
@[simp] theorem State.pushReply_chargeArmed (s : State) (r : Reply) : (s.pushReply r).chargeArmed = s.chargeArmed := rfl
@[simp] theorem State.pushReply_orders (s : State) (r : Reply) : (s.pushReply r).orders = s.orders := rfl
@[simp] theorem State.pushReply_scans (s : State) (r : Reply) : (s.pushReply r).scans = s.scans := rfl
@[simp] theorem State.pushReply_pending (s : State) (r : Reply) : (s.pushReply r).pending = s.pending := rfl

@[simp] theorem State.dropFrame_mode (s : State)  : (s.dropFrame).mode = s.mode := rfl
@[simp] theorem State.dropFrame_pfw (s : State)  : (s.dropFrame).pfw = s.pfw := rfl
@[simp] theorem State.dropFrame_strap (s : State)  : (s.dropFrame).strap = s.strap := rfl
@[simp] theorem State.dropFrame_service (s : State)  : (s.dropFrame).service = s.service := rfl
@[simp] theorem State.dropFrame_clock (s : State)  : (s.dropFrame).clock = s.clock := rfl
@[simp] theorem State.dropFrame_tariff (s : State)  : (s.dropFrame).tariff = s.tariff := rfl
@[simp] theorem State.dropFrame_texts (s : State)  : (s.dropFrame).texts = s.texts := rfl
@[simp] theorem State.dropFrame_accounts (s : State)  : (s.dropFrame).accounts = s.accounts := rfl
@[simp] theorem State.dropFrame_lines (s : State)  : (s.dropFrame).lines = s.lines := rfl
@[simp] theorem State.dropFrame_store (s : State)  : (s.dropFrame).store = s.store := rfl
@[simp] theorem State.dropFrame_readMark (s : State)  : (s.dropFrame).readMark = s.readMark := rfl
@[simp] theorem State.dropFrame_chargeArmed (s : State)  : (s.dropFrame).chargeArmed = s.chargeArmed := rfl
@[simp] theorem State.dropFrame_orders (s : State)  : (s.dropFrame).orders = s.orders := rfl
@[simp] theorem State.dropFrame_scans (s : State)  : (s.dropFrame).scans = s.scans := rfl
@[simp] theorem State.dropFrame_pending (s : State)  : (s.dropFrame).pending = s.pending := rfl

@[simp] theorem State.putAccount_mode (s : State) (a : Account) : (s.putAccount a).mode = s.mode := rfl
@[simp] theorem State.putAccount_pfw (s : State) (a : Account) : (s.putAccount a).pfw = s.pfw := rfl
@[simp] theorem State.putAccount_strap (s : State) (a : Account) : (s.putAccount a).strap = s.strap := rfl
@[simp] theorem State.putAccount_service (s : State) (a : Account) : (s.putAccount a).service = s.service := rfl
@[simp] theorem State.putAccount_link (s : State) (a : Account) : (s.putAccount a).link = s.link := rfl
@[simp] theorem State.putAccount_clock (s : State) (a : Account) : (s.putAccount a).clock = s.clock := rfl
@[simp] theorem State.putAccount_tariff (s : State) (a : Account) : (s.putAccount a).tariff = s.tariff := rfl
@[simp] theorem State.putAccount_texts (s : State) (a : Account) : (s.putAccount a).texts = s.texts := rfl
@[simp] theorem State.putAccount_lines (s : State) (a : Account) : (s.putAccount a).lines = s.lines := rfl
@[simp] theorem State.putAccount_store (s : State) (a : Account) : (s.putAccount a).store = s.store := rfl
@[simp] theorem State.putAccount_readMark (s : State) (a : Account) : (s.putAccount a).readMark = s.readMark := rfl
@[simp] theorem State.putAccount_chargeArmed (s : State) (a : Account) : (s.putAccount a).chargeArmed = s.chargeArmed := rfl
@[simp] theorem State.putAccount_orders (s : State) (a : Account) : (s.putAccount a).orders = s.orders := rfl
@[simp] theorem State.putAccount_scans (s : State) (a : Account) : (s.putAccount a).scans = s.scans := rfl
@[simp] theorem State.putAccount_pending (s : State) (a : Account) : (s.putAccount a).pending = s.pending := rfl

/-- A line read after a line is written. -/
@[simp] theorem State.line_setLine (s : State) (i j : LineId) (l : Line) :
    (s.setLine i l).line j = if j = i then l else s.line j := by
  simp only [State.line, State.setLine, Vector.get_eq_getElem, Vector.getElem_set]
  by_cases h : j = i
  · simp [h]
  · have : ¬ i.val = j.val := fun e => h (Fin.ext e.symm)
    simp [h, this]

@[simp] theorem State.line_updLine (s : State) (i j : LineId) (f : Line → Line) :
    (s.updLine i f).line j = if j = i then f (s.line i) else s.line j := by
  simp [State.updLine]

@[simp] theorem State.scan_mode (s : State) : s.scan.mode = s.mode := rfl
@[simp] theorem State.scan_pfw (s : State) : s.scan.pfw = s.pfw := rfl
@[simp] theorem State.scan_strap (s : State) : s.scan.strap = s.strap := rfl
@[simp] theorem State.scan_service (s : State) : s.scan.service = s.service := rfl
@[simp] theorem State.scan_link (s : State) : s.scan.link = s.link := rfl
@[simp] theorem State.scan_clock (s : State) : s.scan.clock = s.clock := rfl
@[simp] theorem State.scan_tariff (s : State) : s.scan.tariff = s.tariff := rfl
@[simp] theorem State.scan_texts (s : State) : s.scan.texts = s.texts := rfl
@[simp] theorem State.scan_accounts (s : State) : s.scan.accounts = s.accounts := rfl
@[simp] theorem State.scan_store (s : State) : s.scan.store = s.store := rfl
@[simp] theorem State.scan_readMark (s : State) : s.scan.readMark = s.readMark := rfl
@[simp] theorem State.scan_chargeArmed (s : State) : s.scan.chargeArmed = s.chargeArmed := rfl
@[simp] theorem State.scan_orders (s : State) : s.scan.orders = s.orders := rfl
@[simp] theorem State.scan_scans (s : State) : s.scan.scans = s.scans := rfl
@[simp] theorem State.scan_pending (s : State) : s.scan.pending = s.pending := rfl

/-- A scan writes DTR of every line and nothing else (R1). -/
@[simp] theorem State.line_scan (s : State) (i : LineId) : s.scan.line i = (s.line i).drive := by
  simp [State.line, State.scan, Vector.get_eq_getElem]

/-- Two states with the same lines have the same line `i`. -/
theorem State.line_congr {s t : State} (h : s.lines = t.lines) (i : LineId) : s.line i = t.line i := by
  simp [State.line, h]

@[simp] theorem State.line_pushReply (s : State) (r : Reply) (i : LineId) : (s.pushReply r).line i = s.line i := rfl
@[simp] theorem State.line_dropFrame (s : State) (i : LineId) : s.dropFrame.line i = s.line i := rfl
@[simp] theorem State.line_putAccount (s : State) (a : Account) (i : LineId) : (s.putAccount a).line i = s.line i := rfl

/-- The state with every line read back is the state. -/
theorem State.setLine_self (s : State) (i : LineId) : s.setLine i (s.line i) = s := by
  simp [State.setLine, State.line, Vector.get_eq_getElem]

/-- A state is determined by its fields but the lines, and each line. -/
theorem vector_ext_get {α : Type} {n : Nat} {v w : Vector α n} (h : ∀ i : Fin n, v.get i = w.get i) : v = w := by
  ext i hi
  simpa [Vector.get_eq_getElem] using h ⟨i, hi⟩

end Sys2Proof.Machine
end

