-- ==== Sys2Proof/Laws/Lines.lean ====
section
/-! SUPPORT. What the operations on a line leave as it is: state, DTR, configuration, generation. -/

namespace Sys2Proof.Machine

@[simp] theorem Line.drive_dtr (l : Line) : l.drive.dtr = l.state.answered := rfl
@[simp] theorem Line.drive_state (l : Line) : l.drive.state = l.state := rfl
@[simp] theorem Line.drive_ri (l : Line) : l.drive.ri = l.ri := rfl
@[simp] theorem Line.drive_cd (l : Line) : l.drive.cd = l.cd := rfl
@[simp] theorem Line.drive_carrierWait (l : Line) : l.drive.carrierWait = l.carrierWait := rfl
@[simp] theorem Line.drive_carrierLoss (l : Line) : l.drive.carrierLoss = l.carrierLoss := rfl
@[simp] theorem Line.drive_guard (l : Line) : l.drive.guard = l.guard := rfl
@[simp] theorem Line.drive_drain (l : Line) : l.drive.drain = l.drain := rfl
@[simp] theorem Line.drive_lockout (l : Line) : l.drive.lockout = l.lockout := rfl
@[simp] theorem Line.drive_disablePending (l : Line) : l.drive.disablePending = l.disablePending := rfl
@[simp] theorem Line.drive_lockoutDue (l : Line) : l.drive.lockoutDue = l.lockoutDue := rfl
@[simp] theorem Line.drive_config (l : Line) : l.drive.config = l.config := rfl
@[simp] theorem Line.drive_generation (l : Line) : l.drive.generation = l.generation := rfl
@[simp] theorem Line.drive_tallies (l : Line) : l.drive.tallies = l.tallies := rfl
@[simp] theorem Line.drive_detector (l : Line) : l.drive.detector = l.detector := rfl
@[simp] theorem Line.drive_unit (l : Line) : l.drive.unit = l.unit := rfl
@[simp] theorem Line.drive_out (l : Line) : l.drive.out = l.out := rfl
@[simp] theorem Line.drive_dialog (l : Line) : l.drive.dialog = l.dialog := rfl
@[simp] theorem Line.drive_session (l : Line) : l.drive.session = l.session := rfl
@[simp] theorem Line.drive_endedPacing (l : Line) : l.drive.endedPacing = l.endedPacing := rfl
@[simp] theorem Line.drive_reports (l : Line) : l.drive.reports = l.reports := rfl

theorem foldl_dialogEcho_keeps {α : Type} (g : Line → α) (h : ∀ l c, g (Line.dialogEcho c l) = g l)
    (cs : List Byte) (l : Line) : g (cs.foldl (fun l c => l.dialogEcho [c]) l) = g l := by
  induction cs generalizing l with
  | nil => rfl
  | cons c cs ih => simp [ih, h]

@[simp] theorem Line.place_state (l : Line) (chars : List Byte) : (l.place chars).state = l.state := by
  unfold Line.place; (repeat' split) <;> simp
@[simp] theorem Line.place_dtr (l : Line) (chars : List Byte) : (l.place chars).dtr = l.dtr := by
  unfold Line.place; (repeat' split) <;> simp
@[simp] theorem Line.place_config (l : Line) (chars : List Byte) : (l.place chars).config = l.config := by
  unfold Line.place; (repeat' split) <;> simp
@[simp] theorem Line.place_generation (l : Line) (chars : List Byte) : (l.place chars).generation = l.generation := by
  unfold Line.place; (repeat' split) <;> simp

@[simp] theorem Line.echo_state (l : Line) (chars : List Byte) : (l.echo chars).state = l.state := by
  unfold Line.echo; (repeat' split) <;> simp
@[simp] theorem Line.echo_dtr (l : Line) (chars : List Byte) : (l.echo chars).dtr = l.dtr := by
  unfold Line.echo; (repeat' split) <;> simp
@[simp] theorem Line.echo_config (l : Line) (chars : List Byte) : (l.echo chars).config = l.config := by
  unfold Line.echo; (repeat' split) <;> simp
@[simp] theorem Line.echo_generation (l : Line) (chars : List Byte) : (l.echo chars).generation = l.generation := by
  unfold Line.echo; (repeat' split) <;> simp

@[simp] theorem Line.dialogEcho_state (l : Line) (chars : List Byte) : (l.dialogEcho chars).state = l.state := by
  unfold Line.dialogEcho; split <;> simp
@[simp] theorem Line.dialogEcho_dtr (l : Line) (chars : List Byte) : (l.dialogEcho chars).dtr = l.dtr := by
  unfold Line.dialogEcho; split <;> simp
@[simp] theorem Line.dialogEcho_config (l : Line) (chars : List Byte) : (l.dialogEcho chars).config = l.config := by
  unfold Line.dialogEcho; split <;> simp
@[simp] theorem Line.dialogEcho_generation (l : Line) (chars : List Byte) : (l.dialogEcho chars).generation = l.generation := by
  unfold Line.dialogEcho; split <;> simp

@[simp] theorem Line.placeDue_state (l : Line) (texts : Vector (List Byte) 16) : (l.placeDue texts).state = l.state := by
  unfold Line.placeDue; (repeat' split) <;> simp [foldl_dialogEcho_keeps Line.state, *] <;> split <;> simp
@[simp] theorem Line.placeDue_dtr (l : Line) (texts : Vector (List Byte) 16) : (l.placeDue texts).dtr = l.dtr := by
  unfold Line.placeDue; (repeat' split) <;> simp [foldl_dialogEcho_keeps Line.dtr, *] <;> split <;> simp
@[simp] theorem Line.placeDue_config (l : Line) (texts : Vector (List Byte) 16) : (l.placeDue texts).config = l.config := by
  unfold Line.placeDue; (repeat' split) <;> simp [foldl_dialogEcho_keeps Line.config, *] <;> split <;> simp
@[simp] theorem Line.placeDue_generation (l : Line) (texts : Vector (List Byte) 16) : (l.placeDue texts).generation = l.generation := by
  unfold Line.placeDue; (repeat' split) <;> simp [foldl_dialogEcho_keeps Line.generation, *] <;> split <;> simp

@[simp] theorem Line.raiseEvent_state (l : Line) (k : LineEventKind) (d : Byte) : (l.raiseEvent k d).state = l.state := rfl
@[simp] theorem Line.raiseEvent_dtr (l : Line) (k : LineEventKind) (d : Byte) : (l.raiseEvent k d).dtr = l.dtr := rfl
@[simp] theorem Line.raiseEvent_config (l : Line) (k : LineEventKind) (d : Byte) : (l.raiseEvent k d).config = l.config := rfl
@[simp] theorem Line.raiseEvent_generation (l : Line) (k : LineEventKind) (d : Byte) : (l.raiseEvent k d).generation = l.generation := rfl

@[simp] theorem Line.releaseInput_state (l : Line)  : (l.releaseInput).state = l.state := by
  unfold Line.releaseInput; (repeat' split) <;> simp
@[simp] theorem Line.releaseInput_dtr (l : Line)  : (l.releaseInput).dtr = l.dtr := by
  unfold Line.releaseInput; (repeat' split) <;> simp
@[simp] theorem Line.releaseInput_config (l : Line)  : (l.releaseInput).config = l.config := by
  unfold Line.releaseInput; (repeat' split) <;> simp
@[simp] theorem Line.releaseInput_generation (l : Line)  : (l.releaseInput).generation = l.generation := by
  unfold Line.releaseInput; (repeat' split) <;> simp

@[simp] theorem Line.updMeter_state (l : Line) (f : Meter → Meter) : (l.updMeter f).state = l.state := rfl
@[simp] theorem Line.updMeter_dtr (l : Line) (f : Meter → Meter) : (l.updMeter f).dtr = l.dtr := rfl
@[simp] theorem Line.updMeter_config (l : Line) (f : Meter → Meter) : (l.updMeter f).config = l.config := rfl
@[simp] theorem Line.updMeter_generation (l : Line) (f : Meter → Meter) : (l.updMeter f).generation = l.generation := rfl

@[simp] theorem Line.arrival_state (l : Line)  : (l.arrival).state = l.state := by
  unfold Line.arrival; (repeat' split) <;> simp
@[simp] theorem Line.arrival_dtr (l : Line)  : (l.arrival).dtr = l.dtr := by
  unfold Line.arrival; (repeat' split) <;> simp
@[simp] theorem Line.arrival_config (l : Line)  : (l.arrival).config = l.config := by
  unfold Line.arrival; (repeat' split) <;> simp
@[simp] theorem Line.arrival_generation (l : Line)  : (l.arrival).generation = l.generation := by
  unfold Line.arrival; (repeat' split) <;> simp

@[simp] theorem Line.holdInput_state (l : Line)  : (l.holdInput).state = l.state := by
  unfold Line.holdInput; (repeat' split) <;> simp
@[simp] theorem Line.holdInput_dtr (l : Line)  : (l.holdInput).dtr = l.dtr := by
  unfold Line.holdInput; (repeat' split) <;> simp
@[simp] theorem Line.holdInput_config (l : Line)  : (l.holdInput).config = l.config := by
  unfold Line.holdInput; (repeat' split) <;> simp
@[simp] theorem Line.holdInput_generation (l : Line)  : (l.holdInput).generation = l.generation := by
  unfold Line.holdInput; (repeat' split) <;> simp

@[simp] theorem Line.storeChar_state (l : Line) (c : Byte) : (l.storeChar c).state = l.state := by
  unfold Line.storeChar; (repeat' split) <;> simp
@[simp] theorem Line.storeChar_dtr (l : Line) (c : Byte) : (l.storeChar c).dtr = l.dtr := by
  unfold Line.storeChar; (repeat' split) <;> simp
@[simp] theorem Line.storeChar_config (l : Line) (c : Byte) : (l.storeChar c).config = l.config := by
  unfold Line.storeChar; (repeat' split) <;> simp
@[simp] theorem Line.storeChar_generation (l : Line) (c : Byte) : (l.storeChar c).generation = l.generation := by
  unfold Line.storeChar; (repeat' split) <;> simp

@[simp] theorem Line.checkReady_state (l : Line) (i : LineId) : (l.checkReady i).state = l.state := by
  unfold Line.checkReady; (repeat' split) <;> simp
@[simp] theorem Line.checkReady_dtr (l : Line) (i : LineId) : (l.checkReady i).dtr = l.dtr := by
  unfold Line.checkReady; (repeat' split) <;> simp
@[simp] theorem Line.checkReady_config (l : Line) (i : LineId) : (l.checkReady i).config = l.config := by
  unfold Line.checkReady; (repeat' split) <;> simp
@[simp] theorem Line.checkReady_generation (l : Line) (i : LineId) : (l.checkReady i).generation = l.generation := by
  unfold Line.checkReady; (repeat' split) <;> simp

@[simp] theorem Line.attention_state (l : Line) (i : LineId) : (l.attention i).state = l.state := by
  unfold Line.attention; (repeat' split) <;> simp
@[simp] theorem Line.attention_dtr (l : Line) (i : LineId) : (l.attention i).dtr = l.dtr := by
  unfold Line.attention; (repeat' split) <;> simp
@[simp] theorem Line.attention_config (l : Line) (i : LineId) : (l.attention i).config = l.config := by
  unfold Line.attention; (repeat' split) <;> simp
@[simp] theorem Line.attention_generation (l : Line) (i : LineId) : (l.attention i).generation = l.generation := by
  unfold Line.attention; (repeat' split) <;> simp

@[simp] theorem Line.receive_state (l : Line) (i : LineId) (bits : Byte) : (l.receive i bits).state = l.state := by
  unfold Line.receive; dsimp only; split <;> (repeat' split) <;> simp
@[simp] theorem Line.receive_dtr (l : Line) (i : LineId) (bits : Byte) : (l.receive i bits).dtr = l.dtr := by
  unfold Line.receive; dsimp only; split <;> (repeat' split) <;> simp
@[simp] theorem Line.receive_config (l : Line) (i : LineId) (bits : Byte) : (l.receive i bits).config = l.config := by
  unfold Line.receive; dsimp only; split <;> (repeat' split) <;> simp
@[simp] theorem Line.receive_generation (l : Line) (i : LineId) (bits : Byte) : (l.receive i bits).generation = l.generation := by
  unfold Line.receive; dsimp only; split <;> (repeat' split) <;> simp

@[simp] theorem Line.storeInput_state (l : Line) (c : Byte) (rest : List Byte) (ses : Session) : (l.storeInput c rest ses).state = l.state := by
  unfold Line.storeInput; (repeat' split) <;> simp
@[simp] theorem Line.storeInput_dtr (l : Line) (c : Byte) (rest : List Byte) (ses : Session) : (l.storeInput c rest ses).dtr = l.dtr := by
  unfold Line.storeInput; (repeat' split) <;> simp
@[simp] theorem Line.storeInput_config (l : Line) (c : Byte) (rest : List Byte) (ses : Session) : (l.storeInput c rest ses).config = l.config := by
  unfold Line.storeInput; (repeat' split) <;> simp
@[simp] theorem Line.storeInput_generation (l : Line) (c : Byte) (rest : List Byte) (ses : Session) : (l.storeInput c rest ses).generation = l.generation := by
  unfold Line.storeInput; (repeat' split) <;> simp

@[simp] theorem Line.sendChar_state (l : Line) (c : Byte) : (l.sendChar c).state = l.state := rfl
@[simp] theorem Line.sendChar_dtr (l : Line) (c : Byte) : (l.sendChar c).dtr = l.dtr := rfl
@[simp] theorem Line.sendChar_config (l : Line) (c : Byte) : (l.sendChar c).config = l.config := rfl
@[simp] theorem Line.sendChar_generation (l : Line) (c : Byte) : (l.sendChar c).generation = l.generation := rfl

@[simp] theorem Line.takeNext_state (l : Line) (i : LineId) (texts : Vector (List Byte) 16) : (l.takeNext i texts).state = l.state := by
  unfold Line.takeNext; (repeat' split) <;> simp
@[simp] theorem Line.takeNext_dtr (l : Line) (i : LineId) (texts : Vector (List Byte) 16) : (l.takeNext i texts).dtr = l.dtr := by
  unfold Line.takeNext; (repeat' split) <;> simp
@[simp] theorem Line.takeNext_config (l : Line) (i : LineId) (texts : Vector (List Byte) 16) : (l.takeNext i texts).config = l.config := by
  unfold Line.takeNext; (repeat' split) <;> simp
@[simp] theorem Line.takeNext_generation (l : Line) (i : LineId) (texts : Vector (List Byte) 16) : (l.takeNext i texts).generation = l.generation := by
  unfold Line.takeNext; (repeat' split) <;> simp

@[simp] theorem Line.nameChar_state (l : Line) (texts : Vector (List Byte) 16) (c : Byte) : (l.nameChar texts c).state = l.state := by
  unfold Line.nameChar; dsimp only; (repeat' split) <;> simp
@[simp] theorem Line.nameChar_dtr (l : Line) (texts : Vector (List Byte) 16) (c : Byte) : (l.nameChar texts c).dtr = l.dtr := by
  unfold Line.nameChar; dsimp only; (repeat' split) <;> simp
@[simp] theorem Line.nameChar_config (l : Line) (texts : Vector (List Byte) 16) (c : Byte) : (l.nameChar texts c).config = l.config := by
  unfold Line.nameChar; dsimp only; (repeat' split) <;> simp
@[simp] theorem Line.nameChar_generation (l : Line) (texts : Vector (List Byte) 16) (c : Byte) : (l.nameChar texts c).generation = l.generation := by
  unfold Line.nameChar; dsimp only; (repeat' split) <;> simp

@[simp] theorem Line.beginWaiting_state (l : Line)  : (l.beginWaiting).state = l.state := rfl
@[simp] theorem Line.beginWaiting_dtr (l : Line)  : (l.beginWaiting).dtr = l.dtr := rfl
@[simp] theorem Line.beginWaiting_config (l : Line)  : (l.beginWaiting).config = l.config := rfl
@[simp] theorem Line.beginWaiting_generation (l : Line)  : (l.beginWaiting).generation = l.generation := rfl

@[simp] theorem Line.setCopies_state (l : Line) (c : Copies) : (l.setCopies c).state = l.state := by
  unfold Line.setCopies; (repeat' split) <;> simp
@[simp] theorem Line.setCopies_dtr (l : Line) (c : Copies) : (l.setCopies c).dtr = l.dtr := by
  unfold Line.setCopies; (repeat' split) <;> simp
@[simp] theorem Line.setCopies_config (l : Line) (c : Copies) : (l.setCopies c).config = l.config := by
  unfold Line.setCopies; (repeat' split) <;> simp
@[simp] theorem Line.setCopies_generation (l : Line) (c : Copies) : (l.setCopies c).generation = l.generation := by
  unfold Line.setCopies; (repeat' split) <;> simp

@[simp] theorem Line.appendOutput_state (l : Line) (data : List Byte) : (l.appendOutput data).state = l.state := rfl
@[simp] theorem Line.appendOutput_dtr (l : Line) (data : List Byte) : (l.appendOutput data).dtr = l.dtr := rfl
@[simp] theorem Line.appendOutput_config (l : Line) (data : List Byte) : (l.appendOutput data).config = l.config := rfl
@[simp] theorem Line.appendOutput_generation (l : Line) (data : List Byte) : (l.appendOutput data).generation = l.generation := rfl

@[simp] theorem Line.pass_state (l : Line) (hi : Bool) : (l.pass hi).state = l.state := rfl
@[simp] theorem Line.pass_dtr (l : Line) (hi : Bool) : (l.pass hi).dtr = l.state.answered := rfl
@[simp] theorem Line.goto_dtr (l : Line) (st : LineState) : (l.goto st).dtr = l.dtr := rfl
@[simp] theorem Line.pass_config (l : Line) (hi : Bool) : (l.pass hi).config = l.config := rfl
@[simp] theorem Line.pass_generation (l : Line) (hi : Bool) : (l.pass hi).generation = l.generation := rfl

@[simp] theorem Line.endInput_state (l : Line) (ses : Session) (keep : Bool) (flag : Nat → EndFlag) : (l.endInput ses keep flag).state = l.state := by
  unfold Line.endInput; (repeat' split) <;> simp
@[simp] theorem Line.endInput_dtr (l : Line) (ses : Session) (keep : Bool) (flag : Nat → EndFlag) : (l.endInput ses keep flag).dtr = l.dtr := by
  unfold Line.endInput; (repeat' split) <;> simp
@[simp] theorem Line.endInput_config (l : Line) (ses : Session) (keep : Bool) (flag : Nat → EndFlag) : (l.endInput ses keep flag).config = l.config := by
  unfold Line.endInput; (repeat' split) <;> simp
@[simp] theorem Line.endInput_generation (l : Line) (ses : Session) (keep : Bool) (flag : Nat → EndFlag) : (l.endInput ses keep flag).generation = l.generation := by
  unfold Line.endInput; (repeat' split) <;> simp

end Sys2Proof.Machine
end

