-- ==== Sys2Proof/Laws/Ops.lean ====
section
/-! SUPPORT. What the shared operations over lines and free orders can do. -/

namespace Sys2Proof.Machine

/-! ### Free orders -/

theorem mem_allLines (i : LineId) : i ∈ allLines := List.mem_finRange i
theorem nodup_allLines : allLines.Nodup := List.nodup_finRange 48

/-- A free order is an order of the very same list. -/
theorem arrange_perm {α : Type} [DecidableEq α] (key : α → Nat) (prio : List Nat) {xs : List α} (h : xs.Nodup) :
    (arrange key prio xs).Perm xs := by
  unfold arrange
  set first := (prio.filterMap fun k => xs.find? fun x => key x = k).dedup with hf
  have hsub : ∀ a ∈ first, a ∈ xs := by
    intro a ha
    rw [hf, List.mem_dedup, List.mem_filterMap] at ha
    obtain ⟨k, -, hk⟩ := ha
    exact List.mem_of_find?_eq_some hk
  have hnd : first.Nodup := hf ▸ List.nodup_dedup _
  refine (List.perm_ext_iff_of_nodup ?_ h).2 fun a => ?_
  · refine List.nodup_append.2 ⟨hnd, h.filter _, ?_⟩
    rintro a ha b hb rfl
    simp [ha] at hb
  · simp only [List.mem_append, List.mem_filter, Bool.not_eq_true', List.contains_eq_mem, decide_eq_false_iff_not]
    constructor
    · rintro (h1 | ⟨h1, -⟩)
      · exact hsub a h1
      · exact h1
    · intro h1
      by_cases h2 : a ∈ first
      · exact .inl h2
      · exact .inr ⟨h1, h2⟩

/-- What is drawn from a free order is the list in some order; only `orders` is changed. -/
theorem State.takeOrder_spec {α : Type} [DecidableEq α] (key : α → Nat) {xs : List α} (h : xs.Nodup) (s : State) :
    (s.takeOrder key xs).1.Perm xs ∧ (s.takeOrder key xs).2 = { s with orders := s.orders.tail } :=
  ⟨arrange_perm key _ h, rfl⟩

theorem State.nodup_meteredLines (s : State) : s.meteredLines.Nodup := nodup_allLines.filter _

@[simp] theorem State.mem_meteredLines (s : State) (i : LineId) :
    i ∈ s.meteredLines ↔ (s.line i).state.metered = true := by
  simp [State.meteredLines, mem_allLines]

@[simp] theorem State.mem_sessionsOf (s : State) (n : Name) (i : LineId) :
    i ∈ s.sessionsOf n ↔ (s.line i).state.metered = true ∧ (s.line i).account? = some n := by
  simp [State.sessionsOf]

@[simp] theorem State.mem_dialogLines (s : State) (i : LineId) :
    i ∈ s.dialogLines ↔ (s.line i).state = .dialog ∨ (s.line i).state = .detecting := by
  simp [State.dialogLines, mem_allLines]

/-! ### Several lines -/

theorem State.updLines_cons (s : State) (i : LineId) (is : List LineId) (f : LineId → Line → Line) :
    s.updLines (i :: is) f = (s.updLine i (f i)).updLines is f := rfl

/-- Changing several lines changes nothing but the lines. -/
theorem State.updLines_eq (s : State) (is : List LineId) (f : LineId → Line → Line) :
    s.updLines is f = { s with lines := (s.updLines is f).lines } := by
  induction is generalizing s with
  | nil => rfl
  | cons i is ih => rw [State.updLines_cons, ih]; rfl

/-- Each of the lines listed, none twice, is changed by `f`; the others stay. -/
theorem State.line_updLines (s : State) {is : List LineId} (h : is.Nodup) (f : LineId → Line → Line) (j : LineId) :
    (s.updLines is f).line j = if j ∈ is then f j (s.line j) else s.line j := by
  induction is generalizing s with
  | nil => rfl
  | cons i is ih =>
    rw [State.updLines_cons, ih _ (List.nodup_cons.1 h).2, State.line_updLine]
    have hi := (List.nodup_cons.1 h).1
    by_cases hj : j = i
    · subst hj; simp [hi]
    · simp [hj]

/-! ### Requests -/

/-- A request that is asked for is answered: the handler's work on the state without its frame, and one reply. -/
theorem State.takeRequest_asked {s : State} {kind label : Byte} {fields : List Byte} (h : s.Asked kind label fields)
    (handle : Handler) :
    s.takeRequest kind handle
      = (handle fields s.dropFrame).1.pushReply
          ⟨kind + 0x80, label, (handle fields s.dropFrame).2.1, (handle fields s.dropFrame).2.2⟩ := by
  obtain ⟨-, hs, hr, hh, hl⟩ := h
  have : s.headFrame = some (kind, label, fields) := by
    unfold State.headFrame
    cases hi : s.link.intake with
    | nil => simp [hi] at hh
    | cons b rest => simp [hi] at hh; subst hh; rfl
  have hm : s.mayTake = true := by simp [State.mayTake, hs, hr]
  have hl' : ¬ label = 0 := hl
  simp only [State.takeRequest, this, hm, true_and, ne_eq, hl', not_false_eq_true, if_true]

/-- Commands but those of the supply and the RESET pin, while the controller runs. -/
theorem State.whenRunning_running {s : State} (h : s.mode = .running) (f : State → State) :
    s.whenRunning f = .next (f s) := by simp [State.whenRunning, h]

/-- The expiry of a timer of one line, while the controller runs: the scan and the action where the timer is due. -/
theorem State.lineExpiry_running {s : State} (h : s.mode = .running) (i : LineId) (due : Line → Bool)
    (act : Line → Line) :
    s.lineExpiry i due act
      = .next (if due (s.line i) then s.scan.setLine i (act (s.line i).drive) else s) := by
  rw [State.lineExpiry, State.whenRunning_running h, State.updLine, State.line_scan]

/-- The scan as the claims say it. -/
theorem Line.driven_eq_drive (l : Line) : l.driven = l.drive := rfl
theorem State.scanned_eq_scan (s : State) : s.scanned = s.scan := by
  have e : (Vector.ofFn fun i => (s.line i).driven) = s.lines.map Line.drive := by
    apply Vector.ext
    intro i hi
    rw [Vector.getElem_ofFn, Vector.getElem_map]
    rfl
  unfold State.scanned State.scan
  rw [e]

/-- A request command, where its request is asked for. -/
theorem State.request_asked {s : State} {kind label : Byte} {fields : List Byte} (h : s.Asked kind label fields)
    (handle : Handler) :
    s.whenRunning (State.takeRequest kind handle) = .next ((handle fields s.dropFrame).1.pushReply
      ⟨kind + 0x80, label, (handle fields s.dropFrame).2.1, (handle fields s.dropFrame).2.2⟩) := by
  rw [State.whenRunning_running h.running, State.takeRequest_asked h]

/-- A handler that leaves the state answers in place. -/
theorem State.pushReply_dropFrame (s : State) (kind label : Byte) (r : Result) (bytes : List Byte) :
    s.dropFrame.pushReply ⟨kind + 0x80, label, r, bytes⟩ = s.answered kind label r bytes := rfl

end Sys2Proof.Machine
end

