-- ==== Sys2Proof/Laws/LineLaw.lean ====
section
/-! SUPPORT. Everything a command can do to a line, said once: a property of lines that the operations below keep,
under the states in which they are made, is kept by every command (`State.EachLine.exec`). -/

namespace Sys2Proof.Machine

/-- `l'` is `l` but for fields other than state, DTR and session, no queue longer and no count of samples greater. -/
structure Line.Quiet (l l' : Line) : Prop where
  state : l'.state = l.state
  dtr : l'.dtr = l.dtr
  session : l'.session = l.session
  fifo : l'.unit.fifo.length ≤ l.unit.fifo.length
  queue : l'.out.queue.length ≤ l.out.queue.length
  noticeCur : l'.out.noticeCur.length ≤ l.out.noticeCur.length
  noticeWait : l'.out.noticeWait.length ≤ l.out.noticeWait.length
  intervals : l'.detector.intervals.length ≤ l.detector.intervals.length
  cur : l'.detector.cur ≤ l.detector.cur

/-- A line in a call and out of a session. A line leaves ANSWERING for the rest of the call at a scan, so its DTR is
high there (R1, R2). -/
structure Line.InCall (l : Line) : Prop where
  answered : l.state.answered = true
  unmetered : l.state.metered = false
  raised : l.state = .answering → l.dtr = true

theorem Line.InCall.congr {l l' : Line} (h : l.InCall) (hs : l'.state = l.state) (hd : l'.dtr = l.dtr) : l'.InCall :=
  ⟨hs ▸ h.answered, hs ▸ h.unmetered, fun e => hd ▸ h.raised (hs ▸ e)⟩

theorem Line.InCall.of_state {l : Line} {st : LineState} (h : l.state = st)
    (hs : st = .detecting ∨ st = .dialog ∨ st = .draining ∨ st = .rejecting) : l.InCall := by
  rcases hs with rfl | rfl | rfl | rfl <;> exact ⟨by rw [h]; rfl, by rw [h]; rfl, fun e => by rw [h] at e; cases e⟩

/-- The operations that make up every change of line `k`, but for start-ups and the scan. -/
structure Line.Law (P : LineId → Line → Prop) : Prop where
  quiet : ∀ {k l l'}, P k l → l.Quiet l' → P k l'
  ring : ∀ {k l}, P k l → l.state = .idle → P k (l.goto .answering)
  leave : ∀ {k l} st, P k l → l.state = .hangup ∧ l.dtr = false ∨ l.state = .idle ∨ l.state = .lockout →
    st = .disabled ∨ st = .idle ∨ st = .lockout → P k (l.goto st)
  hangup : ∀ {k l}, P k l → l.state.metered = false → P k l.hangup
  toDetecting : ∀ {k l}, P k l → l.InCall → P k l.toDetecting
  redetect : ∀ {k l}, P k l → l.InCall → P k l.redetect
  toDialog : ∀ {k l} texts, P k l → l.InCall → P k (l.toDialog texts)
  toRejecting : ∀ {k l}, P k l → l.InCall → P k l.toRejecting
  settle : ∀ {k l}, P k l → P k l.settle
  place : ∀ {k l} chars, P k l → chars.length ≤ Config.noticeSize → P k (l.place chars)
  placeDue : ∀ {k l} texts, P k l → P k (l.placeDue texts)
  dialogEcho : ∀ {k l} chars, P k l → P k (l.dialogEcho chars)
  measured : ∀ {k l} (d : Detector), P k l →
    d.intervals.length ≤ Config.intervalsSize ∨ d.intervals.length ≤ l.detector.intervals.length → d.cur ≤ max16 →
    P k { l with detector := d }
  receive : ∀ {k l} i bits, P k l → P k (l.receive i bits)
  attention : ∀ {k l} i, P k l → P k (l.arrival.attention i)
  storeInput : ∀ {k l c rest ses}, P k l → l.session = some ses → ses.closed = none → l.unit.fifo = c :: rest →
    P k (l.storeInput c rest ses)
  complete : ∀ {k l ses} cause, P k l → l.session = some ses → ses.closed = none →
    P k { l with session := some (ses.complete cause) }
  freeHeld : ∀ {k l ses}, P k l → l.session = some ses → P k { l with session := some ses.freeHeld }
  takeNext : ∀ {k l} i texts, P k l → P k (l.takeNext i texts)
  nameChar : ∀ {k l} texts c, P k l → P k (l.nameChar texts c)
  invalidAttempt : ∀ {k l} texts, P k l → l.InCall → P k (l.invalidAttempt texts)
  accept : ∀ {k l} i m sp, P k l → l.InCall → P k (l.accept i m sp)
  updMeter : ∀ {k l} f, P k l → P k (l.updMeter f)
  enterGrace : ∀ {k l} g, P k l → l.state.metered = true → P k (l.enterGrace g)
  leaveGrace : ∀ {k l}, P k l → l.state.metered = true → P k l.leaveGrace
  setCopies : ∀ {k l} c, P k l → P k (l.setCopies c)
  appendOutput : ∀ {k l} data, P k l → P k (l.appendOutput data)
  ended : ∀ {k l ses} keep flag hangUp, P k l → l.session = some ses → P k ((l.endInput ses keep flag).endMove hangUp)
  endedText : ∀ {k l ses} keep flag hangUp chars, P k l → l.session = some ses → chars.length ≤ Config.noticeSize →
    P k (((l.endInput ses keep flag).place chars).endMove hangUp)

/-- Line `i` of a state meets `P i`, for every line. -/
def State.EachLine (P : LineId → Line → Prop) (s : State) : Prop := ∀ i, P i (s.line i)

/-! ### Lines of a state -/

theorem State.EachLine.of_lines {P : LineId → Line → Prop} {s t : State} (h : s.EachLine P) (e : t.lines = s.lines) :
    t.EachLine P := fun i => by rw [State.line_congr e]; exact h i

theorem State.EachLine.setLine {P : LineId → Line → Prop} {s : State} (h : s.EachLine P) (i : LineId) {l : Line} (hl : P i l) :
    (s.setLine i l).EachLine P := fun j => by
  rw [State.line_setLine]; split
  next e => subst e; exact hl
  next => exact h j

theorem State.EachLine.updLine {P : LineId → Line → Prop} {s : State} (h : s.EachLine P) (i : LineId) {f : Line → Line}
    (hf : P i (f (s.line i))) : (s.updLine i f).EachLine P := h.setLine i hf

/-- Several lines changed, under a guard `Q` that the change keeps. -/
theorem State.EachLine.updLines {P : LineId → Line → Prop} {Q : Line → Prop} {s : State} (h : s.EachLine P) {is : List LineId}
    {f : LineId → Line → Line} (hq : ∀ i ∈ is, Q (s.line i)) (hf : ∀ i l, P i l → Q l → P i (f i l) ∧ Q (f i l)) :
    (s.updLines is f).EachLine P := by
  induction is generalizing s with
  | nil => exact h
  | cons i is ih =>
    rw [State.updLines_cons]
    refine ih (h.updLine i (hf i _ (h i) (hq i (by simp))).1) fun j hj => ?_
    rw [State.line_updLine]; split
    · exact (hf i _ (h i) (hq i (by simp))).2
    · exact hq j (by simp [hj])

/-- A scan, for a property that the writing of DTR keeps. -/
theorem State.EachLine.scan {P : LineId → Line → Prop} {s : State} (W : ∀ i l, P i l → P i l.drive)
    (h : s.EachLine P) : s.scan.EachLine P := fun i => by rw [State.line_scan]; exact W _ _ (h i)

theorem State.EachLine.foldl {α : Type} {P : LineId → Line → Prop} {g : State → α → State}
    (hg : ∀ s a, s.EachLine P → (g s a).EachLine P) {s : State} (h : s.EachLine P) (as : List α) :
    (as.foldl g s).EachLine P := by
  induction as generalizing s with
  | nil => exact h
  | cons a as ih => exact ih (hg s a h)

theorem expand_length (b : Option Int) (u : Option Nat) (t : List Byte) :
    (expand b u t).length ≤ Config.noticeSize := by simp [expand]

end Sys2Proof.Machine
end

