-- ==== Sys2Proof/Laws/LineLawExec.lean ====
section
/-! SUPPORT. Every command keeps a property of lines that the operations on lines keep. -/

namespace Sys2Proof.Machine

variable {P : LineId → Line → Prop} {s : State}

/-! ### Accounts, sessions -/

@[simp] theorem State.reevaluate_lines (s : State) (n : Name) : (s.reevaluate n).1.lines = s.lines := by
  unfold State.reevaluate; split
  · rfl
  · dsimp only; split <;> rfl

@[simp] theorem State.debit_lines (s : State) (n : Name) (z : Int) : (s.debit n z).1.lines = s.lines := by
  unfold State.debit; split <;> simp

@[simp] theorem State.testChargeLevel_lines (s : State) : s.testChargeLevel.lines = s.lines := by
  unfold State.testChargeLevel; split <;> rfl

theorem State.EachLine.placeText (L : Line.Law P) (h : s.EachLine P) (i : LineId) (k : Fin 16) (b : Option Int)
    (u : Option Nat) : (s.placeText i k b u).EachLine P :=
  h.updLine i (L.place _ (h i) (expand_length ..))

/-- The lines after an end sequence: the ended line has its input ended, its text placed if the reason has one, and
moves on; the other lines are as they were. -/
theorem State.endSession_line {i : LineId} {ses : Session} (hs : (s.line i).session = some ses) (r : EndReason)
    (keep : Bool) : ∃ (flag : Nat → EndFlag) (chars : List Byte), chars.length ≤ Config.noticeSize ∧
      (s.endSession i r keep).1.line i = Line.endMove r.hangsUp (match r.text with
        | some _ => ((s.line i).endInput ses keep flag).place chars
        | none => (s.line i).endInput ses keep flag)
      ∧ ∀ j, j ≠ i → (s.endSession i r keep).1.line j = s.line j := by
  have key : ∀ (s3 : State) (flag : Nat → EndFlag) (b : Option Int) (u : Nat), s3.lines = s.lines →
      ∀ t : State, t = State.updLine (match r.text with
          | some k => (s3.updLine i fun l => l.endInput ses keep flag).placeText i k b (some u)
          | none => s3.updLine i fun l => l.endInput ses keep flag) i (Line.endMove r.hangsUp) →
      ∃ (flag : Nat → EndFlag) (chars : List Byte), chars.length ≤ Config.noticeSize ∧
        t.line i = Line.endMove r.hangsUp (match r.text with
          | some _ => ((s.line i).endInput ses keep flag).place chars
          | none => (s.line i).endInput ses keep flag)
        ∧ ∀ j, j ≠ i → t.line j = s.line j := by
    intro s3 flag b u e t ht
    have hl : ∀ j, s3.line j = s.line j := State.line_congr e
    cases hr : r.text with
    | none =>
      subst ht
      refine ⟨flag, [], by simp, ?_, fun j hj => ?_⟩
      · simp [hr, hl]
      · simp [hr, hl, hj]
    | some k =>
      subst ht
      refine ⟨flag, expand b (some u) (s3.texts.get k), expand_length .., ?_, fun j hj => ?_⟩
      · simp [hr, hl, State.placeText]
      · simp [hr, hl, hj, State.placeText]
  unfold State.endSession
  simp only [hs]
  refine key _ _ _ _ ?_ _ rfl
  split <;> simp

/-- A line without a session has no end sequence. -/
theorem State.endSession_none {i : LineId} (hs : (s.line i).session = none) (r : EndReason) (keep : Bool) :
    s.endSession i r keep = (s, none) := by simp [State.endSession, hs]

theorem State.EachLine.endSession (L : Line.Law P) (h : s.EachLine P) (i : LineId) (r : EndReason) (keep : Bool) :
    (s.endSession i r keep).1.EachLine P := by
  cases hs : (s.line i).session with
  | none => rw [State.endSession_none hs]; exact h
  | some ses =>
    obtain ⟨flag, chars, hc, hi, hj⟩ := State.endSession_line hs r keep
    intro j
    by_cases e : j = i
    · subst e; rw [hi]; split
      · exact L.endedText _ _ _ _ (h j) hs hc
      · exact L.ended _ _ _ (h j) hs
    · rw [hj j e]; exact h j

theorem State.EachLine.endEach (L : Line.Law P) (h : s.EachLine P) (r : EndReason) (is : List LineId) :
    (s.endEach r is).EachLine P :=
  State.EachLine.foldl (fun _ i h => h.endSession L i r false) h is

theorem State.EachLine.noticeSessions (L : Line.Law P) (h : s.EachLine P) (n : Name) (k : Fin 16) :
    (s.noticeSessions n k).EachLine P :=
  State.EachLine.updLines (Q := fun _ => True) h (fun _ _ => trivial)
    fun _ _ hl _ => ⟨L.place _ hl (expand_length ..), trivial⟩

theorem State.EachLine.beginGrace (L : Line.Law P) (h : s.EachLine P) (n : Name) : (s.beginGrace n).EachLine P := by
  unfold State.beginGrace; split
  · exact State.EachLine.endEach (s := (s.takeOrder _ _).2) L (h.of_lines rfl) _ _
  · exact State.EachLine.updLines (Q := fun l => l.state.metered = true) h
      (fun i hi => ((State.mem_sessionsOf ..).1 hi).1) fun _ _ hl hq => ⟨L.enterGrace _ hl hq, rfl⟩

theorem State.EachLine.endGrace (L : Line.Law P) (h : s.EachLine P) (n : Name) : (s.endGrace n).EachLine P :=
  State.EachLine.updLines (Q := fun l => l.state.metered = true) h
    (fun _ hi => ((State.mem_sessionsOf ..).1 hi).1) fun _ _ hl hq => ⟨L.leaveGrace hl hq, rfl⟩

theorem State.EachLine.applyTransition (L : Line.Law P) (h : s.EachLine P) (t : Transition) :
    (s.applyTransition t).EachLine P := by
  unfold State.applyTransition
  split
  · exact h.noticeSessions L _ _
  · exact (h.noticeSessions L _ _).beginGrace L _
  · exact (h.noticeSessions L _ _).beginGrace L _
  · exact (h.endGrace L _).noticeSessions L _ _
  · exact (h.endGrace L _).noticeSessions L _ _
  all_goals exact h

theorem State.EachLine.applyEffects (L : Line.Law P) {p : State × Option Transition} (h : p.1.EachLine P) :
    (State.applyEffects p).EachLine P := by
  unfold State.applyEffects; split
  · exact h.applyTransition L _
  · exact h

theorem State.EachLine.endOne (L : Line.Law P) (h : s.EachLine P) (i : LineId) (r : EndReason) (keep : Bool) :
    (s.endOne i r keep).EachLine P := State.EachLine.applyEffects L (h.endSession L i r keep)

theorem State.EachLine.massEnd (L : Line.Law P) (h : s.EachLine P) (r : EndReason) : (s.massEnd r).EachLine P :=
  State.EachLine.endEach (s := (s.takeOrder _ _).2) L (h.of_lines rfl) _ _

theorem State.EachLine.accept (L : Line.Law P) (h : s.EachLine P) (i : LineId)
    (hc : (s.line i).InCall) (a : Account) : (s.accept i a).EachLine P := by
  unfold State.accept
  have quiet : ∀ {t : State} js, t.EachLine P → (t.updLine i (Line.announceAhead js)).EachLine P := fun js ht =>
    ht.updLine i (L.quiet (ht i) ⟨rfl, rfl, rfl, le_rfl, le_rfl, le_rfl, le_rfl, le_rfl, le_rfl⟩)
  refine quiet _ (State.EachLine.applyEffects L ?_)
  have h1 : (s.updLine i fun l => { l with generation := l.generation + 1 }).EachLine P :=
    h.updLine i (L.quiet (h i) ⟨rfl, rfl, rfl, le_rfl, le_rfl, le_rfl, le_rfl, le_rfl, le_rfl⟩)
  set s1 := s.updLine i fun l => { l with generation := l.generation + 1 } with e1
  have c1 : (s1.line i).InCall := hc.congr (by simp [e1]) (by simp [e1])
  dsimp only
  set s3 := ((s1.putAccount _).debit a.name _).1 with e3
  have l3 : s3.lines = s1.lines := by simp [e3]
  have h3 : s3.EachLine P := h1.of_lines l3
  have c3 : (s3.line i).InCall := by rw [State.line_congr l3]; exact c1
  split
  · refine State.EachLine.of_lines (State.EachLine.updLine (State.EachLine.of_lines h3 ?_) i ?_) rfl
    · rfl
    · exact L.accept _ _ _ (h3 i) c3
  · refine State.EachLine.updLine (State.EachLine.of_lines h3 ?_) i ?_
    · rfl
    · exact L.accept _ _ _ (h3 i) c3

theorem State.EachLine.signOn (L : Line.Law P) (h : s.EachLine P) (i : LineId)
    (hc : (s.line i).InCall) : (s.signOn i).EachLine P := by
  unfold State.signOn
  dsimp only
  set s1 := s.updLine i fun l => { l with dialog := { l.dialog with matched := s.matchedName i } } with e1
  have h1 : s1.EachLine P := h.updLine i (L.quiet (h i) ⟨rfl, rfl, rfl, le_rfl, le_rfl, le_rfl, le_rfl, le_rfl, le_rfl⟩)
  have c1 : (s1.line i).InCall := hc.congr (by simp [e1]) (by simp [e1])
  split
  · unfold State.invalidAttempt
    dsimp only
    split
    · exact State.EachLine.updLine (h1.of_lines rfl) i (L.invalidAttempt _ (h1 i) c1)
    · exact h1.updLine i (L.invalidAttempt _ (h1 i) c1)
  · unfold State.refuseSignOn
    refine State.EachLine.updLine (s := s1.putAccount _) (h1.of_lines rfl) i (L.toRejecting ?_ ?_)
    · exact L.quiet (L.place _ (h1 i) (expand_length ..)) ⟨rfl, rfl, rfl, le_rfl, le_rfl, le_rfl, le_rfl, le_rfl, le_rfl⟩
    · exact c1.congr (by simp) (by simp)
  · exact h1.updLine i (L.quiet (h1 i) ⟨rfl, rfl, rfl, le_rfl, le_rfl, le_rfl, le_rfl, le_rfl, le_rfl⟩)
  · exact h1.accept L i c1 _

theorem State.EachLine.admitLine (L : Line.Law P) (h : s.EachLine P) (i : LineId)
    (hc : (s.line i).InCall) : (s.admitLine i).EachLine P := by
  unfold State.admitLine; split
  · exact h.updLine i (L.toDialog _ (h i) hc)
  · exact h.updLine i (L.toRejecting (L.place _ (h i) (expand_length ..)) (hc.congr (by simp) (by simp)))

theorem State.EachLine.refuseDialogs (L : Line.Law P) (h : s.EachLine P) : s.refuseDialogs.EachLine P := by
  unfold State.refuseDialogs
  have key : ∀ (is : List LineId) (s : State), is.Nodup → s.EachLine P → (∀ i ∈ is, (s.line i).InCall) →
      (is.foldl State.refuseLine s).EachLine P := by
    intro is
    induction is with
    | nil => exact fun _ _ h _ => h
    | cons i is ih =>
      intro s hn h hc
      refine ih _ (List.nodup_cons.1 hn).2 ?_ fun j hj => ?_
      · exact h.updLine i (L.toRejecting (L.place _ (h i) (expand_length ..))
          ((hc i (by simp)).congr (by simp) (by simp)))
      · have : j ≠ i := fun e => (List.nodup_cons.1 hn).1 (e ▸ hj)
        unfold State.refuseLine
        rw [State.line_updLine, if_neg this]
        exact hc j (by simp [hj])
  refine key _ s (nodup_allLines.filter _) h fun i hi => ?_
  rcases (State.mem_dialogLines ..).1 hi with e | e
  · exact .of_state e (by simp)
  · exact .of_state e (by simp)

theorem State.EachLine.hangupAnswered (L : Line.Law P) (h : s.EachLine P) : s.hangupAnswered.EachLine P :=
  State.EachLine.updLines (Q := fun _ => True) h (fun _ _ => trivial) fun _ l hl _ => ⟨by
    split
    next hc => exact L.hangup hl (by simpa using hc.2)
    next => exact hl, trivial⟩

end Sys2Proof.Machine
end

