-- ==== Sys2Proof/Laws/LineLawCommands.lean ====
section
/-! SUPPORT. Every command keeps a property of lines that the operations on lines keep: the commands one by one, and
the law over all of them. -/

namespace Sys2Proof.Machine

variable {P : LineId → Line → Prop} {s t : State}

/-- A function on states that keeps a property of all lines. -/
def KeepsLines (P : LineId → Line → Prop) (f : State → State) : Prop := ∀ s, s.EachLine P → (f s).EachLine P

theorem State.EachLine.whenRunning {f : State → State} (h : s.EachLine P) (hf : (f s).EachLine P)
    (e : s.whenRunning f = .next t) : t.EachLine P := by
  unfold State.whenRunning at e
  obtain rfl : (if s.mode = .running then f s else s) = t := by simpa using e
  split
  · exact hf
  · exact h

theorem KeepsLines.run {f : State → State} (hf : KeepsLines P f) (h : s.EachLine P)
    (e : s.whenRunning f = .next t) : t.EachLine P := h.whenRunning (hf s h) e

theorem KeepsLines.upd {i : LineId} {f : State → Line → Line} (hf : ∀ s l, P i l → P i (f s l)) :
    KeepsLines P fun s => s.updLine i (f s) := fun s h => h.updLine i (hf s _ (h i))

/-- A request keeps the lines' property if its handler does. -/
theorem KeepsLines.request {kind : Byte} {handle : Handler}
    (hf : ∀ f s, s.EachLine P → (handle f s).1.EachLine P) : KeepsLines P (State.takeRequest kind handle) := by
  intro s h
  unfold State.takeRequest
  split
  · split
    · exact State.EachLine.of_lines (hf _ s.dropFrame (h.of_lines rfl)) rfl
    · exact h
  · exact h

theorem withFields_lines {α : Type} {read : Option α} {act : α → State × Answer} (h : s.EachLine P)
    (hf : ∀ a, read = some a → (act a).1.EachLine P) : (withFields read s act).1.EachLine P := by
  unfold withFields; split
  · exact hf _ rfl
  · exact h

theorem onLine_lines {f : List Byte} {act : LineId → State × Answer} (h : s.EachLine P)
    (hf : ∀ i, (act i).1.EachLine P) : (onLine f s act).1.EachLine P := by
  refine withFields_lines h fun a _ => ?_
  obtain ⟨b, r⟩ := a
  dsimp only
  split
  · exact h
  · exact hf _

theorem onAccount_lines {name : Option Name} {bad : Option Nat} {act : Account → State × Answer}
    (h : s.EachLine P) (hf : ∀ a, (act a).1.EachLine P) : (onAccount name bad s act).1.EachLine P := by
  unfold onAccount
  (repeat' split) <;> first | exact h | exact hf _

theorem onSession_lines {tag : Nat} {act : LineId → State × Answer} (h : s.EachLine P)
    (hf : ∀ i, (act i).1.EachLine P) : (onSession tag s act).1.EachLine P := by
  unfold onSession
  split
  · exact hf _
  · exact h

theorem Line.Quiet.refl (l : Line) : l.Quiet l := ⟨rfl, rfl, rfl, le_rfl, le_rfl, le_rfl, le_rfl, le_rfl, le_rfl⟩

/-! ### Requests -/

theorem keepaliveReq_lines (f : List Byte) (s : State) (h : s.EachLine P) : (keepaliveReq f s).1.EachLine P := h
theorem statusReq_lines (f : List Byte) (s : State) (h : s.EachLine P) : (statusReq f s).1.EachLine P := h

theorem openServiceReq_lines (f : List Byte) (s : State) (h : s.EachLine P) : (openServiceReq f s).1.EachLine P := by
  unfold openServiceReq
  (repeat' split) <;> exact h

theorem closeServiceReq_lines (L : Line.Law P) (f : List Byte) (s : State) (h : s.EachLine P) :
    (closeServiceReq f s).1.EachLine P := by
  refine withFields_lines h fun a _ => ?_
  have h1 : ∀ b : Bool, (if b then s.massEnd .serviceClosed else s).EachLine P := by
    intro b; cases b
    · exact h
    · exact h.massEnd L _
  dsimp only
  split
  · exact h
  · have h2 := h1 (decide (a.1 = 1))
    simp only [decide_eq_true_eq] at h2
    dsimp only
    split
    · exact h2
    · exact State.EachLine.of_lines (h2.refuseDialogs L) rfl

theorem setClockReq_lines (L : Line.Law P) (f : List Byte) (s : State) (h : s.EachLine P) :
    (setClockReq f s).1.EachLine P := by
  refine withFields_lines h fun a _ => ?_
  dsimp only
  split
  · exact h
  · exact State.EachLine.updLines (Q := fun _ => True) h (fun _ _ => trivial) fun _ _ hl _ => ⟨L.updMeter _ hl, trivial⟩

theorem adjustClockReq_lines (f : List Byte) (s : State) (h : s.EachLine P) : (adjustClockReq f s).1.EachLine P := by
  refine withFields_lines h fun a _ => ?_
  dsimp only
  split <;> exact h

theorem State.EachLine.reevaluateAct (L : Line.Law P) (h : s.EachLine P) (n : Name) :
    (s.reevaluateAct n).EachLine P := State.EachLine.applyEffects L (h.of_lines (by simp))

theorem State.EachLine.reevaluateAll (L : Line.Law P) (h : s.EachLine P) : s.reevaluateAll.EachLine P :=
  State.EachLine.foldl (s := (s.takeOrder _ _).2) (fun _ n h => h.reevaluateAct L n) h _

theorem loadTariffReq_lines (L : Line.Law P) (f : List Byte) (s : State) (h : s.EachLine P) :
    (loadTariffReq f s).1.EachLine P := by
  refine withFields_lines h fun a _ => ?_
  split
  · exact h
  · exact State.EachLine.reevaluateAll (s := { s with tariff := some a.tariff }) L h

theorem loadTextReq_lines (f : List Byte) (s : State) (h : s.EachLine P) : (loadTextReq f s).1.EachLine P := by
  refine withFields_lines h fun a _ => ?_
  dsimp only
  (repeat' split) <;> exact h

theorem setMonitorReq_lines (f : List Byte) (s : State) (h : s.EachLine P) : (setMonitorReq f s).1.EachLine P := by
  refine withFields_lines h fun a _ => ?_
  dsimp only
  split <;> exact h

theorem configureLineReq_lines (L : Line.Law P) (f : List Byte) (s : State) (h : s.EachLine P) :
    (configureLineReq f s).1.EachLine P := by
  refine withFields_lines h fun a _ => ?_
  dsimp only
  (repeat' split) <;> first
    | exact h
    | exact h.updLine _ (L.quiet (h _) ⟨rfl, rfl, rfl, le_rfl, le_rfl, le_rfl, le_rfl, le_rfl, le_rfl⟩)

theorem enableLineReq_lines (L : Line.Law P) (f : List Byte) (s : State) (h : s.EachLine P) :
    (enableLineReq f s).1.EachLine P := by
  refine onLine_lines h fun i => h.updLine i ?_
  split
  next e => exact L.hangup (h i) (by rw [e]; rfl)
  next => exact h i

theorem State.EachLine.disableLine (L : Line.Law P) (h : s.EachLine P) (i : LineId) : (s.disableLine i).EachLine P := by
  unfold State.disableLine
  have q : P i { s.line i with disablePending := true } :=
    L.quiet (h i) ⟨rfl, rfl, rfl, le_rfl, le_rfl, le_rfl, le_rfl, le_rfl, le_rfl⟩
  split <;> rename_i e
  · exact h
  · exact h.updLine i (L.leave _ (h i) (.inr (.inl e)) (.inl rfl))
  · exact h.updLine i (L.quiet (L.leave .disabled (h i) (.inr (.inr e)) (.inl rfl))
      ⟨rfl, rfl, rfl, le_rfl, le_rfl, le_rfl, le_rfl, le_rfl, le_rfl⟩)
  iterate 5 exact h.updLine i (L.hangup q (show (s.line i).state.metered = false by rw [e]; rfl))
  · exact State.EachLine.endOne L (h.updLine i q) i _ _
  · exact State.EachLine.endOne L (h.updLine i q) i _ _
  · exact h.updLine i q

theorem disableLineReq_lines (L : Line.Law P) (f : List Byte) (s : State) (h : s.EachLine P) :
    (disableLineReq f s).1.EachLine P := onLine_lines h fun i => h.disableLine L i

theorem lineStatusReq_lines (L : Line.Law P) (f : List Byte) (s : State) (h : s.EachLine P) :
    (lineStatusReq f s).1.EachLine P :=
  onLine_lines h fun i => h.updLine i (L.quiet (h i) ⟨rfl, rfl, rfl, le_rfl, le_rfl, le_rfl, le_rfl, le_rfl, le_rfl⟩)

theorem State.EachLine.broadcastTo (L : Line.Law P) (k : Fin 16) (h : s.EachLine P) (i : LineId) :
    (s.broadcastTo k i).EachLine P := by
  unfold State.broadcastTo
  dsimp only
  split
  · exact h.setLine i (L.placeDue _ (L.place _ (h i) (expand_length ..)))
  · exact h.setLine i (L.place _ (h i) (expand_length ..))

theorem broadcastReq_lines (L : Line.Law P) (f : List Byte) (s : State) (h : s.EachLine P) :
    (broadcastReq f s).1.EachLine P := by
  refine withFields_lines h fun a _ => ?_
  dsimp only
  split
  · exact State.EachLine.foldl (fun _ i h => h.broadcastTo L 14 i) h _
  · split
    · exact State.EachLine.foldl (fun _ i h => h.broadcastTo L 15 i) h _
    · exact h

theorem loadAccountReq_lines (L : Line.Law P) (f : List Byte) (s : State) (h : s.EachLine P) :
    (loadAccountReq f s).1.EachLine P := by
  refine withFields_lines h fun a _ => ?_
  dsimp only
  split
  · exact h
  · split
    · exact h
    · show (State.loadAccount _ _).EachLine P
      unfold State.loadAccount
      split
      · exact h.of_lines rfl
      · exact State.EachLine.reevaluateAct (s := s.putAccount _) L (h.of_lines rfl) _

theorem deleteAccountReq_lines (f : List Byte) (s : State) (h : s.EachLine P) : (deleteAccountReq f s).1.EachLine P := by
  refine withFields_lines h fun a _ => onAccount_lines h fun b => ?_
  split <;> exact h

theorem creditAccountReq_lines (L : Line.Law P) (f : List Byte) (s : State) (h : s.EachLine P) :
    (creditAccountReq f s).1.EachLine P :=
  withFields_lines h fun a _ => onAccount_lines h fun b => State.EachLine.applyEffects L (h.of_lines (by simp))

theorem readAccountReq_lines (f : List Byte) (s : State) (h : s.EachLine P) : (readAccountReq f s).1.EachLine P :=
  withFields_lines h fun _ _ => onAccount_lines h fun _ => h

theorem setAccountStateReq_lines (f : List Byte) (s : State) (h : s.EachLine P) :
    (setAccountStateReq f s).1.EachLine P := by
  refine withFields_lines h fun a _ => ?_
  dsimp only
  split
  · exact onAccount_lines h fun b => h
  · exact onAccount_lines h fun b => h

theorem outputReq_lines (L : Line.Law P) (f : List Byte) (s : State) (h : s.EachLine P) :
    (outputReq f s).1.EachLine P := by
  refine withFields_lines h fun a _ => ?_
  dsimp only
  split
  · exact h
  · exact onSession_lines h fun i => h.updLine i (L.appendOutput _ (h i))

theorem setSessionReq_lines (L : Line.Law P) (f : List Byte) (s : State) (h : s.EachLine P) :
    (setSessionReq f s).1.EachLine P := by
  refine withFields_lines h fun a _ => ?_
  dsimp only
  split
  · exact h
  · exact onSession_lines h fun i => h.updLine i (L.setCopies _ (h i))

theorem endSessionReq_lines (L : Line.Law P) (f : List Byte) (s : State) (h : s.EachLine P) :
    (endSessionReq f s).1.EachLine P := by
  refine withFields_lines h fun a _ => ?_
  dsimp only
  split
  · exact h
  · exact onSession_lines h fun i => State.EachLine.endOne L h i _ _

theorem readChargesReq_lines (f : List Byte) (s : State) (h : s.EachLine P) : (readChargesReq f s).1.EachLine P :=
  withFields_lines h fun _ _ => h

theorem releaseChargesReq_lines (f : List Byte) (s : State) (h : s.EachLine P) :
    (releaseChargesReq f s).1.EachLine P := by
  refine withFields_lines h fun a _ => ?_
  show (State.release _ _).EachLine P
  unfold State.release
  split <;> exact h

/-! ### The other commands -/

theorem startUp_lines (S : ∀ i ri cd, P i (Line.atStart ri cd)) (s : State) (k : StartKind) (p : Pins) : (s.startUp k p).EachLine P := by
  intro i
  show P i ((linesAtStart p).get i)
  simp only [linesAtStart, Vector.get_eq_getElem, Vector.getElem_ofFn]
  exact S _ _ _

theorem volatileStart_lines (S : ∀ i ri cd, P i (Line.atStart ri cd))
    (s : State) (p : Pins) (r : Option Ready) :
    (s.volatileStart p r).EachLine P := by
  intro i
  show P i ((linesAtStart p).get i)
  simp only [linesAtStart, Vector.get_eq_getElem, Vector.getElem_ofFn]
  exact S _ _ _

theorem enterPowerdown_lines (s : State) (n : Nat) : (s.enterPowerdown n).lines = s.lines := rfl

theorem State.EachLine.powerFail (L : Line.Law P) (h : s.EachLine P) : s.powerFail.EachLine P := by
  unfold State.powerFail
  split
  · exact h
  all_goals exact State.EachLine.of_lines (State.EachLine.hangupAnswered L (h.massEnd L _)) (enterPowerdown_lines _ _)

theorem startUpSeeing_lines (L : Line.Law P) (S : ∀ i ri cd, P i (Line.atStart ri cd))
    (s : State) (k : StartKind) (p : Pins) (b : Bool) :
    (s.startUpSeeing k p b).EachLine P := by
  unfold State.startUpSeeing
  split
  · exact State.EachLine.powerFail L (startUp_lines S s k p)
  · exact startUp_lines S s k p

theorem receiveByte_lines_eq (s : State) (b : Byte) : (s.receiveByte b).lines = s.lines := by
  have ho : ∀ (s : State) body, (s.offer body).lines = s.lines := by
    intro s body; unfold State.offer; split <;> rfl
  have hv : ∀ (s : State) body, (s.validFrame body).lines = s.lines := by
    intro s body; unfold State.validFrame; split <;> first | rfl | exact ho _ _
  unfold State.receiveByte
  split
  · rfl
  · rfl
  · split <;> rfl
  · dsimp only
    split
    · rfl
    · split
      · exact hv _ _
      · rfl

theorem orElse_some {α : Type} {a b : Option α} {c : α} (h : (a <|> b) = some c) : a = some c ∨ b = some c := by
  cases a with
  | none => exact .inr h
  | some x => exact .inl h

theorem State.choose_lines {c : Choice} (L : Line.Law P) (h : s.EachLine P) (e : s.choose = some c) :
    c.state.EachLine P := by
  have hrep : ∀ (s : State) (k : LineId) (i : LineId) (r : LineReports), s.EachLine P →
      (State.updLine { s with link := { s.link with linePtr := k } } i fun l => { l with reports := r }).EachLine P :=
    fun s k i r h => State.EachLine.updLine (s := { s with link := { s.link with linePtr := k } }) h i
      (L.quiet (h i) ⟨rfl, rfl, rfl, le_rfl, le_rfl, le_rfl, le_rfl, le_rfl, le_rfl⟩)
  unfold State.choose at e
  rcases orElse_some e with e | e
  · unfold State.chooseReady at e
    obtain ⟨r, -, rfl⟩ := Option.map_eq_some_iff.1 e
    exact h
  rcases orElse_some e with e | e
  · unfold State.chooseReply at e
    split at e
    · obtain rfl := Option.some.inj e; exact h
    · cases e
  rcases orElse_some e with e | e
  · unfold State.chooseService at e
    rcases orElse_some e with e | e
    · obtain ⟨r, -, rfl⟩ := Option.map_eq_some_iff.1 e; exact h
    rcases orElse_some e with e | e
    · obtain ⟨r, -, rfl⟩ := Option.map_eq_some_iff.1 e; exact h
    rcases orElse_some e with e | e
    · obtain ⟨r, -, rfl⟩ := Option.map_eq_some_iff.1 e; exact h
    · split at e
      · cases e
      · obtain ⟨r, -, rfl⟩ := Option.map_eq_some_iff.1 e; exact h
  rcases orElse_some e with e | e
  · unfold State.chooseLine at e
    obtain ⟨i, -, hi⟩ := List.exists_of_findSome?_eq_some e
    obtain ⟨r, -, rfl⟩ := Option.map_eq_some_iff.1 hi
    exact hrep s i i _ h
  rcases orElse_some e with e | e
  · unfold State.chooseBudget at e
    split at e
    · cases e
    · obtain ⟨n, -, hn⟩ := List.exists_of_findSome?_eq_some e
      obtain ⟨a, -, ha⟩ := Option.bind_eq_some_iff.1 hn
      obtain ⟨r, -, rfl⟩ := Option.map_eq_some_iff.1 ha
      exact h
  · unfold State.chooseData at e
    obtain ⟨i, -, hi⟩ := List.exists_of_findSome?_eq_some e
    obtain ⟨ses, hs, hi⟩ := Option.bind_eq_some_iff.1 hi
    obtain ⟨b, -, rfl⟩ := Option.map_eq_some_iff.1 hi
    exact State.EachLine.updLine (s := { s with link := { s.link with dataPtr := i } }) h i (L.freeHeld (h i) hs)

theorem arbiterChoice_lines (L : Line.Law P) (h : s.EachLine P) (e : execArbiterChoice s = .next t) :
    t.EachLine P := by
  refine KeepsLines.run (fun s h => ?_) h e
  dsimp only
  split
  · exact h
  next c hc =>
    have hs := State.choose_lines L h hc
    split
    · unfold State.recheck
      split
      next hw => exact State.EachLine.signOn (s := c.state.send c.body) L hs _ (.of_state hw.1 (by simp))
      next => exact hs
    · exact hs

theorem hostSilence_lines (L : Line.Law P) (hs : s.scan.EachLine P) (h : s.EachLine P)
    (e : execHostSilenceExpiry s = .next t) : t.EachLine P := by
  refine h.whenRunning ?_ e
  split
  · split
    · exact hs
    · exact hs
    · exact State.EachLine.refuseDialogs L (State.EachLine.massEnd (s := s.scan.loseLink _) L hs _)
  · exact h

theorem Line.leaveHangup_law (L : Line.Law P) {k : LineId} {l : Line} (h : P k l)
    (hs : l.state = .hangup) (hd : l.dtr = false) : P k l.leaveHangup := by
  unfold Line.leaveHangup
  (repeat' split) <;>
    exact L.quiet (L.leave _ h (.inl ⟨hs, hd⟩) (by first | exact .inl rfl | exact .inr (.inl rfl) | exact .inr (.inr rfl))) ⟨rfl, rfl, rfl, le_rfl, le_rfl, le_rfl, le_rfl, le_rfl, le_rfl⟩

theorem Line.detectFail_law (L : Line.Law P) {k : LineId} {l : Line} (h : P k l) (hm : l.state.metered = false) (r : DetResult) :
    P k (l.detectFail r) := by
  unfold Line.detectFail
  have q : ∀ n f, P k { l with
      detector := { l.detector with last := r, attempts := n, intervals := [], phase := .arming }
      tallies := { l.tallies with detFailures := f } } :=
    fun n f => L.quiet h ⟨rfl, rfl, rfl, le_rfl, le_rfl, le_rfl, le_rfl, by simp, le_rfl⟩
  dsimp only
  split
  · exact L.quiet (L.hangup (q _ _) hm) ⟨rfl, rfl, rfl, le_rfl, le_rfl, le_rfl, le_rfl, le_rfl, le_rfl⟩
  · exact q _ _

theorem State.EachLine.evaluateCharacter (L : Line.Law P) (h : s.EachLine P) (i : LineId)
    (hc : (s.line i).InCall) : (s.evaluateCharacter i).EachLine P := by
  unfold State.evaluateCharacter
  dsimp only
  split
  · refine h.setLine i (Line.detectFail_law L (L.quiet (h i) ?_) ?_ _)
    · exact ⟨rfl, rfl, rfl, le_rfl, le_rfl, le_rfl, le_rfl, le_rfl, le_rfl⟩
    · exact hc.unmetered
  · split
    · refine State.EachLine.admitLine L (h.setLine i (L.quiet (h i) ?_)) i (hc.congr (by simp) (by simp))
      exact ⟨rfl, rfl, rfl, Nat.zero_le _, le_rfl, le_rfl, le_rfl, le_rfl, le_rfl⟩
    · refine h.setLine i (Line.detectFail_law L (L.quiet (h i) ?_) ?_ _)
      · exact ⟨rfl, rfl, rfl, le_rfl, le_rfl, le_rfl, le_rfl, le_rfl, le_rfl⟩
      · exact hc.unmetered

theorem State.EachLine.atLimit (L : Line.Law P) (h : s.EachLine P) (i : LineId) (len : Nat) {go : State}
    (hc : (s.line i).InCall) (hg : go.EachLine P) : (s.atLimit i len go).EachLine P := by
  unfold State.atLimit
  split <;> split
  · exact h.evaluateCharacter L i hc
  · exact hg
  · exact h.updLine i (Line.detectFail_law L (h i) hc.unmetered _)
  · exact hg

theorem State.EachLine.runEnds (L : Line.Law P) (h : s.EachLine P) (i : LineId) (len : Nat)
    (hc : (s.line i).InCall) : (s.runEnds i len).EachLine P := by
  unfold State.runEnds
  refine State.EachLine.atLimit L h i len hc ?_
  dsimp only
  split
  · split
    next => exact h.updLine i (Line.detectFail_law L (h i) hc.unmetered _)
    next hn =>
      refine h.updLine i (L.measured _ (h i) (.inl ?_) (Nat.zero_le _))
      simp only [List.length_append, List.length_singleton]
      omega
  · split
    · exact h.updLine i (L.quiet (h i) ⟨rfl, rfl, rfl, le_rfl, le_rfl, le_rfl, le_rfl, le_rfl, Nat.zero_le _⟩)
    · have hs : ∀ d : Detector, d.intervals.length ≤ (s.line i).detector.intervals.length → d.cur ≤ max16 →
          (s.updLine i fun l => { l with detector := d }).EachLine P := fun d hd hcur =>
        h.updLine i (L.measured d (h i) (.inr hd) hcur)
      have joined : ∀ t, satAdd max16 t len ≤ max16 := fun t => Nat.min_le_left ..
      refine State.EachLine.atLimit L (hs _ (by simp) (joined _)) i _ (hc.congr (by simp) (by simp))
        (hs _ (by simp) (joined _))

theorem Line.measuring_inCall {l : Line} (h : l.measuring = true) : l.InCall := by
  simp only [Line.measuring, Bool.and_eq_true, decide_eq_true_eq] at h
  exact .of_state h.1 (by simp)

theorem State.EachLine.afterCharge (L : Line.Law P) (h : s.EachLine P) (was : List LineId) (i : LineId) :
    (s.afterCharge was i).EachLine P := by
  unfold State.afterCharge
  split
  · exact h
  next ses _ =>
    have h1 : (if ses.meter.seconds % 60 = 0 then s.refresh i ses.meter else s).EachLine P := by
      split
      · unfold State.refresh; split
        · exact h
        · exact h
      · exact h
    have hu : ∀ {s : State} f, s.EachLine P → (s.updLine i (Line.updMeter f)).EachLine P :=
      fun f h => h.updLine i (L.updMeter f (h i))
    dsimp only
    split
    · exact State.EachLine.endOne L (hu _ h1) i _ _
    · split
      · exact State.EachLine.endOne L (hu _ h1) i _ _
      · exact hu _ h1

theorem State.EachLine.tick (L : Line.Law P) (hs : s.scan.EachLine P) :
    s.tick.EachLine P := by
  unfold State.tick
  refine State.EachLine.foldl (fun _ i h => h.afterCharge L _ i) ?_ _
  refine State.EachLine.foldl (fun s n h => ?_) ?_ _
  · exact State.EachLine.applyEffects L (h.of_lines (by simp))
  · unfold State.chargeAll
    refine State.EachLine.updLines (Q := fun _ => True) (hs.of_lines ?_)
      (fun _ _ => trivial) fun _ _ hl _ => ⟨L.updMeter _ hl, trivial⟩
    rfl

theorem KeepsLines.updRun {i : LineId} {f : State → Line → Line} (h : s.EachLine P) (hf : ∀ s l, P i l → P i (f s l))
    (e : (s.whenRunning fun s => s.updLine i (f s)) = .next t) : t.EachLine P := KeepsLines.run (KeepsLines.upd hf) h e

/-- A command that is a scan's finding: DTR written, and then line `i` changed. -/
theorem State.EachLine.scanRun {i : LineId} {f : State → Line → Line} (hs : s.scan.EachLine P) (h : s.EachLine P)
    (hf : ∀ l : Line, P i l.drive → P i (f s l.drive)) (e : (s.whenRunning fun s => s.scan.updLine i (f s)) = .next t) :
    t.EachLine P := by
  refine h.whenRunning (hs.updLine i ?_) e
  have := hs i
  rw [State.line_scan] at this ⊢
  exact hf _ this

/-- The expiry of a timer of line `i`. -/
theorem State.EachLine.expiry {i : LineId} {due : Line → Bool} {act : Line → Line} (hs : s.scan.EachLine P)
    (h : s.EachLine P) (hf : ∀ l : Line, P i l.drive → due l = true → P i (act l.drive))
    (e : s.lineExpiry i due act = .next t) : t.EachLine P := by
  refine h.whenRunning ?_ e
  split
  next hd =>
    refine hs.updLine i ?_
    have := hs i
    rw [State.line_scan] at this ⊢
    exact hf _ this hd
  next => exact h

theorem LineLaw.keepalive (h : s.EachLine P)
    (e : exec .keepalive s = .next t) : t.EachLine P := by
  exact KeepsLines.run (KeepsLines.request keepaliveReq_lines) h e

theorem LineLaw.status (h : s.EachLine P)
    (e : exec .status s = .next t) : t.EachLine P := by
  exact KeepsLines.run (KeepsLines.request statusReq_lines) h e

theorem LineLaw.openService (h : s.EachLine P)
    (e : exec .openService s = .next t) : t.EachLine P := by
  exact KeepsLines.run (KeepsLines.request openServiceReq_lines) h e

theorem LineLaw.closeService (L : Line.Law P) (h : s.EachLine P)
    (e : exec .closeService s = .next t) : t.EachLine P := by
  exact KeepsLines.run (KeepsLines.request (closeServiceReq_lines L)) h e

theorem LineLaw.setClock (L : Line.Law P) (h : s.EachLine P)
    (e : exec .setClock s = .next t) : t.EachLine P := by
  exact KeepsLines.run (KeepsLines.request (setClockReq_lines L)) h e

theorem LineLaw.adjustClock (h : s.EachLine P)
    (e : exec .adjustClock s = .next t) : t.EachLine P := by
  exact KeepsLines.run (KeepsLines.request adjustClockReq_lines) h e

theorem LineLaw.loadTariff (L : Line.Law P) (h : s.EachLine P)
    (e : exec .loadTariff s = .next t) : t.EachLine P := by
  exact KeepsLines.run (KeepsLines.request (loadTariffReq_lines L)) h e

theorem LineLaw.loadText (h : s.EachLine P)
    (e : exec .loadText s = .next t) : t.EachLine P := by
  exact KeepsLines.run (KeepsLines.request loadTextReq_lines) h e

theorem LineLaw.setMonitor (h : s.EachLine P)
    (e : exec .setMonitor s = .next t) : t.EachLine P := by
  exact KeepsLines.run (KeepsLines.request setMonitorReq_lines) h e

theorem LineLaw.reset (S : ∀ i ri cd, P i (Line.atStart ri cd))
    (h : s.EachLine P) (p : Pins)
    (e : exec (.reset p) s = .next t) : t.EachLine P := by
  change execReset p s = .next t at e
  unfold execReset at e
  refine KeepsLines.run (fun s h => ?_) h e
  split
  · split
    · exact startUp_lines S _ _ _
    · exact h
  · exact h

theorem LineLaw.configureLine (L : Line.Law P) (h : s.EachLine P)
    (e : exec .configureLine s = .next t) : t.EachLine P := by
  exact KeepsLines.run (KeepsLines.request (configureLineReq_lines L)) h e

theorem LineLaw.enableLine (L : Line.Law P) (h : s.EachLine P)
    (e : exec .enableLine s = .next t) : t.EachLine P := by
  exact KeepsLines.run (KeepsLines.request (enableLineReq_lines L)) h e

theorem LineLaw.disableLine (L : Line.Law P) (h : s.EachLine P)
    (e : exec .disableLine s = .next t) : t.EachLine P := by
  exact KeepsLines.run (KeepsLines.request (disableLineReq_lines L)) h e

theorem LineLaw.lineStatus (L : Line.Law P) (h : s.EachLine P)
    (e : exec .lineStatus s = .next t) : t.EachLine P := by
  exact KeepsLines.run (KeepsLines.request (lineStatusReq_lines L)) h e

theorem LineLaw.broadcast (L : Line.Law P) (h : s.EachLine P)
    (e : exec .broadcast s = .next t) : t.EachLine P := by
  exact KeepsLines.run (KeepsLines.request (broadcastReq_lines L)) h e

theorem LineLaw.loadAccount (L : Line.Law P) (h : s.EachLine P)
    (e : exec .loadAccount s = .next t) : t.EachLine P := by
  exact KeepsLines.run (KeepsLines.request (loadAccountReq_lines L)) h e

theorem LineLaw.deleteAccount (h : s.EachLine P)
    (e : exec .deleteAccount s = .next t) : t.EachLine P := by
  exact KeepsLines.run (KeepsLines.request deleteAccountReq_lines) h e

theorem LineLaw.creditAccount (L : Line.Law P) (h : s.EachLine P)
    (e : exec .creditAccount s = .next t) : t.EachLine P := by
  exact KeepsLines.run (KeepsLines.request (creditAccountReq_lines L)) h e

theorem LineLaw.readAccount (h : s.EachLine P)
    (e : exec .readAccount s = .next t) : t.EachLine P := by
  exact KeepsLines.run (KeepsLines.request readAccountReq_lines) h e

theorem LineLaw.setAccountState (h : s.EachLine P)
    (e : exec .setAccountState s = .next t) : t.EachLine P := by
  exact KeepsLines.run (KeepsLines.request setAccountStateReq_lines) h e

theorem LineLaw.output (L : Line.Law P) (h : s.EachLine P)
    (e : exec .output s = .next t) : t.EachLine P := by
  exact KeepsLines.run (KeepsLines.request (outputReq_lines L)) h e

theorem LineLaw.setSession (L : Line.Law P) (h : s.EachLine P)
    (e : exec .setSession s = .next t) : t.EachLine P := by
  exact KeepsLines.run (KeepsLines.request (setSessionReq_lines L)) h e

theorem LineLaw.endSession (L : Line.Law P) (h : s.EachLine P)
    (e : exec .endSession s = .next t) : t.EachLine P := by
  exact KeepsLines.run (KeepsLines.request (endSessionReq_lines L)) h e

theorem LineLaw.readCharges (h : s.EachLine P)
    (e : exec .readCharges s = .next t) : t.EachLine P := by
  exact KeepsLines.run (KeepsLines.request readChargesReq_lines) h e

theorem LineLaw.releaseCharges (h : s.EachLine P)
    (e : exec .releaseCharges s = .next t) : t.EachLine P := by
  exact KeepsLines.run (KeepsLines.request releaseChargesReq_lines) h e

theorem LineLaw.labelZeroFrame (h : s.EachLine P)
    (e : exec .labelZeroFrame s = .next t) : t.EachLine P := by
  change execLabelZeroFrame s = .next t at e
  unfold execLabelZeroFrame at e
  refine KeepsLines.run (fun s h => ?_) h e
  (repeat' split) <;> exact h

theorem LineLaw.unknownKind (h : s.EachLine P)
    (e : exec .unknownKind s = .next t) : t.EachLine P := by
  change execUnknownKind s = .next t at e
  unfold execUnknownKind at e
  refine KeepsLines.run (fun s h => ?_) h e
  (repeat' split) <;> exact h

theorem LineLaw.frameReceived (h : s.EachLine P) (bytes : List Byte)
    (e : exec (.frameReceived bytes) s = .next t) : t.EachLine P := by
  exact KeepsLines.run
    (fun s h => State.EachLine.foldl (fun s b h => h.of_lines (receiveByte_lines_eq s b)) h bytes) h e

theorem LineLaw.frameTimeout (h : s.EachLine P)
    (e : exec .frameTimeout s = .next t) : t.EachLine P := by
  change execFrameTimeout s = .next t at e
  unfold execFrameTimeout at e
  refine KeepsLines.run (fun s h => ?_) h e
  dsimp only
  split <;> exact h

theorem LineLaw.arbiterChoice (L : Line.Law P) (h : s.EachLine P)
    (e : exec .arbiterChoice s = .next t) : t.EachLine P := by
  exact arbiterChoice_lines L h e

theorem LineLaw.hostSilenceExpiry (L : Line.Law P) (hs : s.scan.EachLine P) (h : s.EachLine P)
    (e : exec .hostSilenceExpiry s = .next t) : t.EachLine P := by
  exact hostSilence_lines L hs h e

theorem LineLaw.powerFailWarning (L : Line.Law P) (h : s.EachLine P)
    (e : exec .powerFailWarning s = .next t) : t.EachLine P := by
  exact KeepsLines.run (fun s h => h.powerFail L) h e

theorem LineLaw.powerRecovery (S : ∀ i ri cd, P i (Line.atStart ri cd))
    (h : s.EachLine P) (p : Pins)
    (e : exec (.powerRecovery p) s = .next t) : t.EachLine P := by
  change execPowerRecovery p s = .next t at e
  unfold execPowerRecovery at e
  refine KeepsLines.run (fun s h => ?_) h e
  split
  · exact startUp_lines S _ _ _
  · exact h

theorem LineLaw.resetPinAsserted (S : ∀ i ri cd, P i (Line.atStart ri cd))
    (h : s.EachLine P)
    (e : exec .resetPinAsserted s = .next t) : t.EachLine P := by
  simp only [Sys2Proof.Machine.exec, execResetPinAsserted] at e
  split at e
  · injection e with e; subst e; exact volatileStart_lines S s _ none
  · injection e with e; subst e; exact volatileStart_lines S s _ none
  · injection e with e; subst e; exact h

theorem LineLaw.resetPin (L : Line.Law P) (S : ∀ i ri cd, P i (Line.atStart ri cd))
    (h : s.EachLine P) (p : Pins) (b : Bool)
    (e : exec (.resetPin p b) s = .next t) : t.EachLine P := by
  simp only [Sys2Proof.Machine.exec, execResetPin] at e
  split at e
  · injection e with e; subst e; exact startUpSeeing_lines L S _ _ _ _
  · injection e with e; subst e; exact startUpSeeing_lines L S _ _ _ _
  · injection e with e; subst e; exact h

theorem LineLaw.powerOn (L : Line.Law P) (S : ∀ i ri cd, P i (Line.atStart ri cd))
    (p : Pins) (b : Bool) (r : RamFound)
    (e : exec (.powerOn p b r) s = .next t) : t.EachLine P := by
  simp only [Sys2Proof.Machine.exec, execPowerOn] at e
  split at e
  · injection e with e; subst e; exact startUpSeeing_lines L S _ _ _ _
  · injection e with e; subst e; exact startUpSeeing_lines L S _ _ _ _

theorem LineLaw.ringSeen (L : Line.Law P) (hs : s.scan.EachLine P) (h : s.EachLine P) (i : LineId)
    (e : exec (.ringSeen i) s = .next t) : t.EachLine P := by
  change execRing i s = .next t at e
  unfold execRing at e
  refine State.EachLine.scanRun hs h (fun l hl => ?_) e
  dsimp only
  split
  next hc => exact L.quiet (L.ring hl hc.1) ⟨rfl, rfl, rfl, le_rfl, le_rfl, le_rfl, le_rfl, le_rfl, le_rfl⟩
  next => exact L.quiet hl ⟨rfl, rfl, rfl, le_rfl, le_rfl, le_rfl, le_rfl, le_rfl, le_rfl⟩

theorem LineLaw.carrierDetect (L : Line.Law P) (hs : s.scan.EachLine P) (h : s.EachLine P) (i : LineId)
    (e : exec (.carrierDetect i) s = .next t) : t.EachLine P := by
  change execCarrierDetect i s = .next t at e
  unfold execCarrierDetect at e
  refine h.whenRunning ?_ e
  replace h := hs
  dsimp only
  split
  next hc =>
    have hin : (s.scan.line i).InCall := ⟨by rw [hc.1]; rfl, by rw [hc.1]; rfl, fun e => by
      rw [State.line_scan] at e ⊢
      rw [Line.drive_dtr, ← Line.drive_state, e]; rfl⟩
    split
    · exact h.setLine i (L.quiet (L.toDetecting (h i) hin) ⟨rfl, rfl, rfl, le_rfl, le_rfl, le_rfl, le_rfl, le_rfl, le_rfl⟩)
    · refine State.EachLine.admitLine L (h.setLine i (L.quiet (h i) ?_)) i (hin.congr (by simp) (by simp))
      exact ⟨rfl, rfl, rfl, Nat.zero_le _, le_rfl, le_rfl, le_rfl, le_rfl, le_rfl⟩
  next => exact h.setLine i (L.quiet (h i) ⟨rfl, rfl, rfl, le_rfl, le_rfl, le_rfl, le_rfl, le_rfl, le_rfl⟩)

theorem LineLaw.carrierDrop (L : Line.Law P) (hs : s.scan.EachLine P) (h : s.EachLine P) (i : LineId)
    (e : exec (.carrierDrop i) s = .next t) : t.EachLine P := by
  change execCarrierDrop i s = .next t at e
  unfold execCarrierDrop at e
  refine State.EachLine.scanRun hs h (fun l hl => ?_) e
  have q0 : P i { l.drive with cd := false } := L.quiet hl ⟨rfl, rfl, rfl, le_rfl, le_rfl, le_rfl, le_rfl, le_rfl, le_rfl⟩
  split
  · exact L.quiet hl ⟨rfl, rfl, rfl, le_rfl, le_rfl, le_rfl, le_rfl, le_rfl, le_rfl⟩
  · split
    next hc => exact Line.leaveHangup_law L q0 hc.1 (show l.state.answered = false by rw [← l.drive_state, hc.1]; rfl)
    next => exact q0

theorem LineLaw.carrierWaitExpiry (L : Line.Law P) (hs : s.scan.EachLine P) (h : s.EachLine P) (i : LineId)
    (e : exec (.carrierWaitExpiry i) s = .next t) : t.EachLine P := by
  change execCarrierWaitExpiry i s = .next t at e
  refine State.EachLine.expiry hs h (fun l hl hc => ?_) e
  simp only [decide_eq_true_eq] at hc
  exact L.quiet (L.hangup hl (show l.state.metered = false by rw [hc.1]; rfl))
    ⟨rfl, rfl, rfl, le_rfl, le_rfl, le_rfl, le_rfl, le_rfl, le_rfl⟩

theorem LineLaw.carrierLoss (L : Line.Law P) (hs : s.scan.EachLine P) (h : s.EachLine P) (i : LineId)
    (e : exec (.carrierLoss i) s = .next t) : t.EachLine P := by
  change execCarrierLoss i s = .next t at e
  unfold execCarrierLoss at e
  refine h.whenRunning ?_ e
  dsimp only
  split
  · exact h
  · split
    · exact State.EachLine.endOne L hs i _ _
    · split
      next hm _ => exact hs.updLine i (L.hangup (hs i) (by simpa using hm))
      next => exact h

theorem LineLaw.hangupGuardExpiry (L : Line.Law P) (hs : s.scan.EachLine P) (h : s.EachLine P) (i : LineId)
    (e : exec (.hangupGuardExpiry i) s = .next t) : t.EachLine P := by
  change execHangupGuardExpiry i s = .next t at e
  refine State.EachLine.expiry hs h (fun l hl hc => ?_) e
  simp only [decide_eq_true_eq] at hc
  have q0 : P i { l.drive with guard := none } := L.quiet hl ⟨rfl, rfl, rfl, le_rfl, le_rfl, le_rfl, le_rfl, le_rfl, le_rfl⟩
  split
  · exact q0
  · exact Line.leaveHangup_law L q0 hc.1 (show l.state.answered = false by rw [hc.1]; rfl)

theorem LineLaw.lockoutExpiry (L : Line.Law P) (hs : s.scan.EachLine P) (h : s.EachLine P) (i : LineId)
    (e : exec (.lockoutExpiry i) s = .next t) : t.EachLine P := by
  change execLockoutExpiry i s = .next t at e
  refine State.EachLine.expiry hs h (fun l hl hc => ?_) e
  simp only [decide_eq_true_eq] at hc
  exact L.quiet (L.leave .idle hl (.inr (.inr hc.1)) (.inr (.inl rfl)))
    ⟨rfl, rfl, rfl, le_rfl, le_rfl, le_rfl, le_rfl, le_rfl, le_rfl⟩

theorem LineLaw.drainTimerExpiry (L : Line.Law P) (hs : s.scan.EachLine P) (h : s.EachLine P) (i : LineId)
    (e : exec (.drainTimerExpiry i) s = .next t) : t.EachLine P := by
  change execDrainTimerExpiry i s = .next t at e
  refine State.EachLine.expiry hs h (fun l hl hc => ?_) e
  simp only [decide_eq_true_eq] at hc
  exact L.hangup hl (show l.state.metered = false by rw [hc.1]; rfl)

theorem LineLaw.quietLine (L : Line.Law P) (h : s.EachLine P) (i : LineId)
    (e : exec (.quietLine i) s = .next t) : t.EachLine P := by
  change execQuietLine i s = .next t at e
  unfold execQuietLine at e
  refine KeepsLines.updRun h (fun s l hl => ?_) e
  dsimp only
  split
  · exact L.quiet hl ⟨rfl, rfl, rfl, le_rfl, le_rfl, le_rfl, le_rfl, le_rfl, le_rfl⟩
  · exact hl

theorem LineLaw.startEdge (L : Line.Law P) (h : s.EachLine P) (i : LineId)
    (e : exec (.startEdge i) s = .next t) : t.EachLine P := by
  change execStartEdge i s = .next t at e
  unfold execStartEdge at e
  refine KeepsLines.updRun h (fun s l hl => ?_) e
  dsimp only
  split
  · exact L.quiet hl ⟨rfl, rfl, rfl, le_rfl, le_rfl, le_rfl, le_rfl, by simp, Nat.zero_le _⟩
  · exact hl

theorem LineLaw.transition (L : Line.Law P) (h : s.EachLine P) (i : LineId) (n : Nat)
    (e : exec (.transition i n) s = .next t) : t.EachLine P := by
  change execTransition i n s = .next t at e
  unfold execTransition at e
  refine KeepsLines.run (fun s h => ?_) h e
  dsimp only
  split
  next hm => exact h.runEnds L i _ (Line.measuring_inCall hm)
  next => exact h

theorem LineLaw.endOfCharacter (L : Line.Law P) (h : s.EachLine P) (i : LineId)
    (e : exec (.endOfCharacter i) s = .next t) : t.EachLine P := by
  change execEndOfCharacter i s = .next t at e
  unfold execEndOfCharacter at e
  refine KeepsLines.run (fun s h => ?_) h e
  dsimp only
  split
  next hm => exact h.evaluateCharacter L i (Line.measuring_inCall hm.1)
  next => exact h

theorem LineLaw.noEnd (L : Line.Law P) (h : s.EachLine P) (i : LineId)
    (e : exec (.noEnd i) s = .next t) : t.EachLine P := by
  change execNoEnd i s = .next t at e
  unfold execNoEnd at e
  refine KeepsLines.run (fun s h => ?_) h e
  dsimp only
  split
  next hm => exact h.updLine i (Line.detectFail_law L (h i) (Line.measuring_inCall hm.1).unmetered _)
  next => exact h

theorem LineLaw.tooMany (L : Line.Law P) (h : s.EachLine P) (i : LineId) (n : Nat)
    (e : exec (.tooMany i n) s = .next t) : t.EachLine P := by
  change execTooMany i n s = .next t at e
  unfold execTooMany at e
  refine KeepsLines.run (fun s h => ?_) h e
  dsimp only
  split
  next hm => exact h.runEnds L i _ (Line.measuring_inCall hm.1)
  next => exact h

theorem LineLaw.detectionTimerExpiry (L : Line.Law P) (hs : s.scan.EachLine P) (h : s.EachLine P) (i : LineId)
    (e : exec (.detectionTimerExpiry i) s = .next t) : t.EachLine P := by
  change execDetectionTimerExpiry i s = .next t at e
  refine State.EachLine.expiry hs h (fun l hl hc => ?_) e
  simp only [decide_eq_true_eq] at hc
  exact L.quiet (L.hangup hl (show l.state.metered = false by rw [hc.1]; rfl))
    ⟨rfl, rfl, rfl, le_rfl, le_rfl, le_rfl, le_rfl, le_rfl, le_rfl⟩

theorem LineLaw.characterReceived (L : Line.Law P) (h : s.EachLine P) (i : LineId) (b : Byte)
    (e : exec (.characterReceived i b) s = .next t) : t.EachLine P := by
  change execCharacterReceived i b s = .next t at e
  unfold execCharacterReceived at e
  refine KeepsLines.updRun h (fun s l hl => ?_) e
  split
  · exact L.receive _ _ hl
  · exact hl

theorem LineLaw.framingError (L : Line.Law P) (h : s.EachLine P) (i : LineId)
    (e : exec (.framingError i) s = .next t) : t.EachLine P := by
  change execFramingError i s = .next t at e
  unfold execFramingError at e
  refine KeepsLines.updRun h (fun s l hl => ?_) e
  dsimp only
  split
  · exact L.quiet hl ⟨rfl, rfl, rfl, le_rfl, le_rfl, le_rfl, le_rfl, le_rfl, le_rfl⟩
  · exact hl

theorem LineLaw.breakReceived (L : Line.Law P) (h : s.EachLine P) (i : LineId)
    (e : exec (.breakReceived i) s = .next t) : t.EachLine P := by
  change execBreak i s = .next t at e
  unfold execBreak at e
  refine KeepsLines.updRun h (fun s l hl => ?_) e
  split
  · split
    next hc =>
      split
      · exact L.redetect hl (.of_state hc (by simp))
      · exact hl
    next =>
      split
      · exact L.attention i hl
      · exact hl
  · exact hl

theorem LineLaw.inputStore (L : Line.Law P) (h : s.EachLine P) (i : LineId)
    (e : exec (.inputStore i) s = .next t) : t.EachLine P := by
  change execInputStore i s = .next t at e
  unfold execInputStore at e
  refine KeepsLines.updRun h (fun s l hl => ?_) e
  split
  next hs hf =>
    split
    next hc => exact L.storeInput hl hs hc.2 hf
    next => exact hl
  next => exact hl

theorem LineLaw.forwardingTimerExpiry (L : Line.Law P) (hs : s.scan.EachLine P) (h : s.EachLine P) (i : LineId)
    (e : exec (.forwardingTimerExpiry i) s = .next t) : t.EachLine P := by
  change execForwardingTimerExpiry i s = .next t at e
  refine State.EachLine.expiry hs h (fun l hl hc => ?_) e
  cases hs : l.session with
  | none => simp [hs] at hc
  | some ses =>
    simp only [hs, Option.any_some, decide_eq_true_eq] at hc
    have := L.complete .timer hl (show l.drive.session = some ses from hs) hc.2.1
    simpa [hs] using this

theorem LineLaw.transmitCharacter (L : Line.Law P) (h : s.EachLine P) (i : LineId)
    (e : exec (.transmitCharacter i) s = .next t) : t.EachLine P := by
  change execTransmitCharacter i s = .next t at e
  unfold execTransmitCharacter at e
  refine KeepsLines.updRun h (fun s l hl => ?_) e
  have q0 : P i { l with out := { l.out with tx := none } } :=
    L.quiet hl ⟨rfl, rfl, rfl, le_rfl, le_rfl, le_rfl, le_rfl, le_rfl, le_rfl⟩
  dsimp only
  split
  · exact L.takeNext _ _ (L.settle q0)
  · exact L.settle q0

theorem LineLaw.nameCharacter (L : Line.Law P) (h : s.EachLine P) (i : LineId)
    (e : exec (.nameCharacter i) s = .next t) : t.EachLine P := by
  change execNameCharacter i s = .next t at e
  unfold execNameCharacter at e
  refine KeepsLines.updRun h (fun s l hl => ?_) e
  dsimp only
  split
  next c rest hf =>
    split
    · exact L.nameChar _ _ (L.quiet hl ⟨rfl, rfl, rfl, by simp [hf], le_rfl, le_rfl, le_rfl, le_rfl, le_rfl⟩)
    · exact hl
  next => exact hl

theorem LineLaw.passwordCharacter (L : Line.Law P) (h : s.EachLine P) (i : LineId)
    (e : exec (.passwordCharacter i) s = .next t) : t.EachLine P := by
  change execPasswordCharacter i s = .next t at e
  unfold execPasswordCharacter at e
  refine KeepsLines.run (fun s h => ?_) h e
  dsimp only
  split
  next c rest hf =>
    split
    next hc =>
      have hin : (s.line i).InCall := .of_state hc.1 (by simp)
      split
      · refine State.EachLine.signOn L (h.setLine i (L.dialogEcho _ (L.quiet (h i) ?_))) i
          (hin.congr (by simp) (by simp))
        exact ⟨rfl, rfl, rfl, by simp [hf], le_rfl, le_rfl, le_rfl, le_rfl, le_rfl⟩
      · refine h.setLine i (L.quiet (h i) ?_)
        exact ⟨rfl, rfl, rfl, by simp [hf], le_rfl, le_rfl, le_rfl, le_rfl, le_rfl⟩
    next => exact h
  next => exact h

theorem LineLaw.dialogTimerExpiry (L : Line.Law P) (hs : s.scan.EachLine P) (h : s.EachLine P) (i : LineId)
    (e : exec (.dialogTimerExpiry i) s = .next t) : t.EachLine P := by
  change execDialogTimerExpiry i s = .next t at e
  refine State.EachLine.expiry hs h (fun l hl hc => ?_) e
  simp only [decide_eq_true_eq] at hc
  refine L.toRejecting (L.quiet (L.place _ hl (expand_length ..))
    ⟨rfl, rfl, rfl, le_rfl, le_rfl, le_rfl, le_rfl, le_rfl, le_rfl⟩) (.of_state (st := .dialog) ?_ (by simp))
  simpa using hc.1

theorem LineLaw.rejectingTimerExpiry (L : Line.Law P) (hs : s.scan.EachLine P) (h : s.EachLine P) (i : LineId)
    (e : exec (.rejectingTimerExpiry i) s = .next t) : t.EachLine P := by
  change execRejectingTimerExpiry i s = .next t at e
  refine State.EachLine.expiry hs h (fun l hl hc => ?_) e
  simp only [decide_eq_true_eq] at hc
  exact L.hangup hl (show l.state.metered = false by rw [hc.1]; rfl)

theorem LineLaw.meteringTick (L : Line.Law P) (hs : s.scan.EachLine P) (h : s.EachLine P)
    (e : exec .meteringTick s = .next t) : t.EachLine P := by
  exact h.whenRunning (State.EachLine.tick L hs) e

theorem LineLaw.graceExpiry (L : Line.Law P) (hs : s.scan.EachLine P) (h : s.EachLine P) (i : LineId)
    (e : exec (.graceExpiry i) s = .next t) : t.EachLine P := by
  change execGraceExpiry i s = .next t at e
  unfold execGraceExpiry at e
  refine h.whenRunning ?_ e
  split
  · exact State.EachLine.tick L hs
  · exact h

theorem LineLaw.inactivity (L : Line.Law P) (hs : s.scan.EachLine P) (h : s.EachLine P) (i : LineId)
    (e : exec (.inactivity i) s = .next t) : t.EachLine P := by
  change execInactivity i s = .next t at e
  unfold execInactivity at e
  refine h.whenRunning ?_ e
  split
  · split
    · exact State.EachLine.tick L hs
    · exact h
  · exact h

theorem LineLaw.powerLoss (S : ∀ i ri cd, P i (Line.atStart ri cd))
    (e : exec .powerLoss s = .next t) : t.EachLine P := by
  simp only [Sys2Proof.Machine.exec, execPowerLoss] at e
  injection e with e; subst e; exact volatileStart_lines S s _ none

/-- THE LAW: what the operations on lines keep, every command keeps; a command that starts the part up, where a line
after start-up meets it; a command that holds a scan, where the scanned state meets it. -/
theorem State.EachLine.exec (L : Line.Law P) (c : Instr) (hs : holdsScan c = true → s.scan.EachLine P)
    (S : startsUp c = true → ∀ i ri cd, P i (Line.atStart ri cd)) (h : s.EachLine P) (e : exec c s = .next t) :
    t.EachLine P := by
  cases c with
  | keepalive => exact LineLaw.keepalive h e
  | status => exact LineLaw.status h e
  | openService => exact LineLaw.openService h e
  | closeService => exact LineLaw.closeService L h e
  | setClock => exact LineLaw.setClock L h e
  | adjustClock => exact LineLaw.adjustClock h e
  | loadTariff => exact LineLaw.loadTariff L h e
  | loadText => exact LineLaw.loadText h e
  | setMonitor => exact LineLaw.setMonitor h e
  | reset p => exact LineLaw.reset (S rfl) h p e
  | configureLine => exact LineLaw.configureLine L h e
  | enableLine => exact LineLaw.enableLine L h e
  | disableLine => exact LineLaw.disableLine L h e
  | lineStatus => exact LineLaw.lineStatus L h e
  | broadcast => exact LineLaw.broadcast L h e
  | loadAccount => exact LineLaw.loadAccount L h e
  | deleteAccount => exact LineLaw.deleteAccount h e
  | creditAccount => exact LineLaw.creditAccount L h e
  | readAccount => exact LineLaw.readAccount h e
  | setAccountState => exact LineLaw.setAccountState h e
  | output => exact LineLaw.output L h e
  | setSession => exact LineLaw.setSession L h e
  | endSession => exact LineLaw.endSession L h e
  | readCharges => exact LineLaw.readCharges h e
  | releaseCharges => exact LineLaw.releaseCharges h e
  | labelZeroFrame => exact LineLaw.labelZeroFrame h e
  | unknownKind => exact LineLaw.unknownKind h e
  | frameReceived bytes => exact LineLaw.frameReceived h bytes e
  | frameTimeout => exact LineLaw.frameTimeout h e
  | arbiterChoice => exact LineLaw.arbiterChoice L h e
  | hostSilenceExpiry => exact LineLaw.hostSilenceExpiry L (hs rfl) h e
  | powerFailWarning => exact LineLaw.powerFailWarning L h e
  | powerRecovery p => exact LineLaw.powerRecovery (S rfl) h p e
  | resetPinAsserted => exact LineLaw.resetPinAsserted (S rfl) h e
  | resetPin p b => exact LineLaw.resetPin L (S rfl) h p b e
  | powerOn p b r => exact LineLaw.powerOn L (S rfl) p b r e
  | ringSeen i => exact LineLaw.ringSeen L (hs rfl) h i e
  | carrierDetect i => exact LineLaw.carrierDetect L (hs rfl) h i e
  | carrierDrop i => exact LineLaw.carrierDrop L (hs rfl) h i e
  | carrierWaitExpiry i => exact LineLaw.carrierWaitExpiry L (hs rfl) h i e
  | carrierLoss i => exact LineLaw.carrierLoss L (hs rfl) h i e
  | hangupGuardExpiry i => exact LineLaw.hangupGuardExpiry L (hs rfl) h i e
  | lockoutExpiry i => exact LineLaw.lockoutExpiry L (hs rfl) h i e
  | drainTimerExpiry i => exact LineLaw.drainTimerExpiry L (hs rfl) h i e
  | quietLine i => exact LineLaw.quietLine L h i e
  | startEdge i => exact LineLaw.startEdge L h i e
  | transition i n => exact LineLaw.transition L h i n e
  | endOfCharacter i => exact LineLaw.endOfCharacter L h i e
  | noEnd i => exact LineLaw.noEnd L h i e
  | tooMany i n => exact LineLaw.tooMany L h i n e
  | detectionTimerExpiry i => exact LineLaw.detectionTimerExpiry L (hs rfl) h i e
  | characterReceived i b => exact LineLaw.characterReceived L h i b e
  | framingError i => exact LineLaw.framingError L h i e
  | breakReceived i => exact LineLaw.breakReceived L h i e
  | inputStore i => exact LineLaw.inputStore L h i e
  | forwardingTimerExpiry i => exact LineLaw.forwardingTimerExpiry L (hs rfl) h i e
  | transmitCharacter i => exact LineLaw.transmitCharacter L h i e
  | nameCharacter i => exact LineLaw.nameCharacter L h i e
  | passwordCharacter i => exact LineLaw.passwordCharacter L h i e
  | dialogTimerExpiry i => exact LineLaw.dialogTimerExpiry L (hs rfl) h i e
  | rejectingTimerExpiry i => exact LineLaw.rejectingTimerExpiry L (hs rfl) h i e
  | meteringTick => exact LineLaw.meteringTick L (hs rfl) h e
  | graceExpiry i => exact LineLaw.graceExpiry L (hs rfl) h i e
  | inactivity i => exact LineLaw.inactivity L (hs rfl) h i e
  | powerLoss => exact LineLaw.powerLoss (S rfl) e

/-- The same for a step, whose idle interval lets 10 ms pass on every line. -/
theorem State.EachLine.step (L : Line.Law P) (W : ∀ i l, P i l → P i l.drive) (S : ∀ i ri cd, P i (Line.atStart ri cd))
    (pass : ∀ i ri l, P i l → P i (l.pass ri)) (h : s.EachLine P) (e : step s = .next t) : t.EachLine P := by
  unfold Machine.step at e
  split at e
  · unfold State.idle at e
    injection e with e
    subst e
    split
    · intro i
      show P i (Vector.get _ i)
      simp only [Vector.get_eq_getElem, Vector.getElem_ofFn]
      exact pass _ _ _ (h i)
    · exact h
  next rest _ => exact State.EachLine.exec (s := { s with pending := rest }) L _ (fun _ => h.scan W) (fun _ => S) h e

end Sys2Proof.Machine
end

