-- ==== Sys2Proof/WellFormed.lean ====
section
/-! DEFINITION. Which commands have operands the part can present. -/

namespace Sys2Proof

/-- A run of the speed detector is counted in a 16-bit counter (R25), so the count since the previous
transition is 1 to 65,535; a run that ends a 25th interval is not noise on its own account only through
joining, so TOO_MANY has the same range. A FRAME_RECEIVED brings at least one byte. Every other operand's
range is its type's. -/
def Instr.wellFormed : Instr → Bool
  | .transition _ n => 0 < n && n ≤ 65535
  | .tooMany _ n => 0 < n && n ≤ 65535
  | .frameReceived bs => !bs.isEmpty
  | .keepalive | .status | .openService | .closeService | .setClock | .adjustClock | .loadTariff | .loadText
  | .setMonitor | .reset _ | .configureLine | .enableLine | .disableLine | .lineStatus | .broadcast | .loadAccount
  | .deleteAccount | .creditAccount | .readAccount | .setAccountState | .output | .setSession | .endSession
  | .readCharges | .releaseCharges | .labelZeroFrame | .unknownKind | .frameTimeout | .arbiterChoice
  | .hostSilenceExpiry | .powerFailWarning | .powerRecovery _ | .resetPinAsserted | .resetPin _ _ | .powerOn _ _ _
  | .ringSeen _ | .carrierDetect _ | .carrierDrop _ | .carrierWaitExpiry _ | .carrierLoss _ | .hangupGuardExpiry _
  | .lockoutExpiry _ | .drainTimerExpiry _ | .quietLine _ | .endOfCharacter _ | .noEnd _ | .detectionTimerExpiry _
  | .characterReceived _ _ | .framingError _ | .breakReceived _ | .inputStore _ | .forwardingTimerExpiry _
  | .transmitCharacter _ | .nameCharacter _ | .passwordCharacter _ | .dialogTimerExpiry _ | .rejectingTimerExpiry _
  | .meteringTick | .graceExpiry _ | .inactivity _ | .startEdge _ | .powerLoss => true

end Sys2Proof
end

