-- ==== Sys2Proof/Tests/Slice0.lean ====
section
/-! SUPPORT. Tests on single steps, with values from the manual's worked sequences, and for each statement a state and
operands that meet its hypotheses. -/

namespace Sys2Proof.Tests

set_option Elab.async false

open Sys2Proof.Machine

/-! ### Small states -/

/-- The tariff of section 6.5. -/
def tariff : Tariff :=
  ⟨[#v[0, 240, 0, 0], #v[0, 60, 0, 0], #v[0, 30, 0, 0]], [⟨0, 2⟩, ⟨480, 0⟩, ⟨1080, 1⟩, ⟨1380, 2⟩], [⟨0, 2⟩], 8, 10, 12,
    #v[0, 5, 0, 0], #v[0, 100, 0, 0], 120, .nearest⟩

/-- KLEIN of section 8.9. -/
def kleinAccount : Account :=
  { name := asciiBytes "KLEIN", check := checkValue (asciiBytes "KLEIN") (asciiBytes "X"), cls := 1, budget := 800
    overdraft := 0, limit := 2, state := .opened, failures := 2, failLimit := 5, bstate := .normal, active := 1
    notice := none }

/-- The session of section 8.9 just before its end. -/
def kleinSession : Session :=
  { meter := { account := asciiBytes "KLEIN", cls := 1, tier := .medium, startDay := 14, startSecond := 60000
               seconds := 1260, units := 41, residue := 17000, grace := none, inactLimit := 1800, inactCount := 0
               clockSet := false, saturated := false, graceFlag := false }
    copies := LineConfig.default.copies, filling := asciiBytes "BYE", closed := none, held := none, fwdTimer := none }

/-- Line 12 of section 8.9: tag 3,077, 1200 bit/s. -/
def kleinLine : Line :=
  { Line.atStart false true with
    state := .active, dtr := true, guard := none, generation := 5, session := some kleinSession
    unit := { CharUnit.atStart with receiving := true, speed := some 4 }
    out := { Output.atStart with queue := List.replicate 3 0x41 } }

/-- The part with the service OPEN and the session of section 8.9 on line 12; its store is empty but for the
checkpoint entry, with next serial 40,117. -/
def klein : State :=
  { State.reset with
    service := .opened
    clock := ⟨14, 61260, true, 0, 0⟩
    tariff := some tariff
    accounts := [kleinAccount]
    lines := State.reset.lines.set 12 kleinLine
    store := (Store.emptied.writeHeader 0 0 40117).setCheckpoint 12
      (some (newCheckpoint 12 { kleinSession.meter with units := 5 } 4))
    link := { State.reset.link with ready := none, monitor := some 3000 } }

/-- `klein` with the frame of a body at the head of the intake queue. -/
def asking (body : List Byte) (s : State := klein) : State := { s with link := { s.link with intake := [body] } }

/-- `klein` with line 3, which has no session, changed. -/
def line3 (f : Line → Line) (s : State := klein) : State := s.updLine 3 f

/-- `klein` with line 12 changed. -/
def line12 (f : Line → Line) (s : State := klein) : State := s.updLine 12 f

/-- `klein` with its session changed. -/
def session12 (f : Session → Session) (s : State := klein) : State :=
  s.updLine 12 fun l => { l with session := l.session.map f }

/-- `klein` with its account changed. -/
def account1 (f : Account → Account) (s : State := klein) : State := { s with accounts := s.accounts.map f }

/-- A property of the state that a command answers. -/
def after (c : Instr) (s : State) (p : State → Bool) : Bool :=
  match exec c s with
  | .next t => p t
  | .fault _ => false
  | .refused _ => false

/-- What `p` shows of each state that a run of commands answers. -/
def traced {α : Type} (p : State → α) : List Instr → State → List α
  | [], _ => []
  | c :: cs, s => match exec c s with
    | .next t => p t :: traced p cs t
    | .fault _ => []
    | .refused _ => []

theorem asked_of {s : State} {k l : Byte} {f : List Byte} (h : s.mode = .running ∧ s.service ≠ .powerdown
    ∧ s.link.replies.length < 4 ∧ s.link.intake.head? = some (k :: l :: f) ∧ l ≠ 0) : s.Asked k l f :=
  ⟨h.1, h.2.1, h.2.2.1, h.2.2.2.1, h.2.2.2.2⟩

/-! ### WellFormed and the decoder -/

theorem test_transition_zero_ill_formed : (Instr.transition 3 0).wellFormed = false := by decide
theorem test_transition_long_ill_formed : (Instr.transition 3 65536).wellFormed = false := by decide
theorem test_transition_longest_well_formed : (Instr.transition 3 65535).wellFormed = true := by decide
theorem test_tooMany_zero_ill_formed : (Instr.tooMany 3 0).wellFormed = false := by decide
theorem test_tooMany_long_ill_formed : (Instr.tooMany 3 65536).wellFormed = false := by decide
theorem test_frameReceived_empty_ill_formed : (Instr.frameReceived []).wellFormed = false := by decide
theorem test_no_row_has_bits : decodeTableWord 8 1 = none ∧ State.reset.withFetchWord 8 1 = State.reset := by
  decide +kernel

/-! ### Single steps -/

/-- Section 4.5.1. -/
theorem test_checkValue_worked : checkValue (asciiBytes "A") (asciiBytes "X") = 2833663926#32 := by decide +kernel
/-- R144, section 9.9. -/
theorem test_integrity_worked : integrityOf 1500 1900 40120 = 22015 ∧ integrityOf 1495 1908 40123 = 22009 := by
  decide +kernel
/-- Section 6.5: 18:00:00 of a weekday, the second before, and 14:00 of day 12. -/
theorem test_band_worked : tariff.band ⟨14, 64800, true, 0, 0⟩ = 1 ∧ tariff.band ⟨14, 64799, true, 0, 0⟩ = 0
    ∧ tariff.band ⟨12, 50400, true, 0, 0⟩ = 2 := by decide +kernel
/-- Section 2.2: the space bar at 1200 bit/s gives the 1200 flag alone and is no carriage return. -/
theorem test_space_bar_worked : presenceOf [768, 128, 128] = 0b10000#8 ∧ readsCR 4 [768, 128, 128] = false := by
  decide +kernel
/-- Section 2.2: the carriage return with a noise burst gives 600 and 1200, and reads as CR. -/
theorem test_carriage_return_worked :
    presenceOf [128, 128, 128, 256, 384] = 0b11000#8 ∧ readsCR 4 [128, 128, 128, 256, 384] = true := by decide +kernel
/-- Section 2.2, the table: 110 bit/s, where only the 110 flag is set. -/
theorem test_carriage_return_110 :
    fastest (presenceOf [1396, 1396, 1396, 2792, 4188]) = some 0 ∧ readsCR 0 [1396, 1396, 1396, 2792, 4188] = true := by
  decide +kernel
/-- R158: the published check value of the CRC with generator 1021h and initial value FFFFh. -/
theorem test_crc_of_standard_string : crc (asciiBytes "123456789") = 0x29B1#16 := by decide +kernel

/-- Section 11.5: the reply body to END SESSION 3,077 with DRAIN under label 17. -/
theorem test_endSession_reply_worked :
    after .endSession (asking [0x22, 0x11, 0x0C, 0x05, 0x00]) (fun t => t.link.replies.map Reply.body =
      [[0xA2, 0x11, 0x00, 0x0C, 0x05, 0x00, 0x00, 0x9C, 0xB5, 0x00, 0x00, 0x00, 0x2A, 0x00, 0x00, 0x04, 0xEC]])
      = true := by decide +kernel
/-- Section 8.9: the text, the tally, the account and the line after that END SESSION. -/
theorem test_endSession_effects_worked :
    after .endSession (asking [0x22, 0x11, 0x0C, 0x05, 0x00]) (fun t =>
      decide ((t.line 12).out.noticeWait = asciiBytes "GOODBYE 42" ++ crLf ∧ (t.line 12).tallies.inputLost = 3
        ∧ (t.line 12).state = .draining ∧ t.accounts.map Account.budget = [799]
        ∧ (t.line 12).out.queue.length = 3)) = true := by decide +kernel
/-- Section 8.9: the carrier loss in place of it takes the line to HANGUP with the same 42 units. -/
theorem test_carrierLoss_units_worked :
    after (.carrierLoss 12) (line12 fun l => { l with carrierLoss := some 0 }) (fun t =>
      decide ((t.line 12).state = .hangup ∧ t.store.records.map (fun r => r.charge.units) = [42])) = true := by
  decide +kernel
/-- Section 4.13: the acceptance at 12.2 s on generation 6, tag 2,311 for line 9 (here line 3: 3 × 256 + 7). -/
def signingOn : State :=
  line3 (fun l => { l with
    state := .dialog, dtr := true, guard := none, generation := 6
    unit := { CharUnit.atStart with receiving := true, speed := some 4, fifo := [0x0D] }
    dialog := { Dialog.cleared with
      phase := .password, name := asciiBytes "KLEIN", password := asciiBytes "X", attemptLimit := 3
      timer := .running 7780 } }) (account1 fun a => { a with budget := 500 })
theorem test_passwordCharacter_accepts_worked :
    after (.passwordCharacter 3) signingOn (fun t =>
      decide (t.accounts.map (fun a => (a.budget, a.active, a.failures)) = [(495, 2, 0)] ∧ (t.line 3).state = .active
        ∧ ((t.line 3).reports.signon.map fun f => f.tag.toNat) = some 775)) = true := by decide +kernel
/-- Section 4.13: the wrong password takes the failure count from 2 to 3. -/
theorem test_passwordCharacter_rejects_worked :
    after (.passwordCharacter 3) (line3 (fun l => { l with dialog := { l.dialog with password := [] } }) signingOn)
      (fun t => decide (t.accounts.map Account.failures = [3] ∧ (t.line 3).dialog.attempts = 1
        ∧ (t.line 3).out.noticeWait = asciiBytes "INVALID" ++ crLf)) = true := by decide +kernel
/-- Section 4.13: a lower-case letter is folded and echoed. -/
theorem test_nameCharacter_folds :
    after (.nameCharacter 3) (line3 (fun l => { l with unit := { l.unit with fifo := [0x73] }
                                                       dialog := { l.dialog with phase := .name, name := [] } })
      signingOn) (fun t => decide ((t.line 3).dialog.name = [0x53] ∧ (t.line 3).out.queue = [0x53])) = true := by
  decide +kernel
/-- Section 7.7, tick 12: 26,400 and 2,400 make one unit; tick 90 is charged in the evening band. -/
theorem test_meteringTick_worked :
    after .meteringTick (session12 fun ses => { ses with meter := { ses.meter with residue := 26400 } }) (fun t =>
      decide ((t.line 12).session.map (fun ses => (ses.meter.residue, ses.meter.units, ses.meter.seconds))
        = some (0, 42, 1261) ∧ t.accounts.map Account.budget = [799] ∧ t.clock.second = 61261)) = true := by decide +kernel
theorem test_meteringTick_evening_worked :
    after .meteringTick { session12 (fun ses => { ses with meter := { ses.meter with residue := 12000 } }) with
      clock := ⟨14, 64799, true, 0, 0⟩ } (fun t => decide ((t.line 12).session.map (fun ses => ses.meter.residue)
        = some 12600)) = true := by decide +kernel
/-- Section 7.8, tick 11: the debit to −11 takes the session into GRACE with 120 s and its text. -/
theorem test_meteringTick_exhausts_worked :
    after .meteringTick (account1 (fun a => { a with budget := -10, overdraft := 10, bstate := .warned })
      (session12 fun ses => { ses with meter := { ses.meter with residue := 28000 } })) (fun t =>
      decide ((t.line 12).state = .grace ∧ (t.line 12).session.bind (fun ses => ses.meter.grace) = some 120
        ∧ (t.line 12).out.noticeWait = asciiBytes "BUDGET EXHAUSTED -11" ++ crLf)) = true := by decide +kernel
/-- Section 7.8: CREDIT ACCOUNT +50 at −16. -/
def exhausted12 : State :=
  account1 (fun a => { a with budget := -16, overdraft := 10, bstate := .exhausted })
    (session12 (fun ses => { ses with meter := { ses.meter with grace := some 91, graceFlag := true } })
      (line12 fun l => { l with state := .grace }))
theorem test_creditAccount_restores_worked :
    after .creditAccount (asking ([0x1A, 1] ++ asciiBytes "KLEIN   " ++ [0, 0, 0, 50]) exhausted12) (fun t =>
      decide ((t.line 12).state = .active ∧ (t.line 12).out.noticeWait = asciiBytes "BUDGET RESTORED 34" ++ crLf
        ∧ t.accounts.map (fun a => (a.budget, a.bstate)) = [(34, .warned)])) = true := by decide +kernel
/-- Section 9.9: the RESET pin cuts the session off, and its entry becomes a record of reason LOST. -/
theorem test_resetPin_recovers_worked :
    after (.resetPin ⟨0, 0, 0⟩ false) klein (fun t => decide
      (t.store.records.map (fun r => (r.serial.toNat, r.reason, r.recovered, r.charge.units)) = [(40117, .lost, true, 5)]
        ∧ t.link.ready = some ⟨.resetPin, .intact, 1, 1⟩)) = true := by decide +kernel
/-- R58, R59: a notice of the longest kind is cut at 96 characters. -/
theorem test_expand_cuts : (expand (some (-2147483648)) none (List.replicate 80 0x5E)).length = 96 := by decide +kernel

/-! ### Witnesses: states and operands that meet the hypotheses of the statements -/

/-- The name KLEIN, and its 8-byte field. -/
def kleinName : Name := asciiBytes "KLEIN"
def kleinField : List Byte := padName kleinName
/-- A well-formed name that no entry has. -/
def otherName : Name := asciiBytes "A"

theorem klein_name_good : NameGood kleinName := ⟨by decide, by decide, by decide⟩
theorem other_name_good : NameGood otherName := ⟨by decide, by decide, by decide⟩

theorem klein_account {n : Name} {a : Account} (h : klein.account? n = some a) : a = kleinAccount ∧ n = kleinName := by
  have h1 : a ∈ [kleinAccount] := List.mem_of_find?_eq_some h
  have h2 := List.find?_some h
  simp only [List.mem_singleton] at h1
  subst h1
  exact ⟨rfl, (of_decide_eq_true h2).symm⟩

theorem klein_session (i : LineId) (h : i ≠ 12) : (klein.line i).session = none := by
  revert i; decide +kernel

theorem witness_IdleStepRunsTimersDown : klein.mode = .running ∧ klein.pending = [] := by decide +kernel
theorem klein_dtr : klein.AllLines Line.DtrRight := by
  show ∀ i : Fin 48, (klein.line i).dtr = (klein.line i).state.answered
  decide +kernel
/-- A call on line 3 with no interval between its commands: DTR rises at the scan after the ring's, and is low when the
line leaves HANGUP. -/
theorem test_dtr_rises_and_falls :
    traced (fun t => ((t.line 3).state, (t.line 3).dtr)) [.ringSeen 3, .carrierDetect 3, .carrierWaitExpiry 3,
      .detectionTimerExpiry 3, .carrierDrop 3, .hangupGuardExpiry 3] (line3 fun l => { l with state := .idle, guard := none })
    = [(.answering, false), (.detecting, true), (.detecting, true), (.hangup, true), (.hangup, false), (.idle, false)] := by
  decide +kernel
theorem klein_settled : klein.AllLines Line.DtrSettled := fun i _ _ => klein_dtr i
theorem klein_sessions : klein.AllLines Line.SessionRight := by
  show ∀ i : Fin 48, (klein.line i).session.isSome = (klein.line i).state.metered
  decide +kernel
/-- A scanning command, one that holds no scan, and one that starts the part up. -/
theorem witness_DtrIsWrittenByTheScan :
    klein.AllLines Line.SessionRight ∧ klein.AllLines Line.DtrSettled ∧ (∃ t, step klein = .next t)
    ∧ (∃ t, exec (.ringSeen 3) klein = .next t) ∧ (∃ t, exec .keepalive klein = .next t)
    ∧ (∃ t, exec .powerLoss klein = .next t) ∧ klein.mode = .running ∧ klein.pending = []
    ∧ holdsScan (.ringSeen 3) = true ∧ holdsScan .keepalive = false ∧ startsUp .keepalive = false
    ∧ startsUp .powerLoss = true :=
  ⟨klein_sessions, klein_settled, ⟨_, rfl⟩, ⟨_, rfl⟩, ⟨_, rfl⟩, ⟨_, rfl⟩, by decide +kernel⟩
theorem klein_store : klein.StoreRight where
  good := by decide +kernel
  counted := by decide +kernel
  serials := by intro k r h; simp [klein, Store.setCheckpoint, Store.writeHeader, Store.emptied] at h
  room := by decide +kernel
  mark := by decide +kernel
  entries := by
    intro _
    show ∀ i : Fin 48, (klein.store.checkpoint i).isSome = (klein.line i).state.metered
    decide +kernel
theorem witness_StepKeepsSessionsAndStore :
    klein.AllLines Line.SessionRight ∧ klein.StoreRight ∧ ∃ t, step klein = .next t :=
  ⟨klein_sessions, klein_store, _, rfl⟩
theorem witness_StepKeepsBufferSizes :
    klein.AllLines Line.Bounded ∧ klein.LinkBounded ∧ ∃ t, step klein = .next t := by
  refine ⟨fun i => ?_, by unfold State.LinkBounded; decide +kernel, _, rfl⟩
  have sizes : ∀ i : Fin 48, (klein.line i).unit.fifo.length ≤ 16 ∧ (klein.line i).out.queue.length ≤ 512
      ∧ (klein.line i).out.noticeCur.length ≤ 96 ∧ (klein.line i).out.noticeWait.length ≤ 96
      ∧ (klein.line i).detector.intervals.length ≤ 24 ∧ (klein.line i).detector.cur ≤ 65535 := by decide +kernel
  obtain ⟨h1, h2, h3, h4, h5, h6⟩ := sizes i
  refine ⟨h1, h2, h3, h4, h5, h6, fun ses h => ?_⟩
  by_cases hi : i = 12
  · subst hi
    obtain rfl : kleinSession = ses := Option.some.inj h
    exact ⟨by decide +kernel, by decide +kernel, by simp [kleinSession]⟩
  · rw [klein_session i hi] at h; cases h
theorem witness_StepKeepsActiveCounts :
    klein.AllLines Line.SessionRight ∧ klein.CountsRight ∧ ∃ t, step klein = .next t := by
  refine ⟨klein_sessions, ⟨fun n a h => ?_, fun i n h => ?_⟩, _, rfl⟩
  · obtain ⟨rfl, rfl⟩ := klein_account h; decide +kernel
  · by_cases hi : i = 12
    · subst hi
      obtain rfl : kleinName = n := Option.some.inj h
      decide +kernel
    · unfold Line.account? at h; rw [klein_session i hi] at h; cases h
theorem witness_StepKeepsBudgetStates : klein.BudgetsRight ∧ ∃ t, step klein = .next t := by
  refine ⟨fun n a h => ?_, _, rfl⟩
  obtain ⟨rfl, rfl⟩ := klein_account h
  decide +kernel

theorem witness_KeepaliveAndStatusAnswerDone :
    (asking [0x01, 1]).Asked 0x01 1 [] ∧ (asking [0x02, 255]).Asked 0x02 255 [] :=
  ⟨asked_of (by decide +kernel), asked_of (by decide +kernel)⟩
/-- OPEN SERVICE asked in a service state. -/
def opening (service : Service) (s : State := klein) : State := { asking [0x03, 1] s with service := service }
theorem witness_OpenServiceByServiceState :
    (opening .closed).Asked 0x03 1 [] ∧ (opening .closed).clock.isSet = true ∧ (opening .closed).tariff.isSome = true
    ∧ (opening .closed State.reset).Asked 0x03 1 [] ∧ (opening .closed State.reset).clock.isSet = false
    ∧ (opening .opened).Asked 0x03 1 [] ∧ (opening .linkLost).Asked 0x03 1 [] :=
  ⟨asked_of (by decide +kernel), by decide +kernel, by decide +kernel, asked_of (by decide +kernel), by decide +kernel,
    asked_of (by decide +kernel), asked_of (by decide +kernel)⟩
/-- `klein` with line 3 in DIALOG with a speed, and line 4 in DETECTING. -/
def dialogs : State :=
  State.updLine (line3 fun l => { l with state := .dialog, dtr := true, unit := { l.unit with speed := some 4 } }) 4
    fun l => { l with state := .detecting, dtr := true }
theorem asking_sessions (body : List Byte) : (asking body).AllLines Line.SessionRight := klein_sessions
theorem asking_store (body : List Byte) : (asking body).StoreRight :=
  ⟨klein_store.good, klein_store.counted, klein_store.serials, klein_store.room, klein_store.mark, klein_store.entries⟩
theorem dialogs_right (body : List Byte) :
    (asking body dialogs).AllLines Line.SessionRight ∧ (asking body dialogs).StoreRight := by
  refine ⟨?_, klein_store.good, klein_store.counted, klein_store.serials, klein_store.room, klein_store.mark, fun _ => ?_⟩
  · show ∀ i : Fin 48, (dialogs.line i).session.isSome = (dialogs.line i).state.metered
    decide +kernel
  · show ∀ i : Fin 48, (klein.store.checkpoint i).isSome = (dialogs.line i).state.metered
    decide +kernel
theorem witness_CloseServiceByOption :
    (∀ opt ∈ ([0, 1, 2] : List Byte), (asking [0x04, 1, opt] dialogs).Asked 0x04 1 (opt :: [])
      ∧ (asking [0x04, 1, opt] State.reset).Asked 0x04 1 (opt :: []))
    ∧ (∀ opt : Byte, (asking [0x04, 1, opt] dialogs).AllLines Line.SessionRight
      ∧ (asking [0x04, 1, opt] dialogs).StoreRight)
    ∧ (allLines.filter fun i => (dialogs.line i).state = .dialog ∨ (dialogs.line i).state = .detecting) = [3, 4]
    ∧ dialogs.service ≠ .closed ∧ State.reset.service = .closed := by
  refine ⟨fun opt h => ?_, fun _ => dialogs_right _, by decide +kernel⟩
  simp only [List.mem_cons, List.not_mem_nil, or_false] at h
  rcases h with rfl | rfl | rfl <;> exact ⟨asked_of (by decide +kernel), asked_of (by decide +kernel)⟩
theorem witness_ClockIsSetAndAdjusted :
    (∀ second ∈ [86399, 86400], second < 16777216
      ∧ (asking ([0x05, 1] ++ be16 14 ++ be24 second)).Asked 0x05 1 (be16 (14#16).toNat ++ be24 second ++ []))
    ∧ (asking ([0x06, 1] ++ be16 0x7FFF)).Asked 0x06 1 (be16 (0x7FFF#16).toNat ++ [])
    ∧ (asking ([0x06, 1] ++ be16 0x7FFF)).clock.isSet = true
    ∧ (asking ([0x06, 1] ++ be16 0x7FFF) State.reset).Asked 0x06 1 (be16 (0x7FFF#16).toNat ++ [])
    ∧ (asking ([0x06, 1] ++ be16 0x7FFF) State.reset).clock.isSet = false := by
  refine ⟨fun second h => ?_, asked_of (by decide +kernel), by decide +kernel, asked_of (by decide +kernel),
    by decide +kernel⟩
  simp only [List.mem_cons, List.not_mem_nil, or_false] at h
  rcases h with rfl | rfl <;> exact ⟨by decide, asked_of (by decide +kernel)⟩
/-- LOAD TEXT of `n` letters. -/
def loading (index mode : Byte) (n : Nat) : State :=
  asking (0x08 :: 1 :: index :: mode :: BitVec.ofNat 8 n :: List.replicate n 0x41)
theorem witness_LoadTextReplacesOrExtends : ∀ p ∈ ([(15, 0, 80), (15, 1, 81), (16, 0, 0), (0, 2, 0)] : List (Byte × Byte × Nat)),
    (List.replicate p.2.2 (0x41 : Byte)).length < 256
    ∧ (loading p.1 p.2.1 p.2.2).Asked 0x08 1
      (p.1 :: p.2.1 :: BitVec.ofNat 8 (List.replicate p.2.2 (0x41 : Byte)).length :: (List.replicate p.2.2 0x41 ++ [])) := by
  intro p h
  simp only [List.mem_cons, List.not_mem_nil, or_false] at h
  rcases h with rfl | rfl | rfl | rfl <;> exact ⟨by decide, asked_of (by decide +kernel)⟩
theorem witness_SetMonitorReplacesTheSettings : ∀ action ∈ ([2, 3] : List Byte), ∀ level ∈ [2048, 65535], level < 65536
    ∧ (asking ([0x09, 1, 0, action, 1, 0, 1, 0] ++ be16 level)).Asked 0x09 1 ([0, action, 1, 0, 1, 0] ++ be16 level ++ [])
    := by
  intro action h level h'
  simp only [List.mem_cons, List.not_mem_nil, or_false] at h h'
  rcases h with rfl | rfl <;> rcases h' with rfl | rfl <;> exact ⟨by decide, asked_of (by decide +kernel)⟩
/-- `klein` with four replies waiting. -/
def full : State :=
  { klein with link := { klein.link with replies := List.replicate 4 ⟨0x81, 1, .done, []⟩, intake := [[0x01, 1]] } }
/-- A set of the same lengths whose warning level of class 1 is above KLEIN's budget. -/
def dear : Tariff := { tariff with warn := #v[0, 1000, 0, 0] }
theorem tariff_fits : tariff.Fits ∧ dear.Fits ∧ { tariff with grace := 901 }.Fits := by
  refine ⟨?_, ?_, ?_⟩ <;> constructor <;> decide
theorem witness_RequestsShortUnknownOrWaiting :
    (asking [0x29, 1, 0]).Asked 0x29 1 [0] ∧ (asking [0x08, 1, 0, 1, 2, 0x41]).Asked 0x08 1 (0 :: 1 :: 2 :: [0x41])
    ∧ (asking ([0x20, 1] ++ be16 3077 ++ be16 3 ++ [0x41])).Asked 0x20 1 (be16 3077 ++ be16 3 ++ [0x41])
    ∧ (∀ k ∈ [0, 24, 70, 71], k < (tariff.fields 1).length
      ∧ (asking (0x07 :: 1 :: (tariff.fields 1).take k)).Asked 0x07 1 ((tariff.fields 1).take k))
    ∧ klein.mode = .running ∧ klein.service ≠ .powerdown
    ∧ klein.link.replies.length < 4 ∧ (asking [0x01, 0]).link.intake.head? = some (0x01 :: 0 :: [])
    ∧ (asking [0x0B, 1]).link.intake.head? = some (0x0B :: 1 :: []) ∧ full.link.replies.length = 4
    ∧ klein.link.intake = [] := by
  refine ⟨asked_of (by decide +kernel), asked_of (by decide +kernel), asked_of (by decide +kernel), fun k h => ?_,
    by decide +kernel⟩
  simp only [List.mem_cons, List.not_mem_nil, or_false] at h
  rcases h with rfl | rfl | rfl | rfl <;> exact ⟨by decide +kernel, asked_of (by decide +kernel)⟩
theorem klein_budgets : klein.BudgetsRight := witness_StepKeepsBudgetStates.1
/-- A set that fails item 9, one that fails item 10, and two that pass: the set in force, and one that warns KLEIN. -/
theorem witness_LoadTariffReplacesTheSet :
    (∀ p ∈ ([({ tariff with grace := 901 }, 1), (tariff, 3), (tariff, 1), (dear, 1)] : List (Tariff × Byte)), p.1.Fits
      ∧ (asking (0x07 :: 1 :: p.1.fields p.2)).Asked 0x07 1 (p.1.fields p.2 ++ []))
    ∧ (asking (0x07 :: 1 :: dear.fields 1)).BudgetsRight
    ∧ ({ tariff with grace := 901 }.checks 1).find? (·.1) = some (true, 9, 0)
    ∧ (tariff.checks 3).find? (·.1) = some (true, 10, 0)
    ∧ (dear.checks 1).find? (·.1) = none ∧ dear.rounding.code = 1
    ∧ State.stateOfBudget { klein with tariff := some dear } 800 0 1 = .warned ∧ 12 ∈ klein.sessionsOf kleinName := by
  refine ⟨fun p h => ?_, klein_budgets, by decide +kernel⟩
  simp only [List.mem_cons, List.not_mem_nil, or_false] at h
  rcases h with rfl | rfl | rfl | rfl
  · exact ⟨tariff_fits.2.2, asked_of (by decide +kernel)⟩
  · exact ⟨tariff_fits.1, asked_of (by decide +kernel)⟩
  · exact ⟨tariff_fits.1, asked_of (by decide +kernel)⟩
  · exact ⟨tariff_fits.2.1, asked_of (by decide +kernel)⟩
/-- R82, R106: that set warns KLEIN, whose session reads text 7. -/
theorem test_loadTariff_warns : after .loadTariff (asking (0x07 :: 1 :: dear.fields 1)) (fun t =>
    decide (t.accounts.map (fun a => (a.budget, a.bstate)) = [(800, .warned)]
      ∧ (t.line 12).out.noticeWait = asciiBytes "BUDGET LOW 800" ++ crLf)) = true := by decide +kernel
theorem witness_ResetRequestClosesAndStartsUp :
    (asking [0x0A, 1]).Asked 0x0A 1 [] ∧ (asking [0x0A, 1]).AllLines Line.SessionRight ∧ (asking [0x0A, 1]).StoreRight :=
  ⟨asked_of (by decide +kernel), asking_sessions _, asking_store _⟩

/-- CONFIGURE LINE with the defaults of section 1.7, but for the line and the mode. -/
def configuring (line mode : Byte) (s : State) : State :=
  asking ([0x10, 1, line, mode, 4, 0, 30, 4, 30, 0, 90, 3, 5, 30, 1, 1, 0x0D, 0, 0, 0, 0, 1, 3, 1, 0]) s
theorem witness_ConfigureLineReplacesTheConfiguration :
    (∀ p ∈ ([(3, 1), (3, 2), (47, 1), (48, 0)] : List (Byte × Byte)),
      (configuring p.1 p.2 (line3 fun l => { l with state := .idle })).Asked 0x10 1
        ([p.1, p.2, 4, 0, 30, 4, 30, 0, 90, 3, 5, 30, 1, 1, 0x0D, 0, 0, 0, 0, 1, 3, 1, 0] ++ []))
    ∧ ((line3 fun l => { l with state := .idle }).line 3).state = .idle ∧ (klein.line 47).state = .hangup := by
  refine ⟨fun p h => ?_, by decide +kernel, by decide +kernel⟩
  simp only [List.mem_cons, List.not_mem_nil, or_false] at h
  rcases h with rfl | rfl | rfl | rfl <;> exact asked_of (by decide +kernel)
theorem witness_EnableAndDisableByLineState : (∀ st ∈ ([.disabled, .idle, .answering, .detecting, .dialog, .rejecting,
      .draining, .hangup, .lockout] : List LineState),
    (asking [0x11, 1, 3] (line3 fun l => { l with state := st })).Asked 0x11 1 [3]
    ∧ (asking [0x12, 1, 3] (line3 fun l => { l with state := st })).Asked 0x12 1 [3]
    ∧ ((line3 fun l => { l with state := st }).line 3).state = st
    ∧ (asking [0x12, 1, 48]).Asked 0x12 1 [48] ∧ (asking [0x11, 1, 48]).Asked 0x11 1 [48])
    ∧ (asking [0x12, 1, 12]).Asked 0x12 1 [12] ∧ (klein.line 12).state.metered = true
    ∧ (klein.line 12).session = some kleinSession ∧ klein.tariff = some tariff
    ∧ klein.account? kleinSession.meter.account = some kleinAccount
    ∧ klein.stateOfBudget (clampBudget (800 - (roundingUnitOf .nearest 17000 : Nat))) 0 1 = .normal
    ∧ (klein.line 12).unit.speed ≠ none ∧ klein.textFor 10 (some 799) (some 42) ≠ [] := by
  refine ⟨fun st h => ?_, asked_of (by decide +kernel), by decide +kernel⟩
  simp only [List.mem_cons, List.not_mem_nil, or_false] at h
  rcases h with rfl | rfl | rfl | rfl | rfl | rfl | rfl | rfl | rfl <;>
    exact ⟨asked_of (by decide +kernel), asked_of (by decide +kernel), by decide +kernel, asked_of (by decide +kernel),
      asked_of (by decide +kernel)⟩
theorem witness_LineStatusShowsTheLineAndClearsTallies :
    (asking [0x13, 1, 12]).Asked 0x13 1 [12] ∧ (klein.line 12).state.metered = true
    ∧ (klein.line 12).session = some kleinSession ∧ (asking [0x13, 1, 47]).Asked 0x13 1 [47]
    ∧ (klein.line 47).state = .hangup ∧ (asking [0x13, 1, 48]).Asked 0x13 1 [48] :=
  ⟨asked_of (by decide +kernel), by decide +kernel, by decide +kernel, asked_of (by decide +kernel), by decide +kernel,
    asked_of (by decide +kernel)⟩
/-- `dialogs` with text 14 loaded. -/
def announcing : State := { dialogs with texts := dialogs.texts.set 14 (asciiBytes "CLOSING ~") }
theorem witness_BroadcastReachesDialogAndSessions :
    (asking [0x14, 1, 14] announcing).Asked 0x14 1 [14] ∧ (asking [0x14, 1, 15]).Asked 0x14 1 [15]
    ∧ (asking [0x14, 1, 13]).Asked 0x14 1 [13] ∧ (announcing.line 12).session = some kleinSession
    ∧ (announcing.line 12).unit.speed ≠ none ∧ (announcing.line 3).state = .dialog
    ∧ (announcing.line 3).unit.speed ≠ none ∧ announcing.textFor 14 none none ≠ [] :=
  ⟨asked_of (by decide), asked_of (by decide), asked_of (by decide), by decide +kernel⟩

/-- The fields of LOAD ACCOUNT of a name at the ends of its ranges. -/
def loadFields (n : Name) (budget : BitVec 32) : List Byte :=
  padName n ++ be32 (7#32).toNat ++ [byteOf (1 : Cls).val] ++ be32 budget.toNat ++ be32 1000000
    ++ [byteOf 4, AcctState.opened.code, byteOf 15] ++ []
/-- The table full. -/
def tableFull : State := { klein with accounts := List.replicate 1024 kleinAccount }
theorem witness_LoadAccountAddsOrReplaces :
    NameGood otherName ∧ NameGood kleinName ∧ klein.account? otherName = none ∧ klein.accounts.length < 1024
    ∧ (asking (0x18 :: 1 :: loadFields otherName 500)).Asked 0x18 1 (loadFields otherName 500)
    ∧ tableFull.account? otherName = none ∧ 1024 ≤ tableFull.accounts.length
    ∧ (asking (0x18 :: 1 :: loadFields otherName 500) tableFull).Asked 0x18 1 (loadFields otherName 500)
    ∧ klein.account? kleinName = some kleinAccount ∧ klein.GraceGiven
    ∧ (∀ budget ∈ ([500, 50, -1000001] : List (BitVec 32)),
      (asking (0x18 :: 1 :: loadFields kleinName budget)).Asked 0x18 1 (loadFields kleinName budget))
    ∧ klein.stateOfBudget (500#32).toInt 1000000 1 = .normal ∧ klein.stateOfBudget (50#32).toInt 1000000 1 = .warned
    ∧ klein.stateOfBudget (-1000001#32).toInt 1000000 1 = .exhausted := by
  refine ⟨other_name_good, klein_name_good, by decide +kernel, by decide +kernel, asked_of (by decide +kernel),
    List.find?_eq_none.2 fun a h => ?_, by rw [tableFull, List.length_replicate], asked_of (by decide +kernel),
    by decide +kernel, ⟨tariff, by decide +kernel, by decide⟩, fun budget h => ?_, by decide +kernel, by decide +kernel,
    by decide +kernel⟩
  · rw [List.eq_of_mem_replicate h]; decide +kernel
  · simp only [List.mem_cons, List.not_mem_nil, or_false] at h
    rcases h with rfl | rfl | rfl <;> exact asked_of (by decide +kernel)
/-- A well-formed name's field names it, so a field that names nothing is no name's field. -/
theorem not_padName_of {field : List Byte} (h : nameOf field = none) (n : Name) (hn : NameGood n) :
    field ≠ padName n := by
  rintro rfl
  have hsp : ∀ c ∈ n, (decide (c ≠ chSP)) = true := fun c hc => by
    have := hn.chars c hc
    refine decide_eq_true ?_
    rintro rfl
    exact absurd this (by decide)
  have hpad : padName n = n ++ List.replicate (8 - n.length) chSP := by
    have := hn.short
    unfold padName
    rw [List.take_append, List.take_of_length_le this, List.take_replicate, min_eq_left (by omega)]
  have hrep : ∀ k : Nat, (List.replicate k chSP).takeWhile (fun c => decide (c ≠ chSP)) = [] := by
    intro k; cases k <;> simp [List.replicate_succ]
  have htake : (padName n).takeWhile (fun c => decide (c ≠ chSP)) = n := by
    rw [hpad, List.takeWhile_append_of_pos hsp, hrep, List.append_nil]
  unfold nameOf at h
  simp only [htake] at h
  rw [if_pos ⟨hn.nonempty, List.all_eq_true.2 hn.chars, by rw [hpad]; simp⟩] at h
  cases h
theorem witness_AccountFieldsAreChecked :
    (∀ field ∈ ([asciiBytes " KLEIN  ", asciiBytes "KL-EIN  ", asciiBytes "KL EIN  "] : List (List Byte)),
      field.length = 8 ∧ (∀ n, NameGood n → field ≠ padName n) ∧ 16 ≤ (List.replicate 16 (0 : Byte)).length
      ∧ (asking (0x18 :: 1 :: (field ++ List.replicate 16 0))).Asked 0x18 1 (field ++ List.replicate 16 0))
    ∧ NameGood otherName ∧ klein.account? otherName = none
    ∧ (asking ([0x19, 1] ++ padName otherName)).Asked 0x19 1 (padName otherName ++ [])
    ∧ (1000000#32).toInt.natAbs ≤ 1000000
    ∧ (asking ([0x1A, 1] ++ padName otherName ++ be32 1000000)).Asked 0x1A 1
      (padName otherName ++ be32 (1000000#32).toNat ++ [])
    ∧ (asking ([0x1C, 1] ++ padName otherName ++ [2])).Asked 0x1C 1 (padName otherName ++ [AcctState.suspended.code] ++ [])
    ∧ ∀ p ∈ ([(4, 1000000, 1, 0, 0), (3, 1000001, 1, 0, 0), (3, 0, 0, 0, 0), (3, 0, 5, 0, 0), (3, 0, 4, 3, 0),
        (3, 0, 4, 2, 16)] : List (Byte × Nat × Byte × Byte × Byte)), p.2.1 < 4294967296
      ∧ (asking (0x18 :: 1 :: (padName otherName ++ be32 (7#32).toNat ++ [p.1] ++ be32 (5#32).toNat ++ be32 p.2.1
        ++ [p.2.2.1, p.2.2.2.1, p.2.2.2.2] ++ []))).Asked 0x18 1 (padName otherName ++ be32 (7#32).toNat ++ [p.1]
          ++ be32 (5#32).toNat ++ be32 p.2.1 ++ [p.2.2.1, p.2.2.2.1, p.2.2.2.2] ++ []) := by
  refine ⟨fun field h => ?_, other_name_good, by decide +kernel, asked_of (by decide +kernel), by decide,
    asked_of (by decide +kernel), asked_of (by decide +kernel), fun p h => ?_⟩
  all_goals simp only [List.mem_cons, List.not_mem_nil, or_false] at h
  · rcases h with rfl | rfl | rfl <;>
      exact ⟨by decide, not_padName_of (by decide +kernel), by decide, asked_of (by decide +kernel)⟩
  · rcases h with rfl | rfl | rfl | rfl | rfl | rfl <;> exact ⟨by decide, asked_of (by decide +kernel)⟩
theorem witness_DeleteReadAndSetStateOfAccount :
    NameGood kleinName ∧ klein.account? kleinName = some kleinAccount ∧ 0 < kleinAccount.active
    ∧ (∀ k ∈ ([0x19, 0x1B] : List Byte), (asking ([k, 1] ++ kleinField)).Asked k 1 (padName kleinName ++ []))
    ∧ (account1 fun a => { a with active := 0 }).account? kleinName = some { kleinAccount with active := 0 }
    ∧ (asking ([0x19, 1] ++ kleinField) (account1 fun a => { a with active := 0 })).Asked 0x19 1 (padName kleinName ++ [])
    ∧ (klein.sessionsOf kleinName).length ≤ 4
    ∧ ∀ b ∈ ([0, 2, 3] : List Byte), (asking ([0x1C, 1] ++ kleinField ++ [b])).Asked 0x1C 1 (padName kleinName ++ [b] ++ [])
    := by
  refine ⟨klein_name_good, by decide +kernel, by decide, fun k h => ?_, by decide +kernel, asked_of (by decide +kernel),
    by decide +kernel, fun b h => ?_⟩
  all_goals simp only [List.mem_cons, List.not_mem_nil, or_false] at h
  · rcases h with rfl | rfl <;> exact asked_of (by decide +kernel)
  · rcases h with rfl | rfl | rfl <;> exact asked_of (by decide +kernel)
/-- CREDIT ACCOUNT KLEIN. -/
def crediting (amount : BitVec 32) (s : State := klein) : State :=
  asking ([0x1A, 1] ++ kleinField ++ be32 amount.toNat) s
/-- The four ways of the statement: no transition, into WARNED, into EXHAUSTED and out of it, and an amount beyond. -/
theorem witness_CreditAccountActsOnBudgetAndSessions :
    NameGood kleinName
    ∧ (∀ amount ∈ ([5, -701, -801, 1000001] : List (BitVec 32)),
      (crediting amount).Asked 0x1A 1 (padName kleinName ++ be32 amount.toNat ++ []))
    ∧ (crediting 50 exhausted12).Asked 0x1A 1 (padName kleinName ++ be32 (50#32).toNat ++ [])
    ∧ klein.account? kleinName = some kleinAccount
    ∧ klein.stateOfBudget 99 0 1 = .warned ∧ klein.stateOfBudget (-1) 0 1 = .exhausted ∧ klein.stateOfBudget 805 0 1 = .normal
    ∧ exhausted12.stateOfBudget 34 10 1 = .warned ∧ klein.sessionsOf kleinName = [12]
    ∧ (klein.line 12).unit.speed ≠ none ∧ klein.tariff = some tariff ∧ tariff.grace ≠ 0 := by
  refine ⟨klein_name_good, fun k h => ?_, asked_of (by decide +kernel), by decide +kernel⟩
  simp only [List.mem_cons, List.not_mem_nil, or_false] at h
  rcases h with rfl | rfl | rfl | rfl <;> exact asked_of (by decide +kernel)

theorem stale_of (tag : Nat) (h : ∀ i : LineId, i.val = tag / 256 →
    (klein.line i).session = none ∨ (klein.line i).generation.toNat ≠ tag % 256) (body : List Byte) :
    (asking body).Stale tag := h
theorem witness_OutputAppendsWhatFits :
    (3077 < 65536 ∧ (12 : LineId).val = 3077 / 256 ∧ (klein.line 12).session ≠ none
      ∧ (klein.line 12).generation.toNat = 3077 % 256)
    ∧ (∀ n ∈ [0, 256, 257], (asking ([0x20, 1] ++ be16 3077 ++ be16 n ++ List.replicate n 0x41)).Asked 0x20 1
      (be16 3077 ++ be16 (List.replicate n (0x41 : Byte)).length ++ List.replicate n 0x41 ++ []))
    ∧ (asking ([0x20, 1] ++ be16 3078 ++ be16 0)).Asked 0x20 1 (be16 3078 ++ be16 ([] : List Byte).length ++ [] ++ [])
    ∧ (asking ([0x20, 1] ++ be16 3078 ++ be16 0)).Stale 3078 := by
  refine ⟨by decide +kernel, fun n h => ?_, asked_of (by decide +kernel), stale_of _ (by decide +kernel) _⟩
  simp only [List.mem_cons, List.not_mem_nil, or_false] at h
  rcases h with rfl | rfl | rfl <;> exact asked_of (by decide +kernel)
/-- SET SESSION with echo off, no attention, both pacings as given. -/
def setFields (tag : Nat) (op ip : Byte) : List Byte := be16 tag ++ [0, 4, 1, 2, 3, 4, 0, 0, 0, op, ip] ++ []
theorem witness_SetSessionReplacesTheCopies :
    (∀ p ∈ ([(3077, 1, 0), (3077, 0, 1), (3077, 2, 2), (65535, 1, 1)] : List (Nat × Byte × Byte)), p.1 < 65536
      ∧ (asking (0x21 :: 1 :: setFields p.1 p.2.1 p.2.2)).Asked 0x21 1 (setFields p.1 p.2.1 p.2.2))
    ∧ (asking (0x21 :: 1 :: setFields 65535 1 1)).Stale 65535 ∧ (klein.line 12).session = some kleinSession
    ∧ (klein.line 12).generation.toNat = 3077 % 256 := by
  refine ⟨fun n h => ?_, stale_of _ (by decide +kernel) _, by decide +kernel⟩
  simp only [List.mem_cons, List.not_mem_nil, or_false] at h
  rcases h with rfl | rfl | rfl | rfl <;> exact ⟨by decide, asked_of (by decide +kernel)⟩
/-- `klein` with the charge level armed. -/
def armed (level : Nat) : State :=
  { klein with chargeArmed := true, link := { klein.link with chargeLevel := level } }
theorem witness_EndSessionRunsTheEndSequence :
    (∀ p ∈ ([(3077, 0), (3077, 1), (3077, 2), (3078, 1)] : List (Nat × Byte)), p.1 < 65536
      ∧ (asking ([0x22, 1] ++ be16 p.1 ++ [p.2])).Asked 0x22 1 (be16 p.1 ++ [p.2] ++ []))
    ∧ (asking ([0x22, 1] ++ be16 3078 ++ [1])).Stale 3078
    ∧ (∀ level ∈ [1, 2], (asking ([0x22, 1] ++ be16 3077 ++ [0]) (armed level)).Asked 0x22 1 (be16 3077 ++ [0] ++ [])
      ∧ (armed level).chargeArmed = true)
    ∧ (klein.line 12).session = some kleinSession
    ∧ klein.tariff = some tariff ∧ klein.account? kleinSession.meter.account = some kleinAccount
    ∧ klein.stateOfBudget (clampBudget (800 - (roundingUnitOf .nearest 17000 : Nat))) 0 1 = .normal
    ∧ klein.textFor 10 (some 799) (some 42) ≠ []
    ∧ (armed 1).link.chargeLevel ≤ klein.store.count + 1 ∧ klein.store.count + 1 < (armed 2).link.chargeLevel
    ∧ klein.chargeArmed = false := by
  refine ⟨fun n h => ?_, stale_of _ (by decide +kernel) _, fun n h => ?_, by decide +kernel⟩
  all_goals simp only [List.mem_cons, List.not_mem_nil, or_false] at h
  · rcases h with rfl | rfl | rfl | rfl <;> exact ⟨by decide, asked_of (by decide +kernel)⟩
  · rcases h with rfl | rfl <;> exact ⟨asked_of (by decide +kernel), by decide +kernel⟩
/-- R154: the append that reaches the armed level. -/
theorem test_endSession_reaches_charge_level :
    after .endSession (asking ([0x22, 1] ++ be16 3077 ++ [0]) (armed 1)) (fun t =>
      decide (t.chargeArmed = false ∧ t.link.chargesPending.map (·.count) = some 1)) = true
    ∧ after .endSession (asking ([0x22, 1] ++ be16 3077 ++ [0]) (armed 2)) (fun t =>
      decide (t.chargeArmed = true ∧ t.link.chargesPending = none)) = true := by decide +kernel
/-- `klein` after its session's END SESSION: one record, read by the host or not. -/
def oneRecord (mark : Nat) : State :=
  { klein with
    store := (klein.store.append 12 (newCheckpoint 12 kleinSession.meter 4) .requested false)
    lines := State.reset.lines, accounts := [], readMark := mark }
theorem witness_ChargesAreReadAndReleased :
    (∀ count ∈ ([0, 1, 8, 9] : List Byte), (asking [0x28, 1, count] (oneRecord 0)).Asked 0x28 1 (count :: []))
    ∧ (asking ([0x29, 1] ++ be16 2) (oneRecord 1)).Asked 0x29 1 (be16 2 ++ []) ∧ min 2 (oneRecord 1).readMark ≠ 0
    ∧ (asking ([0x29, 1] ++ be16 2) (oneRecord 0)).Asked 0x29 1 (be16 2 ++ []) ∧ min 2 (oneRecord 0).readMark = 0 := by
  refine ⟨fun count h => ?_, asked_of (by decide +kernel), by decide +kernel, asked_of (by decide +kernel), by decide +kernel⟩
  simp only [List.mem_cons, List.not_mem_nil, or_false] at h
  rcases h with rfl | rfl | rfl | rfl <;> exact asked_of (by decide +kernel)
/-- A record and its charge; the store of one record, and the empty one. -/
theorem witness_RetainedMemoryLayout :
    (∀ st ∈ [(oneRecord 1).store, Store.emptied], st.count < 65536 ∧ st.oldest < 65536 ∧ st.integrity < 65536
      ∧ st.records.length = st.count ∧ st.count < 2048 ∧ st.oldest < 2048)
    ∧ 1 ≤ (oneRecord 1).store.count
    ∧ ∀ r ∈ (oneRecord 1).store.records, r.charge.account.length ≤ 8 ∧ r.charge.startSecond < 86400
      ∧ r.charge.endSecond < 86400 ∧ r.charge.seconds < 4294967296 ∧ r.charge.units < 4294967296 := by
  decide +kernel
/-- Section 9.9: 1,500 records, the oldest in slot 1,900, next serial 40,120. -/
theorem test_header_bytes : (Store.emptied.writeHeader 1500 1900 40120).headerBytes
    = [0x05, 0xDC, 0x07, 0x6C, 0x00, 0x00, 0x9C, 0xB8, 0x55, 0xFF] := by decide +kernel
/-- R173: serial, end reason and RECOVERED are 0 in a checkpoint entry, 35 bytes long. -/
theorem test_checkpoint_bytes : (klein.store.entryBytes 12).map (fun b => (b.take 13, b[15]?, b.drop 30))
    = some ([0, 0, 0, 0] ++ kleinField ++ [1], some 0, [0, 0, 0, 5, 0]) := by decide +kernel

/-- `klein` with its receiver in a state. -/
def receiving (r : Receiver) : State := { klein with link := { klein.link with receiver := r } }
theorem witness_ReceiverTakesFramesOutOfBytes :
    (∀ service ∈ ([.closed, .opened, .linkLost, .powerdown] : List Service),
      { klein with service := service }.mode = .running ∧ { klein with service := service }.link.receiver = .hunting)
    ∧ 2 ≤ ([0x01, 1] : List Byte).length ∧ (List.replicate 400 (0 : Byte)).length ≤ 400 ∧ klein.link.intake.length < 4
    ∧ (∀ b ∈ ([0x00, 0xA4] : List Byte), b ≠ 0xA5)
    ∧ (receiving (.length [])).mode = .running ∧ (receiving (.length [])).link.receiver ≠ .hunting
    ∧ (receiving .hunting).link.receiver = .hunting ∧ (receiving (.length [0])).link.receiver = .length [0]
    ∧ (0 : Byte).toNat * 256 + (1 : Byte).toNat < 2 ∧ 400 < (1 : Byte).toNat * 256 + (0x91 : Byte).toNat
    ∧ (receiving (.body 0 2 [0x01, 1, 0])).link.receiver = .body 0 2 ([0x01, 1] ++ [0])
    ∧ ([0x01, 1] : List Byte).length = (0 : Byte).toNat * 256 + (2 : Byte).toNat
    ∧ be16 (crc [0, 2, 0x01, 1]).toNat ≠ [0, 0] := by decide +kernel
/-- `klein` with its link changed. -/
def linked (f : Link → Link) (s : State := klein) : State := { s with link := f s.link }
theorem klein_nothing_ahead : klein.NothingAhead :=
  ⟨rfl, rfl, rfl, rfl, rfl, .inr rfl⟩
theorem silent_of {s : State} {i : LineId} (h : (s.line i).reports = LineReports.clear) : s.Silent i := by
  unfold State.Silent; rw [h]; exact ⟨.inl rfl, .inr rfl, rfl, rfl, .inr rfl⟩
theorem klein_clear (i : LineId) : (klein.line i).reports = LineReports.clear := by revert i; decide +kernel
theorem klein_silent (i : LineId) : klein.Silent i := silent_of (klein_clear i)
theorem witness_ArbiterSendsReadyRepliesServiceEvents :
    State.reset.mode = .running ∧ State.reset.link.ready ≠ none ∧ full.link.ready = none ∧ full.link.replies ≠ []
    ∧ klein.link.replies = [] ∧ klein.link.powerWarning = none ∧ klein.link.linkLost = none
    ∧ klein.link.linkRestored = none ∧ klein.link.mask.chargeLevel = false
    ∧ (linked fun k => { k with powerWarning := some ⟨1, 0⟩ }).link.powerWarning ≠ none
    ∧ (linked fun k => { k with linkLost := some ⟨255, 2⟩ }).link.linkLost ≠ none
    ∧ (linked fun k => { k with linkRestored := some ⟨1, 48⟩ }).link.linkRestored ≠ none
    ∧ (linked fun k => { k with chargesPending := some ⟨1, 0⟩ }).link.chargesPending ≠ none := by decide +kernel
theorem witness_ArbiterIsIdle : klein.NothingAhead ∧ (∀ i, klein.Silent i)
    ∧ klein.link.budgetOrder = [] ∧ ∀ i ses, (klein.line i).session = some ses → ses.held = none := by
  refine ⟨klein_nothing_ahead, klein_silent, by decide +kernel, fun i ses h => ?_⟩
  by_cases hi : i = 12
  · subst hi; obtain rfl : kleinSession = ses := Option.some.inj h; rfl
  · rw [klein_session i hi] at h; cases h
/-- `klein` with the reports of line 3, the fourth line after the pointer 47. -/
def reporting (r : LineReports) : State := line3 fun l => { l with reports := r }
theorem ahead_of (s : State) (h : s.link = klein.link) : s.NothingAhead := by
  obtain ⟨h1, h2, h3, h4, h5, h6⟩ := klein_nothing_ahead
  rw [← h] at h1 h2 h3 h4 h5 h6
  exact ⟨h1, h2, h3, h4, h5, h6⟩
theorem reporting_before (r : LineReports) : ∀ k < 3, ∀ j : LineId,
    j.val = ((reporting r).link.linePtr.val + 1 + k) % 48 → (reporting r).Silent j := by
  intro k hk j hj
  have hp : (reporting r).link.linePtr.val = 47 := rfl
  rw [hp] at hj
  have h3 : j ≠ 3 := by intro h; subst h; simp at hj; omega
  have : (reporting r).line j = klein.line j := by
    unfold reporting line3 State.updLine
    simp only [State.line, State.setLine]
    exact Vector.getElem_set_ne _ _ fun h => h3 (Fin.ext h.symm)
  exact silent_of (by rw [this]; exact klein_clear j)
theorem reporting_is (r : LineReports) : ((reporting r).line 3).reports = r := rfl
/-- One report of each kind, and the reports of a line as they leave one after another. -/
def allReports : LineReports :=
  ⟨some ⟨774, .requested, 40117, 42, 1260, 3⟩, some ⟨.refused, 255, 4⟩, some ⟨775, kleinName, 1, 4, 14, 0, []⟩,
    some ⟨775, 1, 65535, 0⟩, some ⟨775, 128⟩⟩
def reportCases : List LineReports :=
  [allReports, { allReports with signon := none }, { allReports with ended := none },
    { allReports with ended := none, event := none }, { allReports with ended := none, event := none, signon := none },
    ⟨none, none, none, none, some ⟨775, 128⟩⟩]
/-- The reports of line 3, its END held back by the SIGNON of line 12. -/
def heldBack (r : LineReports) : State := line12 (fun l => { l with reports := { l.reports with
  signon := some ⟨3077, kleinName, 1, 4, 14, 0, [3, 12]⟩ } }) (reporting r)
theorem witness_ArbiterSendsLineReports_held : ∀ r ∈ reportCases.drop 1,
    (heldBack r).NothingAhead ∧ (heldBack r).EndHeldBack 3 ∧ ((heldBack r).line 3).reports = r
    ∧ ∀ k < 3, ∀ j : LineId, j.val = ((heldBack r).link.linePtr.val + 1 + k) % 48 → (heldBack r).Silent j := by
  refine fun r _ => ⟨ahead_of _ rfl, ⟨12, _, rfl, by decide⟩, rfl, fun k hk j hj => silent_of ?_⟩
  have hp : (heldBack r).link.linePtr.val = 47 := rfl
  rw [hp] at hj
  obtain rfl | rfl | rfl : k = 0 ∨ k = 1 ∨ k = 2 := by omega
  · obtain rfl : j = 0 := Fin.ext hj
    rfl
  · obtain rfl : j = 1 := Fin.ext hj
    rfl
  · obtain rfl : j = 2 := Fin.ext hj
    rfl
/-- R72 against R162: of an END held back and a LINE EVENT, the LINE EVENT goes; alone, the END waits for the SIGNON. -/
theorem test_held_end_waits :
    (([{ allReports with signon := none }, { LineReports.clear with ended := allReports.ended }] : List LineReports).map
      fun r => after .arbiterChoice (heldBack r) fun t => decide ((t.line 3).reports.ended = r.ended
        ∧ (t.line 3).reports.event = none ∧ ((t.line 12).reports.signon = none ↔ r.event = none))) = [true, true] := by
  decide +kernel
theorem reporting_free (r : LineReports) (h : r.signon = none) : ¬ (reporting r).EndHeldBack 3 := by
  rintro ⟨k, f, hf, -⟩
  by_cases hk : k = 3
  · subst hk; rw [reporting_is, h] at hf; cases hf
  · have : (reporting r).line k = klein.line k := by
      unfold reporting line3 State.updLine
      simp only [State.line, State.setLine]
      exact Vector.getElem_set_ne _ _ fun h' => hk (Fin.ext h'.symm)
    rw [this, klein_clear] at hf
    cases hf
theorem witness_ArbiterSendsLineReports : ∀ r ∈ reportCases,
    (r.signon = none → ¬ (reporting r).EndHeldBack 3) ∧ (reporting r).mode = .running ∧ (reporting r).NothingAhead ∧ 3 < 48
    ∧ (3 : LineId).val = ((reporting r).link.linePtr.val + 1 + 3) % 48
    ∧ (∀ k < 3, ∀ j : LineId, j.val = ((reporting r).link.linePtr.val + 1 + k) % 48 →
      (reporting r).Silent j)
    ∧ r = ((reporting r).line 3).reports ∧ ((reporting r).line 3).state = .hangup
    ∧ (reporting r).link.mask = ⟨false, false, false, false⟩ :=
  fun r _ => ⟨reporting_free r, by rfl, ahead_of _ rfl, by decide, by change 3 = (47 + 1 + 3) % 48; decide, reporting_before r, rfl, by rfl,
    by rfl⟩
/-- `klein` with KLEIN's BUDGET flag set, and with a held buffer behind a CLOSED one. -/
def noticing : State :=
  linked (fun k => { k with budgetOrder := [kleinName] }) (account1 fun a => { a with notice := some ⟨800, .normal, 1⟩ })
def holding : State :=
  session12 fun ses => { ses with held := some ⟨asciiBytes "HI", .fwdChar⟩, closed := some .fwdChar }
theorem holding_line (i : LineId) (h : i ≠ 12) : holding.line i = klein.line i := by
  unfold holding session12 State.updLine
  simp only [State.line, State.setLine]
  exact Vector.getElem_set_ne _ _ fun h' => h (Fin.ext h'.symm)
theorem witness_ArbiterSendsBudgetNoticesAndLineData :
    (noticing.mode = .running ∧ noticing.link.mask.budget = false ∧ noticing.link.budgetOrder = kleinName :: []
      ∧ noticing.account? kleinName = some { kleinAccount with notice := some ⟨800, .normal, 1⟩ })
    ∧ noticing.NothingAhead ∧ (∀ i, noticing.Silent i)
    ∧ holding.NothingAhead ∧ (∀ i, holding.Silent i) ∧ holding.link.budgetOrder = []
    ∧ 12 < 48 ∧ (12 : LineId).val = (holding.link.dataPtr.val + 1 + 12) % 48
    ∧ (∀ k < 12, ∀ j : LineId, j.val = (holding.link.dataPtr.val + 1 + k) % 48 →
      ∀ other, (holding.line j).session = some other → other.held = none) := by
  refine ⟨by decide +kernel, ⟨rfl, rfl, rfl, rfl, rfl, .inr rfl⟩,
    fun i => silent_of (klein_clear i), ahead_of _ rfl, fun i => silent_of (by revert i; decide +kernel),
    by decide +kernel, by decide, by decide +kernel, fun k hk j hj other h => ?_⟩
  have hp : holding.link.dataPtr.val = 47 := by decide +kernel
  rw [hp] at hj
  have h12 : j ≠ 12 := by intro e; subst e; simp at hj; omega
  rw [holding_line j h12, klein_session j h12] at h
  cases h
theorem witness_HostSilenceLosesTheLink :
    (linked (fun k => { k with action := .hangup }) dialogs).AllLines Line.SessionRight
    ∧ (linked (fun k => { k with action := .hangup }) dialogs).StoreRight
    ∧ klein.mode = .running ∧ klein.service = .opened ∧ klein.link.monitor ≠ none ∧ klein.link.action = .refuse
    ∧ (linked (fun k => { k with action := .hangup }) dialogs).link.action = .hangup
    ∧ (dialogs.line 3).state = .dialog ∧ State.reset.link.monitor = none :=
  ⟨(dialogs_right []).1, have h := (dialogs_right []).2
    ⟨h.good, h.counted, h.serials, h.room, h.mark, h.entries⟩, by decide +kernel⟩
/-- R166: a SET MONITOR taken in LINK_LOST does not undo the action applied at the expiry. -/
theorem test_setMonitor_applies_at_next_expiry :
    after .hostSilenceExpiry (linked (fun k => { k with action := .none })) (fun t =>
      after .setMonitor (asking ([0x09, 1, 30, 2, 0, 0, 0, 0] ++ be16 0) t) (fun u =>
        decide (u.link.action = .hangup ∧ u.link.applied = .none) && u.admits)) = true := by decide +kernel
theorem witness_PowerFailWarningEndsEverything :
    klein.mode = .running ∧ klein.AllLines Line.SessionRight ∧ klein.StoreRight
    ∧ klein.service ≠ .powerdown ∧ { klein with service := .powerdown }.service = .powerdown :=
  ⟨by decide +kernel, klein_sessions, klein_store, by decide +kernel, rfl⟩
theorem witness_StartUpsRestoreAndRecover :
    klein.StoreRight ∧ klein.mode ≠ .unpowered ∧ { klein with service := .powerdown }.mode = .running
    ∧ (allLines.filterMap fun i => klein.store.checkpoints.get i).length = 1
    ∧ { klein with store := Store.bad }.store.headerGood = false :=
  ⟨klein_store, by decide +kernel⟩
theorem witness_HoldAndPowerLossKeepTheStore :
    klein.mode ≠ .unpowered ∧ { klein with mode := .unpowered }.mode = .unpowered
    ∧ { klein with mode := .inReset }.mode ≠ .running := by decide +kernel

theorem witness_RingAnswersAnIdleLine :
    klein.mode = .running ∧ klein.service = .opened ∧ ((line3 fun l => { l with state := .idle }).line 3).state = .idle
    ∧ (klein.line 3).state ≠ .idle
    ∧ ((line3 fun l => { l with state := .answering, carrierWait := some 0 }).line 3).state = .answering
    ∧ ((line3 fun l => { l with state := .answering, carrierWait := some 0 }).line 3).carrierWait ≠ none := by
  decide +kernel
/-- `klein` with line 3 in ANSWERING in a mode. -/
def answering (mode : Mode) (s : State := klein) : State :=
  line3 (fun l => { l with state := .answering, dtr := true, config := { l.config with mode := mode } }) s
theorem witness_CarrierBringsDetectionOrDialog :
    ((answering .auto).line 3).state = .answering ∧ ((answering .auto).line 3).cd = false
    ∧ ((answering .auto).line 3).config.mode = .auto ∧ ((answering .fixed).line 3).config.mode = .fixed
    ∧ (answering .fixed).Admits ∧ ((answering .fixed).line 3).dialog.timer = .stopped
    ∧ (answering .fixed).textFor 0 none none ≠ [] ∧ ¬ (answering .fixed State.reset).Admits
    ∧ ((answering .fixed State.reset).line 3).cd = false ∧ State.reset.textFor 6 none none ≠ []
    ∧ (klein.line 12).state.watched = true := by
  unfold State.Admits; decide +kernel
theorem witness_CarrierLossHangsUpOrEndsTheSession :
    klein.mode = .running ∧ (klein.line 12).state.watched = true ∧ (klein.line 12).carrierLoss = none
    ∧ (dialogs.line 3).state.watched = true ∧ (dialogs.line 3).state.metered = false
    ∧ ((line12 fun l => { l with carrierLoss := some 0 }).line 12).carrierLoss ≠ none
    ∧ ((line12 fun l => { l with carrierLoss := some 0 }).line 12).state.metered = true
    ∧ ((line12 fun l => { l with carrierLoss := some 0 }).line 12).session = some kleinSession
    ∧ klein.tariff = some tariff ∧ klein.account? kleinSession.meter.account = some kleinAccount
    ∧ klein.stateOfBudget (clampBudget (800 - (roundingUnitOf .nearest 17000 : Nat))) 0 1 = .normal := by
  decide +kernel
theorem witness_TimersMoveTheLineOn :
    (klein.line 3).state = .hangup ∧ (klein.line 3).guard ≠ none ∧ (klein.line 3).cd = false
    ∧ (klein.line 3).disablePending = false ∧ (klein.line 3).lockoutDue = false
    ∧ ((line3 fun l => { l with guard := none, cd := true, lockoutDue := true }).line 3).config.lockout ≠ 0
    ∧ ((line3 fun l => { l with disablePending := true }).line 3).disablePending = true
    ∧ ((line3 fun l => { l with state := .lockout, lockout := some 0 }).line 3).lockout ≠ none
    ∧ ((line3 fun l => { l with state := .draining, drain := some 0 }).line 3).drain ≠ none
    ∧ ((line3 fun l => { l with state := .rejecting, dialog := { l.dialog with rejecting := some 0 } }).line 3).state
      = .rejecting := by decide +kernel

/-- `klein` with line 3 in DETECTING, its detector as given. -/
def detecting (f : Detector → Detector) (s : State := klein) : State :=
  line3 (fun l => { l with state := .detecting, dtr := true, detector := f (Detector.enter l.config) }) s
/-- Line 3 measuring, its intervals and current interval as given. -/
def measuring (runs : List Nat) (cur : Nat) (lv : Level) (s : State := klein) : State :=
  detecting (fun d => { d with phase := .measuring, intervals := runs, cur := cur, curLevel := lv }) s
theorem witness_DetectorMeasuresRuns :
    ((detecting id).line 3).state = .detecting ∧ ((detecting id).line 3).detector.phase = .arming
    ∧ ((measuring [] 0 .space).line 3).detector.phase = .measuring ∧ (Level.mark = Level.mark → 0 + 4095 < 4096)
    ∧ 8 ≤ 0 + 8 ∧ (List.replicate 23 8).length < 24 ∧ 0 + 7 ≤ 7
    ∧ ((measuring [128, 200] 0 .mark).line 3).detector.intervals = [128] ++ [200] ∧ 200 + (0 + 5) < 65535 := by
  decide +kernel
theorem witness_DetectionFailsByRule :
    ((measuring [128] 0 .space).line 3).detector.curLevel = .space
    ∧ 24 ≤ ((measuring (List.replicate 24 8) 0 .mark).line 3).detector.intervals.length ∧ 8 ≤ 0 + 8 ∧ 0 + 8 < 4096
    ∧ (∀ run ∈ [768], ∀ k : SpeedCode, inWindow k run = false)
    ∧ (∃ run ∈ [768, 128, 128], inWindow 4 run = true)
    ∧ (∀ j : SpeedCode, 4 < j → ∀ run ∈ [768, 128, 128], inWindow j run = false) ∧ readsCR 4 [768, 128, 128] = false
    ∧ ((measuring [768] 0 .mark).line 3).config.detAttempts = 4
    ∧ ((measuring [200, 65534] 0 .mark).line 3).detector.intervals = [200] ++ [65534] ∧ 65535 ≤ 65534 + (0 + 7)
    ∧ ((measuring [768, 4090] 0 .space).line 3).detector.intervals = [768] ++ [4090] ∧ 4096 ≤ 4090 + (0 + 6)
    ∧ ((detecting fun d => { d with attempts := 3 }).line 3).detector.attempts + 1 = 4
    ∧ ((detecting id).line 3).detector.timer ≠ none := by decide +kernel
/-- R25: the joined run of 65,534 and 7 samples fails NO_END with its count at the counter's end. -/
theorem test_joined_run_is_16_bits : after (.transition 3 7) (measuring [200, 65534] 0 .mark) (fun t =>
    decide ((t.line 3).detector.cur = 65535 ∧ (t.line 3).detector.last = .noEnd
      ∧ (t.line 3).tallies.detFailures = 1)) = true := by decide +kernel
/-- Line 3 measuring again after a BREAK in DIALOG, its dialog timer held, and its character a carriage return. -/
def reentering (s : State := klein) : State :=
  line3 (fun l => { l with dialog := { l.dialog with name := kleinName, attempts := 1, timer := .held 5000 } })
    (measuring [128, 128, 128, 256, 384] 0 .mark s)
theorem witness_CarriageReturnGivesTheSpeed :
    ((measuring [128, 128, 128, 256, 384] 0 .mark).line 3).detector.intervals = [128, 128, 128, 256, 384]
    ∧ ((measuring [128, 128, 128, 256, 384] 0 .mark).line 3).state = .detecting
    ∧ ((measuring [128, 128, 128, 256, 384] 0 .mark).line 3).detector.curLevel = .mark
    ∧ (∃ run ∈ [128, 128, 128, 256, 384], inWindow 4 run = true)
    ∧ (∀ j : SpeedCode, 4 < j → ∀ run ∈ [128, 128, 128, 256, 384], inWindow j run = false)
    ∧ ([128, 128, 128, 256, 384].map fun run => (2 * run + 128) / (2 * 128)) = [1, 1, 1, 2, 3]
    ∧ ([128, 128, 128, 256, 512].map fun run => (2 * run + 128) / (2 * 128)) = [1, 1, 1, 2, 4]
    ∧ (measuring [128, 128, 128, 256, 384] 0 .mark).Admits
    ∧ ¬ (measuring [128, 128, 128, 256, 384] 0 .mark State.reset).Admits
    ∧ (klein.line 3).dialog.timer = .stopped ∧ klein.textFor 0 none none ≠ [] ∧ State.reset.textFor 6 none none ≠ []
    ∧ reentering.Admits ∧ (reentering.line 3).dialog.timer = .held 5000 ∧ (reentering.line 3).state = .detecting
    ∧ (reentering.line 3).detector.intervals = [128, 128, 128, 256, 384] := by
  unfold State.Admits; decide +kernel
/-- R62: name and attempts kept, the timer running on, the name to be echoed. -/
theorem test_reentry_keeps_the_name : after (.endOfCharacter 3) reentering (fun t =>
    decide ((t.line 3).state = .dialog ∧ (t.line 3).dialog.name = kleinName ∧ (t.line 3).dialog.attempts = 1
      ∧ (t.line 3).dialog.timer = .running 5000 ∧ (t.line 3).dialog.nameEcho = kleinName)) = true := by decide +kernel

/-- `klein` with line 3 receiving in a state without session, the pacing copies of an ended session with it. -/
def sessionless (st : LineState) (pacing : Option (Bool × Bool)) : State :=
  line3 fun l => { l with state := st, endedPacing := pacing, unit := { l.unit with receiving := true, speed := some 4 } }
theorem witness_CharacterReceivedIsPacedOrStored :
    (klein.line 12).unit.receiving = true ∧ (klein.line 12).session = some kleinSession
    ∧ (klein.line 12).state.metered = true ∧ kleinSession.copies.outPacing = true
    ∧ kleinSession.copies.attention ≠ some (0x41 &&& 0x7F) ∧ (signingOn.line 3).session = none
    ∧ (signingOn.line 3).state = .dialog ∧ (signingOn.line 3).unit.receiving = true
    ∧ (klein.line 3).unit.receiving = false ∧ (klein.line 12).unit.fifo.length < 16
    ∧ ((line12 fun l => { l with unit := { l.unit with fifo := List.replicate 16 0x41 } }).line 12).unit.fifo.length = 16
    ∧ 8 ≤ ((line12 fun l => { l with unit := { l.unit with fifo := List.replicate 7 0x41 } }).line 12).unit.fifo.length + 1
    ∧ ((sessionless .draining (some (true, true))).line 3).session = none
    ∧ ((sessionless .draining (some (true, true))).line 3).state = .draining
    ∧ ((sessionless .draining (some (true, true))).line 3).endedPacing = some (true, true)
    ∧ ((sessionless .rejecting none).line 3).state = .rejecting
    ∧ ((sessionless .rejecting none).line 3).unit.receiving = true := by decide +kernel
/-- R35: a character received in DRAINING or REJECTING is discarded. -/
theorem test_character_discarded : ∀ st ∈ ([.draining, .rejecting] : List LineState),
    after (.characterReceived 3 0x41) (sessionless st (some (true, true))) (fun t =>
      decide ((t.line 3).unit.fifo = [] ∧ (t.line 3).tallies = (klein.line 3).tallies)) = true := by decide +kernel
theorem witness_AttentionDiscardsInputAndOutput :
    (klein.line 12).unit.receiving = true ∧ (klein.line 12).state.metered = true
    ∧ (klein.line 12).session = some kleinSession ∧ kleinSession.copies.attention = some 0x03
    ∧ (∀ bits ∈ ([0x03, 0x83] : List Byte), (0x03 : Byte) = charOf (klein.line 12).unit.format bits)
    ∧ parityWrong (klein.line 12).unit.format 0x03 = false ∧ parityWrong (klein.line 12).unit.format 0x83 = true
    ∧ (signingOn.line 3).state = .dialog ∧ (signingOn.line 3).config.mode = .auto
    ∧ (signingOn.line 3).dialog.timer = .running 7780
    ∧ ((line3 (fun l => { l with config := { l.config with mode := .fixed } }) signingOn).line 3).config.mode = .fixed := by
  decide +kernel
theorem witness_InputStoreFillsTheBuffer :
    (klein.line 12).session = some kleinSession ∧ (klein.line 12).state.metered = true ∧ kleinSession.closed = none
    ∧ ((line12 fun l => { l with unit := { l.unit with fifo := [0x0D] } }).line 12).unit.fifo = 0x0D :: []
    ∧ (klein.line 12).out.queue.length ≤ 512 ∧ 0x0D ∈ kleinSession.copies.fwdChars ∧ kleinSession.fwdTimer = none
    ∧ ({ kleinSession with fwdTimer := some 0 } : Session).fwdTimer ≠ none ∧ kleinSession.filling ≠ []
    ∧ 256 ≤ ({ kleinSession with filling := List.replicate 255 0x41 } : Session).filling.length + 1 := by decide +kernel
/-- Line 12 with its output as given. -/
def sending (o : Output) : State := line12 fun l => { l with out := o }
theorem witness_TransmitterTakesTheNextCharacter :
    (klein.line 12).unit.speed ≠ none ∧ (klein.line 12).state ≠ .rejecting ∧ (klein.line 12).state ≠ .draining
    ∧ (klein.line 12).unit.outputStopped = false ∧ (klein.line 12).dialog.promptDue = none
    ∧ ((sending { Output.atStart with control := some 0x13 }).line 12).out.control = some 0x13
    ∧ ((sending { Output.atStart with noticeCur := [0x41] }).line 12).out.noticeCur = 0x41 :: []
    ∧ ((sending { Output.atStart with noticeWait := [0x41] }).line 12).out.noticeWait = 0x41 :: []
    ∧ ((sending { Output.atStart with queue := List.replicate 129 0x41, armed := true }).line 12).out.queue
      = 0x41 :: List.replicate 128 0x41
    ∧ ((sending Output.atStart).line 12).out.queue = []
    ∧ ((line12 fun l => { l with unit := { l.unit with outputStopped := true } }).line 12).unit.outputStopped = true
    ∧ ((line12 fun l => { l with state := .draining, out := Output.atStart }).line 12).state = .draining := by
  decide +kernel

/-- Line 3's dialog after a re-entry, its notices as given. -/
def prompting (cur wait : List Byte) (placed : Option Prompt) : State :=
  line3 (fun l => { l with
    dialog := { l.dialog with phase := .name, name := kleinName, promptDue := some .user, nameEcho := kleinName }
    out := { l.out with noticeCur := cur, noticeWait := wait, waitPrompt := placed } }) signingOn
theorem witness_DuePromptIsPlacedInTheEmptySlot :
    (∀ p ∈ ([([0x0A], [], none), ([0x0D, 0x0A], [], none), ([], [0x55, 0x53], some .user), ([], [0x0D, 0x0A], none),
        ([], [0x0A], none)] : List (List Byte × List Byte × Option Prompt)),
      ((prompting p.1 p.2.1 p.2.2).line 3).out = { Output.atStart with
        noticeCur := p.1, noticeWait := p.2.1, waitPrompt := p.2.2 }
      ∧ ((prompting p.1 p.2.1 p.2.2).line 3).state = .dialog
      ∧ ((prompting p.1 p.2.1 p.2.2).line 3).dialog.promptDue = some .user)
    ∧ (signingOn.line 3).unit.speed ≠ none ∧ (signingOn.line 3).unit.outputStopped = false
    ∧ Output.atStart.control = none ∧ Output.atStart.queue.length + kleinName.length ≤ 512 := by decide +kernel
/-- Section 4.3: the slot emptied, the user prompt is placed, and the kept name echoed after it. -/
theorem test_prompt_placed : after (.transmitCharacter 3) (prompting [0x0A] [] none) (fun t =>
    decide ((t.line 3).out.noticeWait = klein.textFor 1 none none ∧ (t.line 3).out.queue = kleinName
      ∧ (t.line 3).dialog.promptDue = some .user ∧ (t.line 3).dialog.nameEcho = [])) = true := by decide +kernel
/-- Line 3 in DIALOG with a character to take. -/
def typing (ch : Byte) (f : Dialog → Dialog) : State :=
  line3 (fun l => { l with unit := { l.unit with fifo := [ch] }, dialog := f l.dialog }) signingOn
theorem witness_DialogTakesNameAndPassword :
    (∀ ch ∈ ([0x61, 0x7A, 0x39, 0x08, 0x7F, 0x0D, 0x20] : List Byte), ∀ name ∈ [kleinName, []],
      ((typing ch fun d => { d with phase := .name, name := name }).line 3).unit.fifo = ch :: []
      ∧ ((typing ch fun d => { d with phase := .name, name := name }).line 3).state = .dialog
      ∧ ((typing ch fun d => { d with phase := .name, name := name }).line 3).dialog.phase = .name
      ∧ ((typing ch fun d => { d with phase := .name, name := name }).line 3).dialog.name = name
      ∧ ((typing ch id).line 3).dialog.phase = .password)
    ∧ (signingOn.line 3).out.queue.length + 2 + (signingOn.line 3).dialog.nameEcho.length ≤ 512
    ∧ (signingOn.line 3).dialog.name.length < 8
    ∧ ((typing 0x41 fun d => { d with name := List.replicate 8 0x41 }).line 3).dialog.name.length = 8
    ∧ ((typing 0x41 fun d => { d with password := List.replicate 12 0x41 }).line 3).dialog.password.length = 12
    ∧ ((line3 (fun l => { l with out := { l.out with noticeWait := [0x41] } }) signingOn).line 3).out.noticeWait ≠ []
    ∧ (signingOn.line 3).out.noticeCur = [] ∧ (signingOn.line 3).out.noticeWait = []
    ∧ 512 < ((line3 (fun l => { l with out := { l.out with queue := List.replicate 512 0x41 } }) signingOn).line 3).out.queue.length
      + ([0x41] : List Byte).length
    ∧ (signingOn.line 3).dialog.timer = .running 7780 ∧ (signingOn.line 3).unit.speed ≠ none
    ∧ signingOn.textFor 11 none none ≠ [] := by decide +kernel
/-- An END of line 3 that goes before a sign-on. -/
def lastEnd : EndFlag := ⟨774, .requested, 40116, 7, 60, 0⟩
/-- `signingOn` with a change of line 3, waiting for its END to be sent. -/
def awaiting (f : Line → Line := id) (s : State := signingOn) : State :=
  line3 (fun l => f { l with
    dialog := { l.dialog with phase := .waiting, timer := .held 7780 }, unit := { l.unit with fifo := [] }
    reports := { LineReports.clear with ended := some lastEnd } }) s
theorem signingOn_checks : signingOn.Checks 3 (.passwordCharacter 3) signingOn [] :=
  ⟨by decide +kernel, by decide +kernel, .inl ⟨rfl, by decide +kernel, by decide +kernel, rfl⟩⟩
theorem line3_other (f : Line → Line) (s : State) (j : LineId) (h : j ≠ 3) : (line3 f s).line j = s.line j := by
  unfold line3 State.updLine
  simp only [State.line, State.setLine]
  exact Vector.getElem_set_ne _ _ fun h' => h (Fin.ext h'.symm)
theorem awaiting_free : ¬ awaiting.EndHeldBack 3 := by
  have none : ∀ k : LineId, (awaiting.line k).reports.signon = none := by decide +kernel
  rintro ⟨k, f, hf, -⟩
  rw [none k] at hf
  cases hf
theorem awaiting_checks :
    awaiting.Checks 3 .arbiterChoice (awaiting.endSent 3 lastEnd) [] := by
  refine ⟨by decide +kernel, by decide +kernel, .inr ⟨rfl, by decide +kernel, by decide +kernel, lastEnd,
    ⟨ahead_of _ rfl, by decide +kernel, by decide +kernel, awaiting_free, 3, by decide, by decide +kernel, fun k hk j hj => ?_⟩, rfl⟩⟩
  have hp : awaiting.link.linePtr.val = 47 := rfl
  rw [hp] at hj
  have h3 : j ≠ 3 := by intro h; subst h; simp at hj; omega
  have : awaiting.line j = klein.line j := by
    unfold awaiting signingOn
    rw [line3_other _ _ _ h3, line3_other _ _ _ h3]
    rfl
  exact silent_of (by rw [this]; exact klein_clear j)
theorem witness_AcceptedSignOnOpensTheSession :
    signingOn.Checks 3 (.passwordCharacter 3) signingOn []
    ∧ awaiting.Checks 3 .arbiterChoice (awaiting.endSent 3 lastEnd) []
    ∧ (signingOn.line 3).dialog.name = kleinName ∧ signingOn.account? kleinName = some { kleinAccount with budget := 500 }
    ∧ kleinAccount.check = checkValue kleinName (signingOn.line 3).dialog.password ∧ kleinAccount.state = .opened
    ∧ signingOn.service = .opened ∧ signingOn.store.sum < 2048 ∧ kleinAccount.bstate ≠ .exhausted
    ∧ kleinAccount.active < kleinAccount.limit ∧ (signingOn.line 3).reports.ended = none
    ∧ signingOn.tariff = some tariff ∧ (signingOn.line 3).unit.speed = some 4
    ∧ signingOn.stateOfBudget (clampBudget (500 - (tariff.setup.get 1 : Nat))) 0 1 = .normal
    ∧ ((awaiting.endSent 3 lastEnd).line 3).reports.ended = none
    ∧ ((awaiting.endSent 3 lastEnd).line 3).dialog.name = kleinName :=
  ⟨signingOn_checks, awaiting_checks, by decide +kernel⟩
/-- R71: the END chosen, the waiting sign-on is accepted under the next generation. -/
theorem test_waiting_signOn_accepted : after .arbiterChoice awaiting (fun t =>
    decide ((t.line 3).state = .active ∧ (t.line 3).generation = 7 ∧ (t.line 3).reports.ended = none
      ∧ t.accounts.map (fun a => (a.budget, a.active)) = [(495, 2)])) = true := by decide +kernel
/-- Line 3's sign-on as in 4.13, its account or its line changed; at a CR, or as its END is sent. -/
theorem witness_SignOnFailsOrWaits :
    signingOn.Checks 3 (.passwordCharacter 3) signingOn []
    ∧ awaiting.Checks 3 .arbiterChoice (awaiting.endSent 3 lastEnd) []
    ∧ ((awaiting.endSent 3 lastEnd).line 3).unit.speed ≠ none
    ∧ (signingOn.line 3).unit.speed ≠ none ∧ signingOn.textFor 3 none none ≠ []
    ∧ (typing 0x0D fun d => { d with name := otherName }).account? otherName = none
    ∧ (account1 (fun a => { a with state := .locked }) signingOn).account? kleinName
      = some { kleinAccount with budget := 500, state := .locked }
    ∧ (signingOn.line 3).dialog.attempts + 1 < (signingOn.line 3).dialog.attemptLimit
    ∧ ((typing 0x0D fun d => { d with attempts := 2 }).line 3).dialog.attemptLimit
      ≤ ((typing 0x0D fun d => { d with attempts := 2 }).line 3).dialog.attempts + 1
    ∧ { signingOn with service := .linkLost }.service ≠ .opened ∧ signingOn.textFor 6 (some 500) none ≠ []
    ∧ 2048 ≤ { signingOn with store := { signingOn.store with count := 2047 } }.store.sum
    ∧ signingOn.textFor 12 (some 500) none ≠ []
    ∧ (account1 (fun a => { a with bstate := .exhausted }) signingOn).account? kleinName
      = some { kleinAccount with budget := 500, bstate := .exhausted } ∧ signingOn.textFor 4 (some 500) none ≠ []
    ∧ (account1 (fun a => { a with active := 2 }) signingOn).account? kleinName
      = some { kleinAccount with budget := 500, active := 2 } ∧ signingOn.textFor 5 (some 500) none ≠ []
    ∧ ((line3 (fun l => { l with reports := { l.reports with ended := some lastEnd } }) signingOn).line 3).reports.ended
      ≠ none := by
  refine ⟨signingOn_checks, awaiting_checks, ?_⟩
  decide +kernel
theorem witness_CheckValueWeighsByPowersOf37 : kleinName.length ≤ 8 ∧ (asciiBytes "ABCDEFGH").length ≤ 8 := by decide
theorem witness_AddendIsRateTimesWeight :
    klein.tariff = some tariff ∧ ¬ (klein.clock.day.toNat % 7 = 5 ∨ klein.clock.day.toNat % 7 = 6)
    ∧ tariff.weekday = [⟨0, 2⟩, ⟨480, 0⟩] ++ ⟨1080, 1⟩ :: [⟨1380, 2⟩] ∧ 1080 ≤ 64800 / 60
    ∧ (∀ x ∈ ([⟨1380, 2⟩] : List SchedEntry), 64800 / 60 < x.start) ∧ tariff.bands[1]? = some #v[0, 60, 0, 0]
    ∧ ({ klein with clock := ⟨12, 50400, true, 0, 0⟩ }.clock.day.toNat % 7 = 5)
    ∧ tariff.holiday = [] ++ ⟨0, 2⟩ :: [] ∧ tariff.bands[2]? = some #v[0, 30, 0, 0] := by decide +kernel
theorem witness_MeteringTickChargesEverySession : klein.mode = .running ∧ klein.AllLines Line.SessionRight
    ∧ (∀ n a, klein.account? n = some a → klein.stateOfBudget (clampBudget (a.budget - (0 : Nat))) a.overdraft a.cls = a.bstate)
    ∧ ∀ i ses, (klein.line i).session = some ses → ((klein.line i).state = .grace → ∀ g, ses.meter.grace = some g → 1 < g)
      ∧ (ses.meter.inactLimit = 0 ∨ ses.meter.inactCount + 1 < ses.meter.inactLimit) := by
  refine ⟨by decide +kernel, klein_sessions, fun n a h => ?_, fun i ses h => ?_⟩
  · obtain ⟨rfl, rfl⟩ := klein_account h; decide +kernel
  · by_cases hi : i = 12
    · subst hi
      obtain rfl : kleinSession = ses := Option.some.inj h
      exact ⟨fun h => absurd h (by decide +kernel), by decide⟩
    · rw [klein_session i hi] at h; cases h
/-- The carry of that tick is 0: a residue of 17,000 and the addend 2,400. -/
theorem test_klein_carry : klein.addend kleinSession.meter = 2400 ∧ (17000 + 2400) / 28800 = 0 := by decide +kernel
/-- The session of line 12 in its last second of grace, or of silence. -/
def lastGrace : State :=
  session12 (fun ses => { ses with meter := { ses.meter with grace := some 1 } })
    (line12 (fun l => { l with state := .grace })
      (account1 fun a => { a with budget := -5, bstate := .exhausted }))
def lastSilence (s : State := klein) : State :=
  session12 (fun ses => { ses with meter := { ses.meter with inactCount := 1799 } }) s
/-- Two sessions of KLEIN, on lines 3 and 12. -/
def two : State := account1 (fun a => { a with active := 2 }) (klein.setLine 3 kleinLine)
/-- What holds of every session of a state, and of every account. -/
theorem each_session {s : State} {p : LineId → Session → Bool}
    (h : ∀ i : LineId, (s.line i).session.all (p i) = true) (i : LineId) (ses : Session)
    (hs : (s.line i).session = some ses) : p i ses = true := by
  have := h i
  rwa [hs] at this
theorem each_account {s : State} {p : Name → Account → Prop} (h : ∀ a ∈ s.accounts, p a.name a) (n : Name) (a : Account)
    (ha : s.account? n = some a) : p n a := by
  obtain rfl : a.name = n := of_decide_eq_true (List.find?_some (p := fun a : Account => decide (a.name = n)) ha)
  exact h a (List.mem_of_find?_eq_some ha)
theorem goesOn_of {l : Line} {ses : Session} (h : ((decide (l.state ≠ .grace)
    || ses.meter.grace.all fun g => decide (1 < g)) && (ses.meter.inactLimit == 0
    || decide (ses.meter.inactCount + 1 < ses.meter.inactLimit))) = true) : l.GoesOn ses := by
  simp only [Bool.and_eq_true, Bool.or_eq_true, decide_eq_true_eq, beq_iff_eq] at h
  refine ⟨fun hg g h' => ?_, h.2⟩
  rcases h.1 with h1 | h1
  · exact absurd hg h1
  · rw [h'] at h1; simpa using h1
/-- The accounts of a state at a tick: no debit makes a transition. -/
def Steady (s : State) : Prop := ∀ m b, s.account? m = some b → s.sessionsOf m ≠ [] →
  s.stateOfBudget (clampBudget (b.budget - s.tickDebit m)) b.overdraft b.cls = b.bstate
theorem witness_GraceAndInactivityEndTheSession :
    Steady lastGrace ∧ Steady (lastSilence two)
    ∧ (∀ j other, j ≠ 12 → ((lastSilence two).line j).session = some other → ((lastSilence two).line j).GoesOn other)
    ∧ (lastGrace.line 12).state = .grace ∧ ((lastGrace.line 12).session.bind fun ses => ses.meter.grace) = some 1
    ∧ (lastGrace.line 12).state.metered = true
    ∧ lastGrace.account? kleinName = some { kleinAccount with budget := -5, bstate := .exhausted }
    ∧ lastGrace.stateOfBudget (clampBudget (clampBudget (-5 - (0 : Nat)) - (1 : Nat))) 0 1 = .exhausted
    ∧ (∀ j : LineId, j ≠ 12 → (lastGrace.line j).session = none)
    ∧ ((lastSilence two).line 12).state = .active
    ∧ (((lastSilence two).line 12).session.map fun ses => ses.meter.inactCount + 1) = some 1800
    ∧ (lastSilence two).stateOfBudget (clampBudget (clampBudget (800 - (0 : Nat)) - (1 : Nat))) 0 1 = .normal
    ∧ ((lastSilence two).line 3).session = some kleinSession := by
  refine ⟨each_account (by decide +kernel), each_account (by decide +kernel), fun j other hj h => goesOn_of ?_,
    by decide +kernel⟩
  have := each_session (s := lastSilence two) (p := fun i ses => decide (i = 12)
    || ((decide (((lastSilence two).line i).state ≠ .grace) || ses.meter.grace.all fun g => decide (1 < g))
      && (ses.meter.inactLimit == 0 || decide (ses.meter.inactCount + 1 < ses.meter.inactLimit)))) (by decide +kernel) j other h
  simpa only [decide_eq_false hj, Bool.false_or] using this
theorem lastGrace_sessions : lastGrace.AllLines Line.SessionRight ∧ (lastSilence two).AllLines Line.SessionRight := by
  constructor
  · show ∀ i : Fin 48, (lastGrace.line i).session.isSome = (lastGrace.line i).state.metered
    decide +kernel
  · show ∀ i : Fin 48, ((lastSilence two).line i).session.isSome = ((lastSilence two).line i).state.metered
    decide +kernel
/-- The two sessions of KLEIN with a residue that the next tick carries, KLEIN's budget and the grace time as given. -/
def debited (budget : Int) (st : BudgetState) (grace : Nat) : State :=
  { account1 (fun a => { a with budget := budget, bstate := st })
      (session12 (fun ses => { ses with meter := { ses.meter with residue := 28000 } }) two) with
    tariff := some { tariff with grace := grace } }
/-- Into WARNED, into EXHAUSTED with a grace time, and into EXHAUSTED without one. -/
theorem witness_TickDebitActsOnEverySession :
    ∀ p ∈ ([(100, .normal, 120, .warned), (0, .warned, 120, .exhausted), (0, .warned, 0, .exhausted)]
        : List (Int × BudgetState × Nat × BudgetState)),
      (debited p.1 p.2.1 p.2.2.1).mode = .running
      ∧ (∀ i : LineId, ((debited p.1 p.2.1 p.2.2.1).line i).session.isSome
        = ((debited p.1 p.2.1 p.2.2.1).line i).state.metered)
      ∧ (debited p.1 p.2.1 p.2.2.1).tariff = some { tariff with grace := p.2.2.1 }
      ∧ (debited p.1 p.2.1 p.2.2.1).account? kleinName
        = some { kleinAccount with budget := p.1, bstate := p.2.1, active := 2 }
      ∧ (debited p.1 p.2.1 p.2.2.1).sessionsOf kleinName = [3, 12]
      ∧ (debited p.1 p.2.1 p.2.2.1).tickDebit kleinName = 1
      ∧ (debited p.1 p.2.1 p.2.2.1).stateOfBudget (clampBudget (p.1 - (1 : Nat))) 0 1 = p.2.2.2
      ∧ ∀ i : LineId, ((debited p.1 p.2.1 p.2.2.1).line i).session.all (fun ses =>
        decide (((debited p.1 p.2.1 p.2.2.1).line i).state = .active)
        && decide (ses.meter.inactCount + 1 < ses.meter.inactLimit)) = true := by decide +kernel
/-- R83, R115: with grace 0 the tick's debit ends both sessions, each closed with its rounding unit. -/
theorem test_tick_exhausts_both : after .meteringTick (debited 0 .warned 0) (fun t =>
    decide ((t.line 3).reports.ended.map EndFlag.reason = some .budget
      ∧ (t.line 12).reports.ended.map EndFlag.reason = some .budget
      ∧ t.accounts.map (fun a => (a.budget, a.active)) = [(-2, 0)])) = true := by decide +kernel
/-- KLEIN at the edge of a warning, and of exhaustion, with two sessions; and with one and a sign-on. -/
def edge (budget : Int) (st : BudgetState) (s : State := two) : State :=
  account1 (fun a => { a with budget := budget, bstate := st }) s
/-- `edge` at the setup debit, its tariff without a grace time, the line report pointer before line 12. -/
def graceless : State :=
  { edge 4 .warned signingOn with
    tariff := some { tariff with grace := 0 }, link := { klein.link with linePtr := 5 } }
theorem witness_SetupDebitWithoutGrace :
    graceless.Checks 3 (.passwordCharacter 3) graceless [] ∧ graceless.sessionsOf kleinName = [12]
    ∧ graceless.account? kleinName = some { kleinAccount with budget := 4, bstate := .warned }
    ∧ graceless.stateOfBudget (clampBudget (4 - (tariff.setup.get 1 : Nat))) 0 1 = .exhausted
    ∧ (∀ i : LineId, (graceless.line i).session.isSome = (graceless.line i).state.metered) :=
  ⟨⟨by decide +kernel, by decide +kernel, .inl ⟨rfl, by decide +kernel, by decide +kernel, rfl⟩⟩, by decide +kernel⟩
/-- R72: the acceptance ends both sessions, and the SIGNON goes before the END of the other line. -/
theorem test_signon_before_its_ends :
    traced (fun t => ((t.line 3).reports.signon.isSome, (t.line 3).reports.ended.isSome, (t.line 12).reports.ended.isSome))
      [.passwordCharacter 3, .arbiterChoice, .arbiterChoice, .arbiterChoice] graceless
    = [(true, true, true), (false, true, true), (false, true, false), (false, false, false)] := by decide +kernel
theorem witness_ClosingAndSetupDebitsActOnSessions :
    (∀ p ∈ ([(100, .normal, .warned), (0, .warned, .exhausted)] : List (Int × BudgetState × BudgetState)),
      (asking ([0x22, 1] ++ be16 3077 ++ [0]) (edge p.1 p.2.1)).Asked 0x22 1 (be16 3077 ++ [0] ++ [])
      ∧ (edge p.1 p.2.1).account? kleinName = some { kleinAccount with budget := p.1, bstate := p.2.1, active := 2 }
      ∧ (edge p.1 p.2.1).stateOfBudget (clampBudget (p.1 - (roundingUnitOf .nearest 17000 : Nat))) 0 1 = p.2.2)
    ∧ (∀ p ∈ ([(104, .normal, .warned), (4, .warned, .exhausted)] : List (Int × BudgetState × BudgetState)),
      (edge p.1 p.2.1 signingOn).Checks 3 (.passwordCharacter 3) (edge p.1 p.2.1 signingOn) []
      ∧ (edge p.1 p.2.1 signingOn).account? kleinName = some { kleinAccount with budget := p.1, bstate := p.2.1 }
      ∧ (edge p.1 p.2.1 signingOn).stateOfBudget (clampBudget (p.1 - (tariff.setup.get 1 : Nat))) 0 1 = p.2.2)
    ∧ (∀ i : LineId, (two.line i).session.isSome = (two.line i).state.metered)
    ∧ two.sessionsOf kleinName = [3, 12] ∧ (two.line 12).session = some kleinSession
    ∧ (two.line 12).generation.toNat = 3077 % 256 ∧ two.tariff = some tariff
    ∧ (∀ i : LineId, (signingOn.line i).session.isSome = (signingOn.line i).state.metered)
    ∧ signingOn.sessionsOf kleinName = [12] ∧ kleinAccount.active < kleinAccount.limit ∧ tariff.grace ≠ 0 := by
  refine ⟨fun p h => ?_, fun p h => ?_, by decide +kernel⟩
  all_goals simp only [List.mem_cons, List.not_mem_nil, or_false] at h
  · rcases h with rfl | rfl <;> exact ⟨asked_of (by decide +kernel), by decide +kernel⟩
  · rcases h with rfl | rfl <;> exact ⟨⟨by decide +kernel, by decide +kernel, .inl ⟨rfl, by decide +kernel,
      by decide +kernel, rfl⟩⟩, by decide +kernel⟩
theorem test_graceExpiry_ends : after (.graceExpiry 12) lastGrace (fun t =>
    decide ((t.line 12).reports.ended.map EndFlag.reason = some .budget ∧ t.accounts.map Account.active = [0])) = true := by
  decide +kernel
theorem test_inactivity_ends : after (.inactivity 12) lastSilence (fun t =>
    decide ((t.line 12).reports.ended.map EndFlag.reason = some .inactivity
      ∧ (t.line 12).out.noticeWait = asciiBytes "TIMED OUT 42" ++ crLf)) = true := by decide +kernel

end Sys2Proof.Tests
end

section
/-! Lemmas about the moves of a line, and the law of DTR (O4). -/

namespace Sys2Proof.Machine

/-! ### Moves of a line: DTR, state and session after each -/

@[simp] theorem Line.settle_dtr (l : Line) : l.settle.dtr = l.dtr := by unfold Line.settle; split <;> rfl
@[simp] theorem Line.hangup_dtr (l : Line) : l.hangup.dtr = l.dtr := rfl
@[simp] theorem Line.toRejecting_dtr (l : Line) : l.toRejecting.dtr = l.dtr := by
  unfold Line.toRejecting; rw [Line.settle_dtr]; rfl
@[simp] theorem Line.toDialog_dtr (l : Line) (texts : Vector (List Byte) 16) : (l.toDialog texts).dtr = l.dtr := by
  unfold Line.toDialog; simp
@[simp] theorem Line.toDialog_state (l : Line) (texts : Vector (List Byte) 16) :
    (l.toDialog texts).state = .dialog := by
  unfold Line.toDialog; simp; rfl
@[simp] theorem Line.endMove_dtr (l : Line) (hangUp : Bool) : (l.endMove hangUp).dtr = l.dtr := by
  unfold Line.endMove; split <;> simp
@[simp] theorem Line.invalidAttempt_dtr (l : Line) (texts : Vector (List Byte) 16) :
    (l.invalidAttempt texts).dtr = l.dtr := by
  unfold Line.invalidAttempt; dsimp only; split <;> simp

/-- The completion test leaves a line as it is or hangs it up (R61). -/
theorem Line.settle_cases (l : Line) :
    l.settle = l ∨ l.settle = l.hangup ∧ (l.state = .rejecting ∨ l.state = .draining) := by
  unfold Line.settle; split
  next h => exact .inr ⟨rfl, h.1⟩
  next => exact .inl rfl

/-- A refused line is in REJECTING, or already in HANGUP where nothing is to be sent (R61, R74). -/
theorem Line.toRejecting_state (l : Line) : l.toRejecting.state = .rejecting ∨ l.toRejecting.state = .hangup := by
  unfold Line.toRejecting
  rcases Line.settle_cases { l.goto .rejecting with
    carrierWait := none
    detector := l.detector.leave
    dialog := { l.dialog with name := [], password := [], timer := .stopped, promptDue := none, nameEcho := [],
                              rejecting := some Config.rejectingScans } } with h | ⟨h, -⟩ <;> rw [h]
  · exact .inl rfl
  · exact .inr rfl

/-- A line whose session has ended is in DRAINING or in HANGUP (R135). -/
theorem Line.endMove_state (l : Line) (hangUp : Bool) :
    (l.endMove hangUp).state = .draining ∨ (l.endMove hangUp).state = .hangup := by
  unfold Line.endMove; split
  · exact .inr rfl
  · rcases Line.settle_cases { l.goto .draining with drain := some Config.drainScans } with h | ⟨h, -⟩ <;> rw [h]
    · exact .inl rfl
    · exact .inr rfl

/-- An invalid attempt leaves the line where it is, or refuses it (R69). -/
theorem Line.invalidAttempt_state (l : Line) (texts : Vector (List Byte) 16) :
    (l.invalidAttempt texts).state = l.state ∨ (l.invalidAttempt texts).state = .rejecting
      ∨ (l.invalidAttempt texts).state = .hangup := by
  unfold Line.invalidAttempt; dsimp only; split
  · exact .inl (by simp)
  · exact .inr (Line.toRejecting_state _)

@[simp] theorem Line.place_session (l : Line) (chars : List Byte) : (l.place chars).session = l.session := by
  unfold Line.place; split <;> rfl
@[simp] theorem Line.echo_session (l : Line) (chars : List Byte) : (l.echo chars).session = l.session := by
  unfold Line.echo; split <;> rfl
@[simp] theorem Line.dialogEcho_session (l : Line) (chars : List Byte) : (l.dialogEcho chars).session = l.session := by
  unfold Line.dialogEcho; split <;> simp
@[simp] theorem Line.placeDue_session (l : Line) (texts : Vector (List Byte) 16) :
    (l.placeDue texts).session = l.session := by
  unfold Line.placeDue; (repeat' split) <;> simp [foldl_dialogEcho_keeps Line.session, *] <;> split <;> simp
@[simp] theorem Line.settle_session (l : Line) : l.settle.session = l.session := by
  unfold Line.settle; split <;> rfl
@[simp] theorem Line.toRejecting_session (l : Line) : l.toRejecting.session = l.session := by
  unfold Line.toRejecting; rw [Line.settle_session]; rfl
@[simp] theorem Line.toDialog_session (l : Line) (texts : Vector (List Byte) 16) :
    (l.toDialog texts).session = l.session := by
  unfold Line.toDialog; simp; rfl
@[simp] theorem Line.invalidAttempt_session (l : Line) (texts : Vector (List Byte) 16) :
    (l.invalidAttempt texts).session = l.session := by
  unfold Line.invalidAttempt; dsimp only; split <;> simp
@[simp] theorem Line.nameChar_session (l : Line) (texts : Vector (List Byte) 16) (c : Byte) :
    (l.nameChar texts c).session = l.session := by
  unfold Line.nameChar; dsimp only; (repeat' split) <;> simp
@[simp] theorem Line.checkReady_session (l : Line) (i : LineId) : (l.checkReady i).session = l.session := by
  unfold Line.checkReady; split <;> rfl
@[simp] theorem Line.sendChar_session (l : Line) (c : Byte) : (l.sendChar c).session = l.session := rfl
@[simp] theorem Line.takeNext_session (l : Line) (i : LineId) (texts : Vector (List Byte) 16) :
    (l.takeNext i texts).session = l.session := by
  unfold Line.takeNext; (repeat' split) <;> simp
@[simp] theorem Line.releaseInput_session (l : Line) : l.releaseInput.session = l.session := by
  unfold Line.releaseInput; split <;> rfl
@[simp] theorem Line.holdInput_session (l : Line) : l.holdInput.session = l.session := by
  unfold Line.holdInput; (repeat' split) <;> simp [*]
@[simp] theorem Line.storeChar_session (l : Line) (c : Byte) : (l.storeChar c).session = l.session := by
  unfold Line.storeChar; split <;> simp
@[simp] theorem Line.endInput_session (l : Line) (ses : Session) (keep : Bool) (flag : Nat → EndFlag) :
    (l.endInput ses keep flag).session = none := rfl
@[simp] theorem Line.endMove_session (l : Line) (hangUp : Bool) : (l.endMove hangUp).session = l.session := by
  unfold Line.endMove; split
  · rfl
  · rw [Line.settle_session]; rfl

/-- Whether a session is open is as before, its data apart (R128). -/
@[simp] theorem Line.updMeter_session_isSome (l : Line) (f : Meter → Meter) :
    (l.updMeter f).session.isSome = l.session.isSome := by simp [Line.updMeter]
@[simp] theorem Line.arrival_session_isSome (l : Line) : l.arrival.session.isSome = l.session.isSome := by
  unfold Line.arrival; split <;> simp
@[simp] theorem Line.attention_session_isSome (l : Line) (i : LineId) :
    (l.attention i).session.isSome = l.session.isSome := by
  unfold Line.attention; split <;> simp [*]
@[simp] theorem Line.receive_session_isSome (l : Line) (i : LineId) (bits : Byte) :
    (l.receive i bits).session.isSome = l.session.isSome := by
  unfold Line.receive; dsimp only; split <;> (repeat' split) <;> simp
@[simp] theorem Line.setCopies_session_isSome (l : Line) (c : Copies) :
    (l.setCopies c).session.isSome = l.session.isSome := by
  unfold Line.setCopies; (repeat' split) <;> simp [*]

end Sys2Proof.Machine
end


section
/-! The laws of DTR and of the open sessions, the line scanner's commands on a running part, and what is claimed of DTR
and of the step without a command (O4, O2). -/

namespace Sys2Proof.Machine

/-! ### DTR alone: no operation writes it -/

/-- No operation on a line writes DTR, so whatever holds of its level still holds after each (R1; log 8). -/
theorem Line.dtrLaw (Q : LineId → Bool → Prop) : Line.Law fun k l => Q k l.dtr where
  quiet h q := q.dtr ▸ h
  ring h _ := h
  leave _ h _ _ := h
  hangup h _ := h
  toDetecting h _ := h
  redetect h _ := h
  toDialog _ h _ := by simpa using h
  toRejecting h _ := by simpa using h
  settle h := by simpa using h
  place _ h _ := by simpa using h
  placeDue _ h := by simpa using h
  dialogEcho _ h := by simpa using h
  measured _ h _ _ := h
  receive _ _ h := by simpa using h
  attention _ h := by simpa using h
  storeInput h _ _ _ := by simpa using h
  complete _ h _ _ := h
  freeHeld h _ := h
  takeNext _ _ h := by simpa using h
  nameChar _ _ h := by simpa using h
  invalidAttempt _ h _ := by simpa using h
  accept _ _ _ h _ := h
  updMeter _ h := h
  enterGrace _ h _ := h
  leaveGrace h _ := h
  setCopies _ h := by simpa using h
  appendOutput _ h := h
  ended _ _ _ h _ := by simpa using h
  endedText _ _ _ _ h _ _ := by simpa using h

/-! ### Sessions are open exactly in ACTIVE and GRACE -/

theorem Line.SessionRight.congr {l l' : Line} (h : l.SessionRight) (hs : l'.state = l.state)
    (he : l'.session.isSome = l.session.isSome) : l'.SessionRight := by
  unfold Line.SessionRight at h ⊢; rw [he, hs, h]

/-- A line out of a session stays right in any state without one. -/
theorem Line.SessionRight.move {l l' : Line} (h : l.SessionRight) (hl : l.state.metered = false)
    (he : l'.session = l.session) (hl' : l'.state.metered = false) : l'.SessionRight := by
  unfold Line.SessionRight at h ⊢; rw [he, hl', h, hl]

theorem Line.SessionRight.metered {l : Line} {ses : Session} (h : l.SessionRight) (hs : l.session = some ses) :
    l.state.metered = true := by
  unfold Line.SessionRight at h; rw [← h, hs]; rfl

theorem LineState.metered_of_left {st : LineState} (h : st = .rejecting ∨ st = .draining ∨ st = .hangup) :
    st.metered = false := by rcases h with rfl | rfl | rfl <;> rfl

theorem Line.SessionRight.settle {l : Line} (h : l.SessionRight) : l.settle.SessionRight := by
  rcases l.settle_cases with e | ⟨e, hs⟩ <;> rw [e]
  · exact h
  · exact h.move (by rcases hs with hs | hs <;> rw [hs] <;> rfl) rfl rfl

/-- A line whose session is gone and which has moved on is right. -/
theorem Line.endMove_sessionRight {l : Line} (h : l.session = none) (hangUp : Bool) :
    (l.endMove hangUp).SessionRight := by
  unfold Line.SessionRight
  rw [Line.endMove_session, h]
  rcases l.endMove_state hangUp with e | e <;> rw [e] <;> rfl

/-- Each operation keeps a session open exactly in ACTIVE and GRACE (R109). -/
theorem Line.sessionLaw : Line.Law fun _ l => l.SessionRight where
  quiet h q := h.congr q.state (by rw [q.session])
  ring h hs := h.move (by rw [hs]; rfl) rfl rfl
  leave st h hs hst := h.move
    (by rcases hs with ⟨hs, -⟩ | hs | hs <;> rw [hs] <;> rfl) rfl (by rcases hst with rfl | rfl | rfl <;> rfl)
  hangup h hm := h.move hm rfl rfl
  toDetecting h hc := h.move hc.unmetered rfl rfl
  redetect h hc := h.move hc.unmetered rfl rfl
  toDialog _ h hc := h.move hc.unmetered (by simp) (by simp [LineState.metered])
  toRejecting h hc := h.move hc.unmetered (by simp)
    (LineState.metered_of_left ((Line.toRejecting_state _).imp_right .inr))
  settle h := h.settle
  place _ h _ := h.congr (by simp) (by simp)
  placeDue _ h := h.congr (by simp) (by simp)
  dialogEcho _ h := h.congr (by simp) (by simp)
  measured _ h _ _ := h
  receive _ _ h := h.congr (by simp) (by simp)
  attention _ h := h.congr (by simp) (by simp)
  storeInput h hs _ _ := h.congr (by simp) (by rw [hs]; rfl)
  complete _ h hs _ := h.congr rfl (by rw [hs]; rfl)
  freeHeld h hs := h.congr rfl (by rw [hs]; rfl)
  takeNext _ _ h := h.congr (by simp) (by simp)
  nameChar _ _ h := h.congr (by simp) (by simp)
  invalidAttempt _ h hc := by
    rcases Line.invalidAttempt_state _ _ with e | e
    · exact h.congr e (by simp)
    · exact h.move hc.unmetered (by simp) (LineState.metered_of_left (e.imp_right .inr))
  accept _ _ _ _ _ := rfl
  updMeter _ h := h.congr rfl (by simp)
  enterGrace _ h hm := by
    unfold Line.SessionRight at h ⊢; rw [Line.enterGrace, Line.updMeter_session_isSome]; exact h.trans hm
  leaveGrace h hm := by
    unfold Line.SessionRight at h ⊢; rw [Line.leaveGrace, Line.updMeter_session_isSome]; exact h.trans hm
  setCopies _ h := h.congr (by simp) (by simp)
  appendOutput _ h := h
  ended _ _ _ _ _ := Line.endMove_sessionRight rfl _
  endedText _ _ _ _ _ _ _ := Line.endMove_sessionRight (by simp) _

/-! ### DTR settled -/

theorem Line.DtrSettled.congr {l l' : Line} (h : l.DtrSettled) (hs : l'.state = l.state) (hd : l'.dtr = l.dtr) :
    l'.DtrSettled := by
  unfold Line.DtrSettled Line.DtrRight at h ⊢; rwa [hs, hd]

/-- DTR high is settled in an answered state and in HANGUP, where the next scan lowers it. -/
theorem Line.DtrSettled.of_high {l : Line} (hd : l.dtr = true) (hs : l.state.answered = true ∨ l.state = .hangup) :
    l.DtrSettled := fun _ hh => by rw [Line.DtrRight, hd, hs.resolve_right hh]

theorem Line.DtrSettled.of_hangup {l : Line} (h : l.state = .hangup) : l.DtrSettled := fun _ hh => absurd h hh

/-- In a call DTR is high. -/
theorem Line.DtrSettled.inCall {l : Line} (h : l.DtrSettled) (hc : l.InCall) : l.dtr = true := by
  by_cases ha : l.state = .answering
  · exact hc.raised ha
  · have : l.dtr = l.state.answered := h ha fun e => by have := hc.answered; rw [e] at this; cases this
    rw [this, hc.answered]

/-- In a session DTR is high. -/
theorem Line.DtrSettled.metered {l : Line} (h : l.DtrSettled) (hm : l.state.metered = true) : l.dtr = true := by
  have hs : l.state = .active ∨ l.state = .grace := by
    revert hm; cases l.state <;> simp [LineState.metered]
  have : l.dtr = l.state.answered := h (by rcases hs with e | e <;> simp [e]) (by rcases hs with e | e <;> simp [e])
  rw [this]; rcases hs with e | e <;> rw [e] <;> rfl

theorem LineState.answered_of_left {st : LineState} (h : st = .rejecting ∨ st = .draining ∨ st = .hangup) :
    st.answered = true ∨ st = .hangup := by rcases h with rfl | rfl | rfl <;> simp [LineState.answered]

theorem Line.DtrSettled.settle {l : Line} (h : l.DtrSettled) : l.settle.DtrSettled := by
  rcases l.settle_cases with e | ⟨e, -⟩ <;> rw [e]
  · exact h
  · exact .of_hangup rfl

/-- A line leaves HANGUP with DTR low, and the other states without a call have it low. -/
theorem Line.DtrSettled.leave {l : Line} (h : l.DtrSettled) (st : LineState)
    (hs : l.state = .hangup ∧ l.dtr = false ∨ l.state = .idle ∨ l.state = .lockout)
    (hst : st = .disabled ∨ st = .idle ∨ st = .lockout) : (l.goto st).DtrSettled := by
  have hd : l.dtr = false := by
    rcases hs with ⟨-, hd⟩ | e | e
    · exact hd
    · rw [h (by simp [e]) (by simp [e]), e]; rfl
    · rw [h (by simp [e]) (by simp [e]), e]; rfl
  intro _ _
  rw [Line.DtrRight, Line.goto_dtr, hd]
  rcases hst with rfl | rfl | rfl <;> rfl

/-- Each operation keeps DTR settled, given that sessions are open exactly in ACTIVE and GRACE. -/
theorem Line.settledLaw : Line.Law fun _ l => l.DtrSettled ∧ l.SessionRight where
  quiet h q := ⟨h.1.congr q.state q.dtr, Line.sessionLaw.quiet (k := 0) h.2 q⟩
  ring h hs := ⟨fun ha => absurd rfl ha, Line.sessionLaw.ring (k := 0) h.2 hs⟩
  leave st h hs hst := ⟨h.1.leave st hs hst, Line.sessionLaw.leave (k := 0) st h.2 hs hst⟩
  hangup h hm := ⟨.of_hangup rfl, Line.sessionLaw.hangup (k := 0) h.2 hm⟩
  toDetecting h hc := ⟨.of_high (h.1.inCall hc) (.inl rfl), Line.sessionLaw.toDetecting (k := 0) h.2 hc⟩
  redetect h hc := ⟨.of_high (h.1.inCall hc) (.inl rfl), Line.sessionLaw.redetect (k := 0) h.2 hc⟩
  toDialog texts h hc := ⟨.of_high (by simpa using h.1.inCall hc) (.inl (by simp [LineState.answered])),
    Line.sessionLaw.toDialog (k := 0) texts h.2 hc⟩
  toRejecting h hc := ⟨.of_high (by simpa using h.1.inCall hc)
      (LineState.answered_of_left ((Line.toRejecting_state _).imp_right .inr)),
    Line.sessionLaw.toRejecting (k := 0) h.2 hc⟩
  settle h := ⟨h.1.settle, h.2.settle⟩
  place chars h hl := ⟨h.1.congr (by simp) (by simp), Line.sessionLaw.place (k := 0) chars h.2 hl⟩
  placeDue texts h := ⟨h.1.congr (by simp) (by simp), Line.sessionLaw.placeDue (k := 0) texts h.2⟩
  dialogEcho chars h := ⟨h.1.congr (by simp) (by simp), Line.sessionLaw.dialogEcho (k := 0) chars h.2⟩
  measured _ h _ _ := h
  receive i bits h := ⟨h.1.congr (by simp) (by simp), Line.sessionLaw.receive (k := 0) i bits h.2⟩
  attention i h := ⟨h.1.congr (by simp) (by simp), Line.sessionLaw.attention (k := 0) i h.2⟩
  storeInput h hs hc hf := ⟨h.1.congr (by simp) (by simp), Line.sessionLaw.storeInput (k := 0) h.2 hs hc hf⟩
  complete cause h hs hc := ⟨h.1.congr rfl rfl, Line.sessionLaw.complete (k := 0) cause h.2 hs hc⟩
  freeHeld h hs := ⟨h.1.congr rfl rfl, Line.sessionLaw.freeHeld (k := 0) h.2 hs⟩
  takeNext i texts h := ⟨h.1.congr (by simp) (by simp), Line.sessionLaw.takeNext (k := 0) i texts h.2⟩
  nameChar texts c h := ⟨h.1.congr (by simp) (by simp), Line.sessionLaw.nameChar (k := 0) texts c h.2⟩
  invalidAttempt texts h hc := by
    refine ⟨?_, Line.sessionLaw.invalidAttempt (k := 0) texts h.2 hc⟩
    rcases Line.invalidAttempt_state _ texts with e | e
    · exact h.1.congr e (by simp)
    · exact .of_high (by simpa using h.1.inCall hc) (LineState.answered_of_left (e.imp_right .inr))
  accept i m sp h hc := ⟨.of_high (h.1.inCall hc) (.inl rfl), Line.sessionLaw.accept (k := 0) i m sp h.2 hc⟩
  updMeter f h := ⟨h.1.congr rfl rfl, Line.sessionLaw.updMeter (k := 0) f h.2⟩
  enterGrace g h hm := ⟨.of_high (h.1.metered hm) (.inl rfl), Line.sessionLaw.enterGrace (k := 0) g h.2 hm⟩
  leaveGrace h hm := ⟨.of_high (h.1.metered hm) (.inl rfl), Line.sessionLaw.leaveGrace (k := 0) h.2 hm⟩
  setCopies c h := ⟨h.1.congr (by simp) (by simp), Line.sessionLaw.setCopies (k := 0) c h.2⟩
  appendOutput data h := ⟨h.1.congr rfl rfl, h.2⟩
  ended keep flag hangUp h hs := ⟨.of_high (by simpa using h.1.metered (h.2.metered hs))
      (LineState.answered_of_left (.inr (Line.endMove_state _ _))),
    Line.sessionLaw.ended (k := 0) keep flag hangUp h.2 hs⟩
  endedText keep flag hangUp chars h hs hl := ⟨.of_high (by simpa using h.1.metered (h.2.metered hs))
      (LineState.answered_of_left (.inr (Line.endMove_state _ _))),
    Line.sessionLaw.endedText (k := 0) keep flag hangUp chars h.2 hs hl⟩

/-! ### The line scanner's commands on a running part -/

section
variable {s : State} {i : LineId}

/-- A timer that is due expires: its scan and its action. -/
theorem State.lineExpiry_due (h : s.mode = .running) {due : Line → Bool} (hd : due (s.line i) = true)
    (act : Line → Line) : s.lineExpiry i due act = .next (s.scan.setLine i (act (s.line i).drive)) := by
  rw [State.lineExpiry_running h, if_pos hd]

/-- A timer of line state `p` that runs is due. -/
theorem due_of_runs {p : Prop} [Decidable p] {t : Timer} (hp : p) (ht : t ≠ none) :
    decide (p ∧ t.isSome = true) = true := decide_eq_true ⟨hp, Option.isSome_iff_ne_none.2 ht⟩

/-- A timer that does not run has no expiry (log 3). -/
theorem State.lineExpiry_idle (h : s.mode = .running) {due : Line → Bool} (hd : due (s.line i) = false)
    (act : Line → Line) : s.lineExpiry i due act = .next s := by
  rw [State.lineExpiry_running h, if_neg (by simp [hd])]

theorem State.scan_updLine (s : State) (i : LineId) (f : Line → Line) :
    s.scan.updLine i f = s.scan.setLine i (f (s.line i).drive) := by rw [State.updLine, State.line_scan]

/-- RING answered (R3). -/
theorem exec_ringSeen_answered (h : s.mode = .running) (hl : (s.line i).state = .idle) (hs : s.service.answers = true) :
    exec (.ringSeen i) s = .next (s.scan.setLine i { (s.line i).drive.goto .answering with
      ri := true
      lockoutDue := false
      carrierWait := some ((s.line i).config.carrierWait * Config.scansPerSecond) }) := by
  rw [exec, execRing, State.whenRunning_running h, State.scan_updLine, if_pos ⟨hl, hs⟩]
  rfl

/-- RING only seen (R4). -/
theorem exec_ringSeen_seen (h : s.mode = .running) (hl : ¬ ((s.line i).state = .idle ∧ s.service.answers = true)) :
    exec (.ringSeen i) s = .next (s.scan.setLine i { (s.line i).drive with ri := true }) := by
  rw [exec, execRing, State.whenRunning_running h, State.scan_updLine]
  exact congrArg (fun l => Host.Outcome.next (s.scan.setLine i l)) (if_neg hl)

/-- CARRIER DETECT answers the call of an AUTO line (R5). -/
theorem exec_carrierDetect_auto (h : s.mode = .running) (hl : (s.line i).state = .answering)
    (hc : (s.line i).cd = false) (hm : (s.line i).config.mode = .auto) :
    exec (.carrierDetect i) s = .next (s.scan.setLine i { (s.line i).drive.toDetecting with cd := true }) := by
  rw [exec, execCarrierDetect, State.whenRunning_running h]
  simp [hl, hc, hm]

/-- CARRIER DETECT answers the call of a FIXED line, whose speed is known and which is admitted or refused (R5, R6). -/
theorem exec_carrierDetect_fixed (h : s.mode = .running) (hl : (s.line i).state = .answering)
    (hc : (s.line i).cd = false) (hm : (s.line i).config.mode = .fixed) :
    exec (.carrierDetect i) s = .next (State.admitLine (s.scan.setLine i { (s.line i).drive with
      cd := true
      carrierWait := none
      unit := (s.line i).unit.start (s.line i).config.fixedSpeed (s.line i).config.format }) i) := by
  rw [exec, execCarrierDetect, State.whenRunning_running h]
  simp [hl, hc, hm]

/-- CARRIER DETECT on any other line: CD is seen high, and a dip ends (R8). -/
theorem exec_carrierDetect_seen (h : s.mode = .running)
    (hl : ¬ ((s.line i).state = .answering ∧ (s.line i).cd = false)) :
    exec (.carrierDetect i) s = .next (s.scan.setLine i { (s.line i).drive with
      cd := true
      carrierLoss := if (s.line i).state.watched then none else (s.line i).carrierLoss }) := by
  rw [exec, execCarrierDetect, State.whenRunning_running h]
  simp only [State.line_scan, Line.drive_state, Line.drive_cd, if_neg hl]
  rfl

/-- CARRIER DROP in a watched state starts the carrier-loss timer where it does not run (R8). -/
theorem exec_carrierDrop_watched (h : s.mode = .running) (hl : (s.line i).state.watched = true) :
    exec (.carrierDrop i) s = .next (s.scan.setLine i { (s.line i).drive with
      cd := false
      carrierLoss := some ((s.line i).carrierLoss.getD Config.carrierLossScans) }) := by
  rw [exec, execCarrierDrop, State.whenRunning_running h, State.scan_updLine]
  cases hc : (s.line i).carrierLoss <;> simp [hl, hc]

/-- CARRIER DROP in HANGUP with the guard expired lets the line leave it (R11). -/
theorem exec_carrierDrop_hangup (h : s.mode = .running) (hl : (s.line i).state = .hangup)
    (hg : (s.line i).guard = none) :
    exec (.carrierDrop i) s = .next (s.scan.setLine i (Line.leaveHangup { (s.line i).drive with cd := false })) := by
  rw [exec, execCarrierDrop, State.whenRunning_running h, State.scan_updLine, if_neg (by simp [hl, LineState.watched]),
    if_pos ⟨hl, hg⟩]

/-- CARRIER DROP on any other line is only seen. -/
theorem exec_carrierDrop_seen (h : s.mode = .running) (hl : (s.line i).state.watched = false)
    (hg : ¬ ((s.line i).state = .hangup ∧ (s.line i).guard = none)) :
    exec (.carrierDrop i) s = .next (s.scan.setLine i { (s.line i).drive with cd := false }) := by
  rw [exec, execCarrierDrop, State.whenRunning_running h, State.scan_updLine, if_neg (by simp [hl])]
  exact congrArg (fun l => Host.Outcome.next (s.scan.setLine i l)) (if_neg hg)

/-- CARRIER LOSS without a running carrier-loss timer (log 3). -/
theorem exec_carrierLoss_stopped (h : s.mode = .running) (hc : (s.line i).carrierLoss = none) :
    exec (.carrierLoss i) s = .next s := by
  rw [exec, execCarrierLoss, State.whenRunning_running h]
  simp [hc]

/-- CARRIER LOSS on a line with a session ends it (R9). -/
theorem exec_carrierLoss_metered (h : s.mode = .running) (hc : (s.line i).carrierLoss ≠ none)
    (hm : (s.line i).state.metered = true) :
    exec (.carrierLoss i) s = .next (s.scan.endOne i .carrierLost false) := by
  rw [exec, execCarrierLoss, State.whenRunning_running h]
  simp [hc, hm]

/-- CARRIER LOSS on a watched line without a session hangs it up (R9). -/
theorem exec_carrierLoss_watched (h : s.mode = .running) (hc : (s.line i).carrierLoss ≠ none)
    (hm : (s.line i).state.metered = false) (hw : (s.line i).state.watched = true) :
    exec (.carrierLoss i) s = .next (s.scan.setLine i (s.line i).drive.hangup) := by
  rw [exec, execCarrierLoss, State.whenRunning_running h]
  simp [hc, hm, hw, State.scan_updLine]

end

/-! ### DTR after a command -/

section
variable {s t : State} {c : Instr}

theorem not_startsUp_of_holdsScan (h : holdsScan c = true) : startsUp c = false := by
  cases c <;> first | rfl | cases h

theorem not_holdsScan_of_startsUp (h : startsUp c = true) : holdsScan c = false := by
  cases c <;> first | rfl | cases h

/-- A command that neither holds a scan nor starts the part up leaves every DTR (log 8). -/
theorem exec_dtr_unscanned (hc : holdsScan c = false) (hs : startsUp c = false) (e : exec c s = .next t) (i : LineId) :
    (t.line i).dtr = (s.line i).dtr :=
  State.EachLine.exec (Line.dtrLaw fun k d => d = (s.line k).dtr) c (fun h => by simp [hc] at h)
    (fun h => by simp [hs] at h) (fun _ => rfl) e i

/-- A command that holds a scan writes DTR for the states before it, or does nothing to it. -/
theorem exec_dtr_scanned (hc : holdsScan c = true) (e : exec c s = .next t) (i : LineId) :
    (t.line i).dtr = (s.line i).dtr ∨ (t.line i).dtr = (s.line i).state.answered :=
  State.EachLine.exec (Line.dtrLaw fun k d => d = (s.line k).dtr ∨ d = (s.line k).state.answered) c
    (fun _ k => .inr (by simp)) (fun h => by simp [not_startsUp_of_holdsScan hc] at h) (fun _ => .inl rfl) e i

/-- A command that starts the part up makes DTR low (R21, R168), or leaves it where it does nothing. -/
theorem exec_dtr_startsUp (hc : startsUp c = true) (e : exec c s = .next t) (i : LineId) :
    (t.line i).dtr = (s.line i).dtr ∨ (t.line i).dtr = false :=
  State.EachLine.exec (Line.dtrLaw fun k d => d = (s.line k).dtr ∨ d = false) c
    (fun h => by simp [not_holdsScan_of_startsUp hc] at h) (fun _ _ _ _ => .inr rfl) (fun _ => .inl rfl) e i

/-- The scan has written every DTR. -/
theorem State.scan_dtr (s : State) : s.scan.EachLine fun k l => l.dtr = (s.line k).state.answered := by
  intro k; simp

/-- A change of one line after a scan, DTR left as the scan wrote it. -/
theorem State.scan_setLine_dtr (s : State) (i : LineId) {l : Line} (hl : l.dtr = (s.line i).state.answered) :
    (s.scan.setLine i l).EachLine fun k l => l.dtr = (s.line k).state.answered := s.scan_dtr.setLine i hl

theorem Line.leaveHangup_dtr (l : Line) : l.leaveHangup.dtr = l.dtr := by
  unfold Line.leaveHangup; (repeat' split) <;> rfl

theorem State.admitLine_dtr {Q : LineId → Bool → Prop} (i : LineId) (h : s.EachLine fun k l => Q k l.dtr) :
    (s.admitLine i).EachLine fun k l => Q k l.dtr := by
  unfold State.admitLine; split
  · exact h.updLine i (by simpa using h i)
  · exact h.updLine i (by simpa using h i)

theorem exec_carrierDetect_dtr (h : s.mode = .running) (i : LineId) :
    ∃ t, exec (.carrierDetect i) s = .next t ∧ t.EachLine fun k l => l.dtr = (s.line k).state.answered := by
  by_cases hr : (s.line i).state = .answering ∧ (s.line i).cd = false
  · cases hm : (s.line i).config.mode with
    | auto => exact ⟨_, exec_carrierDetect_auto h hr.1 hr.2 hm, s.scan_setLine_dtr i rfl⟩
    | fixed =>
      exact ⟨_, exec_carrierDetect_fixed h hr.1 hr.2 hm,
        State.admitLine_dtr (Q := fun k d => d = (s.line k).state.answered) i (s.scan_setLine_dtr i rfl)⟩
  · exact ⟨_, exec_carrierDetect_seen h hr, s.scan_setLine_dtr i rfl⟩

theorem exec_carrierDrop_dtr (h : s.mode = .running) (i : LineId) :
    ∃ t, exec (.carrierDrop i) s = .next t ∧ t.EachLine fun k l => l.dtr = (s.line k).state.answered := by
  cases hw : (s.line i).state.watched with
  | true => exact ⟨_, exec_carrierDrop_watched h hw, s.scan_setLine_dtr i rfl⟩
  | false =>
    by_cases hg : (s.line i).state = .hangup ∧ (s.line i).guard = none
    · exact ⟨_, exec_carrierDrop_hangup h hg.1 hg.2, s.scan_setLine_dtr i (Line.leaveHangup_dtr _)⟩
    · exact ⟨_, exec_carrierDrop_seen h hw hg, s.scan_setLine_dtr i rfl⟩

theorem exec_ringSeen_dtr (h : s.mode = .running) (i : LineId) :
    ∃ t, exec (.ringSeen i) s = .next t ∧ t.EachLine fun k l => l.dtr = (s.line k).state.answered := by
  by_cases hr : (s.line i).state = .idle ∧ s.service.answers = true
  · exact ⟨_, exec_ringSeen_answered h hr.1 hr.2, s.scan_setLine_dtr i rfl⟩
  · exact ⟨_, exec_ringSeen_seen h hr, s.scan_setLine_dtr i rfl⟩

/-- A ring, a carrier's rise or fall and the metering tick always hold their scan (R1). -/
theorem exec_dtr_finding (h : s.mode = .running)
    (hc : c = .meteringTick ∨ ∃ i, c = .ringSeen i ∨ c = .carrierDetect i ∨ c = .carrierDrop i) :
    ∃ t, exec c s = .next t ∧ ∀ j, (t.line j).dtr = (s.line j).state.answered := by
  rcases hc with rfl | ⟨i, rfl | rfl | rfl⟩
  · exact ⟨_, State.whenRunning_running h State.tick,
      State.EachLine.tick (Line.dtrLaw fun k d => d = (s.line k).state.answered) s.scan_dtr⟩
  · exact exec_ringSeen_dtr h i
  · exact exec_carrierDetect_dtr h i
  · exact exec_carrierDrop_dtr h i

/-! ### The interval without a command -/

/-- A running part 10 ms later with nothing commanded (log 1). -/
def State.passed (s : State) : State :=
  { s with
    scans := s.scans + 1
    link := { s.link with monitor := Timer.pass s.link.monitor }
    lines := Vector.ofFn fun i => (s.line i).pass (Config.riStillHigh s.scans i) }

theorem step_idle (h : s.mode = .running) (hp : s.pending = []) : step s = .next s.passed := by
  simp only [step, hp, State.idle, h, if_true, State.passed]

theorem State.line_passed (s : State) (i : LineId) :
    s.passed.line i = (s.line i).pass (Config.riStillHigh s.scans i) := by
  simp [State.line, State.passed, Vector.get_eq_getElem]

/-- DTR settled is kept by a step, for lines with a session exactly in ACTIVE and GRACE. -/
theorem step_keeps_dtrSettled (hr : s.AllLines Line.SessionRight) (hd : s.AllLines Line.DtrSettled)
    (e : step s = .next t) : t.AllLines Line.DtrSettled := fun i =>
  (State.EachLine.step (P := fun _ l => l.DtrSettled ∧ l.SessionRight) Line.settledLaw
    (fun _ _ h => ⟨fun _ _ => rfl, h.2⟩)
    (fun _ _ _ => ⟨.of_hangup rfl, rfl⟩)
    (fun _ _ _ h => ⟨fun _ _ => rfl, h.2.congr rfl (by simp [Line.pass])⟩)
    (fun i => ⟨hd i, hr i⟩) e i).1

end

/-- Settles O4: DTR is written by scans alone (`Line.dtrLaw`), and every operation on a line keeps it settled
(`Line.settledLaw`). -/
theorem dtrIsWrittenByTheScan : Obligations.DtrIsWrittenByTheScan := by
  refine ⟨fun s t h hp e i => ?_, fun s c h hc => exec_dtr_finding h hc, fun c s t e i => ⟨?_, ?_, ?_⟩,
    fun s t hr hd e => step_keeps_dtrSettled hr hd e⟩
  · rw [step_idle h hp] at e
    injection e with e
    subst e
    rw [State.line_passed]
    rfl
  · exact fun hc hs => exec_dtr_unscanned hc hs e i
  · exact fun hc => exec_dtr_scanned hc e i
  · exact fun hc => exec_dtr_startsUp hc e i

/-- Settles O2: the idle step written out, line by line (`step_idle`). -/
theorem idleStepRunsTimersDown : Obligations.IdleStepRunsTimersDown := by
  intro s h hp
  refine ⟨_, step_idle h hp, rfl, rfl, fun i => ⟨(s.line i).ri && Config.riStillHigh s.scans i, ?_⟩⟩
  rw [State.line_passed]
  unfold Line.pass HeldTimer.pass
  rfl

end Sys2Proof.Machine
end


section
/-! The moves of a line as the claims write them, and the line scanner's statements (O40, O41, O43). -/

namespace Sys2Proof.Machine

/-! ### The moves as the claims write them -/

theorem Line.raiseEvent_eq_withEvent (l : Line) (kind : LineEventKind) (detail : Byte) :
    l.raiseEvent kind detail = l.withEvent kind detail := by
  unfold Line.raiseEvent Line.withEvent; cases l.reports.event <;> rfl

theorem Line.with_cd {l : Line} {b : Bool} (h : l.cd = b) : { l with cd := b } = l := by subst h; rfl

/-- HANGUP left with a disable pending (R11). -/
theorem Line.leaveHangup_disabled {l : Line} (h : l.disablePending = true) :
    l.leaveHangup
      = { l with state := .disabled, carrierLoss := none, disablePending := false, lockoutDue := false } := by
  rw [Line.leaveHangup, if_pos h]; rfl

/-- HANGUP left with lockout due (R11, R12). -/
theorem Line.leaveHangup_lockout {l : Line} (h : l.disablePending = false) (hd : l.lockoutDue = true)
    (hc : l.config.lockout ≠ 0) :
    l.leaveHangup = Line.withEvent { l with
      state := .lockout, carrierLoss := none, lockoutDue := false, lockout := some (l.config.lockout * 6000) }
      .lockoutStart (byteOf l.config.lockout) := by
  rw [Line.leaveHangup, if_neg (by simp [h]), if_pos ⟨hd, hc⟩, Line.raiseEvent_eq_withEvent, Nat.mul_assoc]
  rfl

/-- HANGUP left for IDLE (R11). -/
theorem Line.leaveHangup_idle {l : Line} (h : l.disablePending = false)
    (hd : l.lockoutDue = false ∨ l.config.lockout = 0) :
    l.leaveHangup = { l with state := .idle, carrierLoss := none, lockoutDue := false } := by
  rw [Line.leaveHangup, if_neg (by simp [h]), if_neg (by rcases hd with hd | hd <;> simp [hd])]
  rfl

/-- The same line written gives the same outcome. -/
theorem next_setLine {s : State} {i : LineId} {l l' : Line} (e : l = l') :
    (Host.Outcome.next (s.setLine i l) : Out) = .next (s.setLine i l') := by rw [e]

/-! ### Admission and refusal -/

@[simp] theorem State.setLine_setLine (s : State) (i : LineId) (l l' : Line) :
    (s.setLine i l).setLine i l' = s.setLine i l' := by
  simp [State.setLine]

theorem State.admits_iff (s : State) : s.admits = true ↔ s.Admits := by
  unfold State.admits State.Admits
  cases s.service <;> cases s.link.applied <;> simp

theorem State.admitLine_admitted {s : State} (h : s.Admits) (i : LineId) :
    s.admitLine i = s.setLine i ((s.line i).toDialog s.texts) := by
  rw [State.admitLine, if_pos (s.admits_iff.2 h)]; rfl

theorem State.admitLine_refused {s : State} (h : ¬ s.Admits) (i : LineId) :
    s.admitLine i = s.setLine i ((s.line i).place (s.textFor 6 none none)).toRejecting := by
  rw [State.admitLine, if_neg (mt s.admits_iff.1 h)]; rfl

/-- A text placed on a line with speed fills the notice slot (R55, R58). -/
theorem Line.place_of_speed {l : Line} (h : l.unit.speed ≠ none) (chars : List Byte) :
    l.place chars = { l with out := { l.out with noticeWait := chars, waitPrompt := none } } := by
  rw [Line.place, if_pos (Option.isSome_iff_ne_none.2 h)]

/-- No prompt is placed while a notice waits (R63). -/
theorem Line.placeDue_of_notice {l : Line} (h : l.out.noticeWait ≠ []) (texts : Vector (List Byte) 16) :
    l.placeDue texts = l := by
  unfold Line.placeDue
  split
  · rfl
  · rw [if_neg (by simp [Line.slotEmpty, h])]

theorem Line.not_outputDone_of_notice {l : Line} (h : l.out.noticeWait ≠ []) : l.outputDone = false := by
  simp [Line.outputDone, h]

/-- A line that still has to send is not settled (R61). -/
theorem Line.settle_of_notice {l : Line} (h : l.out.noticeWait ≠ []) : l.settle = l := by
  rw [Line.settle, if_neg (by simp [Line.not_outputDone_of_notice h])]

/-- The first entry to DIALOG in a call (R62). -/
theorem Line.toDialog_admitted (l : Line) (k : SpeedCode) {texts : Vector (List Byte) 16}
    (ht : expand none none (texts.get 0) ≠ []) (hn : ∀ n, l.dialog.timer ≠ .held n) :
    Line.toDialog texts { l with unit := l.unit.start k l.config.format }
      = l.admitted k (expand none none (texts.get 0)) := by
  unfold Line.toDialog
  dsimp only
  rw [Line.place_of_speed (by simp [CharUnit.start, Line.goto]), Line.placeDue_of_notice ht]
  split
  next n e => exact absurd e (hn n)
  next => rfl

/-- The entry to DIALOG again after a BREAK (R62). -/
theorem Line.toDialog_readmitted (l : Line) (k : SpeedCode) {texts : Vector (List Byte) 16} {n : Nat}
    (ht : expand none none (texts.get 0) ≠ []) (hn : l.dialog.timer = .held n) :
    Line.toDialog texts { l with unit := l.unit.start k l.config.format }
      = l.readmitted k (expand none none (texts.get 0)) n := by
  unfold Line.toDialog
  dsimp only
  rw [Line.place_of_speed (by simp [CharUnit.start, Line.goto]), Line.placeDue_of_notice ht]
  simp only [hn]
  rfl

/-- A refusal whose text is still to be sent leaves the line in REJECTING (R62, R74). -/
theorem Line.refused_place {l : Line} {text : List Byte} (hs : l.unit.speed ≠ none) (ht : text ≠ []) :
    l.Refused text (l.place text).toRejecting
    ∧ (l.place text).toRejecting.cd = l.cd ∧ (l.place text).toRejecting.carrierWait = none
    ∧ (l.place text).toRejecting.unit = l.unit ∧ (l.place text).toRejecting.reports = l.reports := by
  rw [Line.place_of_speed hs, Line.toRejecting, Line.settle_of_notice ht]
  exact ⟨⟨rfl, rfl, rfl, rfl, rfl, rfl, rfl, rfl, rfl, rfl, rfl, rfl⟩, rfl, rfl, rfl, rfl⟩

theorem Line.Refused.of_same {text : List Byte} {old old' new : Line} (h : old'.Refused text new)
    (hd : old'.dtr = old.dtr) (hs : old'.session = old.session) (hc : old'.config = old.config)
    (hg : old'.generation = old.generation) : old.Refused text new where
  state := h.state
  dtr := h.dtr.trans hd
  notice := h.notice
  rejecting := h.rejecting
  timer := h.timer
  name := h.name
  password := h.password
  prompt := h.prompt
  detector := h.detector
  session := h.session.trans hs
  config := h.config.trans hc
  generation := h.generation.trans hg

/-! ### Rings -/

theorem Service.answers_iff (v : Service) : v.answers = true ↔ v = .opened ∨ v = .linkLost := by
  cases v <;> simp [Service.answers]

/-- Settles O40: the two cases of RING and of the carrier wait's expiry (R3, R4, R7). -/
theorem ringAnswersAnIdleLine : Obligations.RingAnswersAnIdleLine := by
  intro s i l h hl
  subst hl
  rw [State.scanned_eq_scan]
  refine ⟨fun hs hv => ?_, fun hs => ?_, fun hs hw => ?_, fun hs => ?_⟩
  · exact exec_ringSeen_answered h hs ((Service.answers_iff _).2 hv)
  · refine exec_ringSeen_seen h fun ⟨hi, hv⟩ => ?_
    rcases hs with hs | hs | hs
    · exact hs hi
    · rw [hs] at hv; cases hv
    · rw [hs] at hv; cases hv
  · rw [← Line.raiseEvent_eq_withEvent, exec, execCarrierWaitExpiry]
    exact State.lineExpiry_due h (due_of_runs hs hw) _
  · have hne : ¬ ((s.line i).state = .answering ∧ (s.line i).carrierWait.isSome = true) := fun ⟨ha, hw⟩ =>
      hs.elim (fun hs => hs ha) (Option.isSome_iff_ne_none.1 hw)
    rw [exec, execCarrierWaitExpiry]
    exact State.lineExpiry_idle h (by exact decide_eq_false hne) _

/-! ### Carrier -/

/-- Settles O41: the rise of CD in ANSWERING by mode and admission, and the end of a dip (R5, R6, R8). -/
theorem carrierBringsDetectionOrDialog : Obligations.CarrierBringsDetectionOrDialog := by
  intro s i l h hl
  subst hl
  rw [State.scanned_eq_scan]
  refine ⟨fun hs hc => ⟨fun hm => ?_, fun hm ha hn ht => ?_, fun hm ha ht => ?_⟩, fun hw => ?_⟩
  · exact exec_carrierDetect_auto h hs hc hm
  · rw [exec_carrierDetect_fixed h hs hc hm, State.admitLine_admitted (s := s.scan.setLine i _) ha,
      State.setLine_setLine, State.line_setLine, if_pos rfl]
    exact next_setLine (Line.toDialog_admitted { (s.line i).drive with cd := true, carrierWait := none } _ ht hn)
  · rw [exec_carrierDetect_fixed h hs hc hm, State.admitLine_refused (s := s.scan.setLine i _) ha,
      State.setLine_setLine, State.line_setLine, if_pos rfl]
    obtain ⟨hr, hcd, hcw, hu, hrep⟩ := Line.refused_place (l := { (s.line i).drive with
      cd := true, carrierWait := none, unit := (s.line i).unit.start (s.line i).config.fixedSpeed
        (s.line i).config.format }) (text := s.textFor 6 none none) (by simp [CharUnit.start]) ht
    exact ⟨_, rfl, hr.of_same rfl rfl rfl rfl, hcd, hcw, congrArg CharUnit.speed hu, hrep⟩
  · have hw' : (s.line i).state.watched = true := hw
    have hns : ¬ ((s.line i).state = .answering ∧ (s.line i).cd = false) := fun ⟨e, _⟩ => by
      rw [e] at hw'; cases hw'
    rw [exec_carrierDetect_seen h hns, if_pos hw']
    rfl

/-! ### The timers of a line -/

/-- HANGUP is left at the guard's expiry with CD low, or at the fall of CD with the guard expired (R11). -/
theorem exec_leaveHangup {s : State} {i : LineId} {c : Instr} (h : s.mode = .running) (hs : (s.line i).state = .hangup)
    (hc : c = .hangupGuardExpiry i ∧ (s.line i).guard ≠ none ∧ (s.line i).cd = false
      ∨ c = .carrierDrop i ∧ (s.line i).guard = none) :
    exec c s = .next (s.scan.setLine i (Line.leaveHangup { (s.line i).drive with guard := none, cd := false })) := by
  rcases hc with ⟨rfl, hg, hcd⟩ | ⟨rfl, hg⟩
  · rw [exec, execHangupGuardExpiry, State.lineExpiry_due h (due_of_runs hs hg),
      if_neg (by simp [hcd]), Line.with_cd (l := { (s.line i).drive with guard := none }) hcd]
  · have hg' : { (s.line i).drive with guard := none, cd := false } = { (s.line i).drive with cd := false } := by
      rw [← hg]; rfl
    rw [exec_carrierDrop_hangup h hs hg, hg']

/-- Settles O43: the ways out of HANGUP by what is due, and the timers that end LOCKOUT, DRAINING and REJECTING. -/
theorem timersMoveTheLineOn : Obligations.TimersMoveTheLineOn := by
  intro s i l base h hl hb
  subst hl hb
  rw [State.scanned_eq_scan]
  refine ⟨fun c hc hs => ⟨fun hp => ?_, fun hp hd hk => ?_, fun hp hd => ?_⟩, fun hs hg hcd => ?_, fun hs hk => ?_,
    fun hs hd => ?_, fun hs hd => ?_⟩
  · rw [exec_leaveHangup h hs hc]; exact next_setLine (Line.leaveHangup_disabled hp)
  · rw [exec_leaveHangup h hs hc]; exact next_setLine (Line.leaveHangup_lockout hp hd hk)
  · rw [exec_leaveHangup h hs hc]; exact next_setLine (Line.leaveHangup_idle hp hd)
  · rw [exec, execHangupGuardExpiry, State.lineExpiry_due h (due_of_runs hs hg)]
    exact next_setLine (if_pos hcd)
  · rw [← Line.raiseEvent_eq_withEvent, exec, execLockoutExpiry]
    exact State.lineExpiry_due h (due_of_runs hs hk) _
  · rw [exec, execDrainTimerExpiry]
    exact State.lineExpiry_due h (due_of_runs hs hd) _
  · rw [exec, execRejectingTimerExpiry]
    exact State.lineExpiry_due h (due_of_runs hs hd) _

/-! ### Reset -/

theorem State.line_reset (i : LineId) : State.reset.line i = Line.atStart false false := by
  show (linesAtStart ⟨0, 0, 0⟩).get i = _
  simp [linesAtStart, Vector.get_eq_getElem]

theorem Store.emptied_checkpoint (i : LineId) : Store.emptied.checkpoint i = none := by
  simp [Store.checkpoint, Store.emptied, Vector.get_eq_getElem]

theorem State.reset_storeRight : State.reset.StoreRight where
  good := by decide
  counted := rfl
  serials k r h := by simp [State.reset, Store.emptied] at h
  room := by
    have : State.reset.store.validCount = 0 := by
      show ((allLines.filter fun i => (Store.emptied.checkpoint i).isSome).length) = 0
      simp [Store.emptied_checkpoint]
    rw [Store.sum, this]; exact Nat.zero_le _
  mark := le_rfl
  entries _ i := by
    show (Store.emptied.checkpoint i).isSome = _
    rw [Store.emptied_checkpoint, State.line_reset]; rfl

theorem Line.atStart_bounded (ri cd : Bool) : (Line.atStart ri cd).Bounded := by
  simp [Line.Bounded, Line.atStart, CharUnit.atStart, Output.atStart, Detector.atStart]

/-- Settles O9: every line is the start-up line, the store is empty and the account table too. -/
theorem resetMeetsInvariants : Obligations.ResetMeetsInvariants := by
  refine ⟨fun i => ?_, fun i => ?_, fun i => ?_, State.reset_storeRight, fun i => ?_, ⟨Nat.zero_le _, Nat.zero_le _⟩,
    ⟨nofun, fun i n e => ?_⟩, nofun⟩
  · rw [State.line_reset]; rfl
  · rw [State.line_reset]; exact .of_hangup rfl
  · rw [State.line_reset]; rfl
  · rw [State.line_reset]; exact Line.atStart_bounded _ _
  · rw [State.line_reset] at e; cases e

end Sys2Proof.Machine
end


section
/-! Accounts in the table, and the end of a session whose closing debit makes no transition. -/

namespace Sys2Proof.Machine

/-! ### The account table -/

theorem State.account?_name {s : State} {n : Name} {a : Account} (h : s.account? n = some a) : a.name = n := by
  simpa using List.find?_some h

/-- An entry replaced in a list, found by its name: the entry itself if its name is there. -/
theorem find?_replace (a : Account) (n : Name) (xs : List Account) :
    (xs.map fun b => if b.name = a.name then a else b).find? (fun b => b.name = n)
      = if n = a.name ∧ (xs.any fun b => b.name = a.name) = true then some a
        else xs.find? fun b => b.name = n := by
  induction xs with
  | nil => simp
  | cons b xs ih =>
    rw [List.map_cons, List.find?_cons, ih]
    by_cases hb : b.name = a.name <;> by_cases hn : n = a.name
    · simp [hb, hn]
    · simp [hb, hn, Ne.symm hn]
    · subst hn; simp [hb]
    · simp [hb, hn, List.find?_cons]

/-- An entry put in its place among others of other names, found by its name. -/
theorem find?_insertAccount (a : Account) (n : Name) {xs : List Account} (hx : ∀ b ∈ xs, b.name ≠ a.name) :
    (insertAccount a xs).find? (fun b => b.name = n)
      = if n = a.name then some a else xs.find? fun b => b.name = n := by
  unfold insertAccount
  dsimp only
  generalize (fun b : Account => decide (nameKey b.name < nameKey a.name)) = before
  by_cases hn : n = a.name
  · have hnone : (xs.takeWhile before).find? (fun b => b.name = n) = none := by
      simp only [List.find?_eq_none, decide_eq_true_eq]
      exact fun b hb e => hx b ((List.takeWhile_sublist before).subset hb) (e.trans hn)
    rw [List.find?_append, hnone, if_pos hn]
    simp [hn]
  · rw [List.find?_append, List.find?_cons, if_neg hn, decide_eq_false (Ne.symm hn), ← List.find?_append,
      List.takeWhile_append_dropWhile]

/-- The table after an entry is put in it. -/
theorem State.account?_putAccount (s : State) (a : Account) (n : Name) :
    (s.putAccount a).account? n = if n = a.name then some a else s.account? n := by
  show (storeAccount a s.accounts).find? _ = _
  unfold storeAccount
  split
  next h =>
    rw [find?_replace]
    simp only [h, and_true]
    rfl
  next h =>
    rw [find?_insertAccount a n (by simpa using h)]
    rfl

theorem State.account?_congr {s t : State} (h : s.accounts = t.accounts) (n : Name) : s.account? n = t.account? n := by
  simp [State.account?, h]

/-! ### A debit without a transition -/

theorem satBudget_eq_clampBudget (z : Int) : satBudget z = clampBudget z := by
  unfold satBudget clampBudget budgetMax budgetMin
  split
  · omega
  · split <;> omega

theorem State.budgetStateOf_eq (s : State) (budget : Int) (overdraft : Nat) (c : Cls) :
    budgetStateOf budget overdraft (s.warnLevel c) = s.stateOfBudget budget overdraft c := by
  unfold budgetStateOf State.stateOfBudget State.warnLevel
  cases s.tariff <;> rfl

/-- A re-evaluation that finds the budget state as it is does nothing (R81). -/
theorem State.reevaluate_quiet {s : State} {n : Name} {a : Account} (ha : s.account? n = some a)
    (hq : s.stateOfBudget a.budget a.overdraft a.cls = a.bstate) : s.reevaluate n = (s, none) := by
  unfold State.reevaluate
  rw [ha]
  exact if_pos ((State.budgetStateOf_eq ..).trans hq)

/-- A debit that leaves the budget state as it is writes the budget and nothing else (R80, R81). -/
theorem State.debit_quiet {s : State} {n : Name} {a : Account} {amount budget : Int} (ha : s.account? n = some a)
    (hb : budget = clampBudget (a.budget - amount)) (hq : s.stateOfBudget budget a.overdraft a.cls = a.bstate) :
    s.debit n amount = (s.putAccount { a with budget := budget }, none) := by
  subst hb
  unfold State.debit
  rw [ha]
  dsimp only
  rw [satBudget_eq_clampBudget]
  exact State.reevaluate_quiet ((State.account?_putAccount ..).trans (if_pos (State.account?_name ha).symm)) hq

/-! ### The charge level -/

@[simp] theorem State.testChargeLevel_store (s : State) : s.testChargeLevel.store = s.store := by
  unfold State.testChargeLevel; split <;> rfl
@[simp] theorem State.testChargeLevel_accounts (s : State) : s.testChargeLevel.accounts = s.accounts := by
  unfold State.testChargeLevel; split <;> rfl
@[simp] theorem State.testChargeLevel_service (s : State) : s.testChargeLevel.service = s.service := by
  unfold State.testChargeLevel; split <;> rfl
@[simp] theorem State.testChargeLevel_clock (s : State) : s.testChargeLevel.clock = s.clock := by
  unfold State.testChargeLevel; split <;> rfl
@[simp] theorem State.testChargeLevel_tariff (s : State) : s.testChargeLevel.tariff = s.tariff := by
  unfold State.testChargeLevel; split <;> rfl
@[simp] theorem State.testChargeLevel_texts (s : State) : s.testChargeLevel.texts = s.texts := by
  unfold State.testChargeLevel; split <;> rfl
@[simp] theorem State.testChargeLevel_replies (s : State) : s.testChargeLevel.link.replies = s.link.replies := by
  unfold State.testChargeLevel; split <;> rfl

/-! ### The account's part of an end, and the store's -/

/-- `s` after steps 1 to 3 of the end sequence: the account `a` debited to `budget`, the charge appended, the account's
place given back (R131). -/
def State.closedOut (s : State) (i : LineId) (a : Account) (budget : Int) (r : EndReason) (charge : Charge) : State :=
  State.putAccount (State.testChargeLevel { s.putAccount { a with budget := budget } with
    store := s.store.append i charge r false }) { a with budget := budget, active := a.active - 1 }

section
variable (s : State) (i : LineId) (a : Account) (budget : Int) (r : EndReason) (charge : Charge)

@[simp] theorem State.closedOut_lines : (s.closedOut i a budget r charge).lines = s.lines := by
  simp [State.closedOut]
@[simp] theorem State.closedOut_line (j : LineId) : (s.closedOut i a budget r charge).line j = s.line j :=
  State.line_congr (by simp) j
@[simp] theorem State.closedOut_store : (s.closedOut i a budget r charge).store = s.store.append i charge r false := by
  simp [State.closedOut]
@[simp] theorem State.closedOut_service : (s.closedOut i a budget r charge).service = s.service := by
  simp [State.closedOut]
@[simp] theorem State.closedOut_clock : (s.closedOut i a budget r charge).clock = s.clock := by
  simp [State.closedOut]
@[simp] theorem State.closedOut_tariff : (s.closedOut i a budget r charge).tariff = s.tariff := by
  simp [State.closedOut]
@[simp] theorem State.closedOut_texts : (s.closedOut i a budget r charge).texts = s.texts := by
  simp [State.closedOut]
@[simp] theorem State.closedOut_replies : (s.closedOut i a budget r charge).link.replies = s.link.replies := by
  simp [State.closedOut]

theorem State.closedOut_account? (n : Name) :
    (s.closedOut i a budget r charge).account? n
      = if n = a.name then some { a with budget := budget, active := a.active - 1 } else s.account? n := by
  rw [State.closedOut, State.account?_putAccount]
  split
  · rfl
  next h =>
    rw [State.account?_congr (State.testChargeLevel_accounts _)]
    exact (State.account?_putAccount ..).trans (if_neg h)

end

/-- The store after an append (R145, R146). -/
theorem Store.append_records (st : Store) (i : LineId) (c : Charge) (r : EndReason) (b : Bool) :
    (st.append i c r b).records = st.records ++ [⟨st.nextSerial, c, r, b⟩] := rfl
theorem Store.append_count (st : Store) (i : LineId) (c : Charge) (r : EndReason) (b : Bool) :
    (st.append i c r b).count = st.count + 1 := rfl
theorem Store.append_nextSerial (st : Store) (i : LineId) (c : Charge) (r : EndReason) (b : Bool) :
    (st.append i c r b).nextSerial = st.nextSerial + 1 := rfl
theorem Store.append_checkpoints (st : Store) (i j : LineId) (c : Charge) (r : EndReason) (b : Bool) :
    (st.append i c r b).checkpoints.get j = if j = i then none else st.checkpoints.get j := by
  show (st.checkpoints.set i.val none i.isLt).get j = _
  simp only [Vector.get_eq_getElem, Vector.getElem_set]
  by_cases h : j = i
  · simp [h]
  · have : ¬ i.val = j.val := fun e => h (Fin.ext e.symm)
    simp [h, this]

/-! ### The line's part of an end -/

theorem Line.inputBytes_eq (l : Line) (ses : Session) : l.inputBytes ses = l.inputHeldBytes ses := by
  unfold Line.inputBytes Line.inputHeldBytes
  cases ses.held <;> rfl

/-- The END flag of the session of line `i` that ends in `s` with the closed charge `charge` (R133). -/
def State.endFlag (s : State) (i : LineId) (r : EndReason) (charge : Charge) (lost : Nat) : EndFlag :=
  ⟨tagOf i (s.line i).generation, r, s.store.nextSerial, charge.units, charge.seconds, lost⟩

/-- Line `i` after steps 4 to 8 of the end sequence of its session (R131), the account's budget now `budget`. -/
def State.endedLine (s : State) (i : LineId) (ses : Session) (r : EndReason) (keep : Bool) (budget : Int)
    (charge : Charge) : Line :=
  let l := (s.line i).endInput ses keep (s.endFlag i r charge)
  Line.endMove r.hangsUp (match r.text with
    | some k => l.place (s.textFor k (some budget) (some charge.units))
    | none => l)

theorem Rounding.unit_eq (r : Rounding) (residue : Nat) : r.unit residue = roundingUnitOf r residue := by
  cases r <;> rfl

/-- Steps 4 to 8 write line `i` alone (R131): in a state `c` with the line and the texts of `s` and the account `n` at
`budget`, whatever `f` does of steps 4 to 6. -/
theorem State.endSteps_eq {s c : State} {i : LineId} {n : Name} {budget : Int} {ses : Session} {r : EndReason}
    {keep : Bool} {charge : Charge} (hl : c.line i = s.line i) (ht : c.texts = s.texts)
    (ha : (c.account? n).map Account.budget = some budget) {f : Line → Line}
    (hf : f (s.line i) = (s.line i).endInput ses keep (s.endFlag i r charge)) :
    State.updLine (match r.text with
        | some k => (c.updLine i f).placeText i k (((c.updLine i f).account? n).map Account.budget) (some charge.units)
        | none => c.updLine i f) i (Line.endMove r.hangsUp)
      = c.setLine i (s.endedLine i ses r keep budget charge) := by
  unfold State.endedLine
  dsimp only
  rw [← hf]
  cases r.text with
  | none => simp [State.updLine, hl]
  | some k =>
    have hb : ((c.updLine i f).account? n).map Account.budget = some budget := ha
    simp [State.updLine, State.placeText, hl, ht, State.textFor]
    rw [← hb]; rfl

/-- The premises under which a session of line `i` closes with the charge `charge` and leaves the account `a` at
`budget`, its closing debit making no transition (R120, R121). -/
structure State.ClosesQuietly (s : State) (i : LineId) (ses : Session) (a : Account) (budget : Int)
    (charge : Charge) : Prop where
  session : (s.line i).session = some ses
  account : s.account? ses.meter.account = some a
  closing : ∃ tariff ru, s.tariff = some tariff ∧ ru = roundingUnitOf tariff.rounding ses.meter.residue
    ∧ budget = clampBudget (a.budget - ru) ∧ charge = s.closed i ses.meter ru
  quiet : s.stateOfBudget budget a.overdraft a.cls = a.bstate

/-- The end sequence where the closing debit makes no transition (R131). -/
theorem State.endSession_quiet {s : State} {i : LineId} {ses : Session} {a : Account} {budget : Int} {charge : Charge}
    (h : s.ClosesQuietly i ses a budget charge) (r : EndReason) (keep : Bool) :
    s.endSession i r keep
      = ((s.closedOut i a budget r charge).setLine i (s.endedLine i ses r keep budget charge), none) := by
  obtain ⟨hs, ha, ⟨tariff, ru, ht, hru, hb, rfl⟩, hq⟩ := h
  have hru : s.roundingUnit ses.meter.residue = ru := by
    rw [State.roundingUnit, ht, hru]; exact Rounding.unit_eq _ _
  have hn : ses.meter.account = a.name := (State.account?_name ha).symm
  have place (c : Charge) : (State.testChargeLevel { s.putAccount { a with budget := budget } with
      store := s.store.append i c r false }).account? ses.meter.account = some { a with budget := budget } := by
    rw [State.account?_congr (State.testChargeLevel_accounts _)]
    exact (State.account?_putAccount ..).trans (if_pos hn)
  unfold State.endSession
  rw [hs]
  dsimp only
  rw [hru, State.debit_quiet ha hb hq]
  dsimp only [State.putAccount_store]
  rw [place]
  refine Prod.ext (State.endSteps_eq (s := s) (i := i) (n := ses.meter.account)
    (budget := budget) (ses := ses) (r := r) (keep := keep) (charge := s.closed i ses.meter ru)
    (c := s.closedOut i a budget r (s.closed i ses.meter ru)) (by simp) (by simp)
    (by rw [State.closedOut_account?, if_pos hn]; rfl) ?_) rfl
  exact congrArg (fun l : Line => (s.line i).endInput ses keep fun lost =>
    ⟨tagOf i l.generation, r, s.store.nextSerial, (s.closed i ses.meter ru).units, ses.meter.seconds, lost⟩)
    (State.closedOut_line s i a budget r (s.closed i ses.meter ru) i)

/-- A single end where the closing debit makes no transition has no effect on other sessions (R120, R131). -/
theorem State.endOne_quiet {s : State} {i : LineId} {ses : Session} {a : Account} {budget : Int} {charge : Charge}
    (h : s.ClosesQuietly i ses a budget charge) (r : EndReason) (keep : Bool) :
    s.endOne i r keep = (s.closedOut i a budget r charge).setLine i (s.endedLine i ses r keep budget charge) := by
  rw [State.endOne, State.endSession_quiet h]; rfl

/-! ### The ended line -/

section
variable (l : Line) (ses : Session) (keep : Bool) (flag : Nat → EndFlag) (chars : List Byte)

@[simp] theorem Line.place_reports : (l.place chars).reports = l.reports := by unfold Line.place; split <;> rfl
@[simp] theorem Line.place_tallies : (l.place chars).tallies = l.tallies := by unfold Line.place; split <;> rfl
@[simp] theorem Line.place_disablePending : (l.place chars).disablePending = l.disablePending := by
  unfold Line.place; split <;> rfl
@[simp] theorem Line.settle_reports : l.settle.reports = l.reports := by unfold Line.settle; split <;> rfl
@[simp] theorem Line.settle_tallies : l.settle.tallies = l.tallies := by unfold Line.settle; split <;> rfl
@[simp] theorem Line.settle_disablePending : l.settle.disablePending = l.disablePending := by
  unfold Line.settle; split <;> rfl
@[simp] theorem Line.endMove_reports (hangUp : Bool) : (l.endMove hangUp).reports = l.reports := by
  unfold Line.endMove; split
  · rfl
  · rw [Line.settle_reports]; rfl
@[simp] theorem Line.endMove_tallies (hangUp : Bool) : (l.endMove hangUp).tallies = l.tallies := by
  unfold Line.endMove; split
  · rfl
  · rw [Line.settle_tallies]; rfl
@[simp] theorem Line.endMove_disablePending (hangUp : Bool) :
    (l.endMove hangUp).disablePending = l.disablePending := by
  unfold Line.endMove; split
  · rfl
  · rw [Line.settle_disablePending]; rfl

/-- Steps 4 to 6 on the line, where nothing of the session is left but its END (R48, R131, R133). -/
theorem Line.endInput_reports : (l.endInput ses keep flag).reports = { l.reports with
    attention := none, outReady := none, ended := some (flag (min 65535 (l.inputHeldBytes ses))) } := by
  unfold Line.endInput Line.releaseInput
  dsimp only
  rw [Line.inputBytes_eq, satAdd, Nat.zero_add]
  split <;> rfl
theorem Line.endInput_tallies : (l.endInput ses keep flag).tallies = { l.tallies with
    inputLost := min 65535 (l.tallies.inputLost + l.inputHeldBytes ses) } := by
  unfold Line.endInput Line.releaseInput
  dsimp only
  rw [Line.inputBytes_eq]
  split <;> rfl
@[simp] theorem Line.endInput_disablePending : (l.endInput ses keep flag).disablePending = l.disablePending := by
  unfold Line.endInput Line.releaseInput; dsimp only; split <;> rfl
@[simp] theorem Line.endInput_speed : (l.endInput ses keep flag).unit.speed = l.unit.speed := by
  unfold Line.endInput Line.releaseInput; dsimp only; split <;> rfl

/-- HANGUP after an end keeps of the session only its END and its tally (R10, R48, R133). -/
theorem Line.hangup_endInput : (l.endInput ses keep flag).hangup = { l.onHook with
    session := none
    tallies := { l.tallies with inputLost := min 65535 (l.tallies.inputLost + l.inputHeldBytes ses) }
    reports := { l.reports with
      attention := none, outReady := none, ended := some (flag (min 65535 (l.inputHeldBytes ses))) } } := by
  rw [← Line.endInput_tallies l ses keep flag, ← Line.endInput_reports l ses keep flag]
  unfold Line.endInput Line.releaseInput
  dsimp only
  split <;> rfl

/-- An end whose text is still to be sent leaves the line in DRAINING (R135). -/
theorem Line.endMove_draining {l : Line} {chars : List Byte} (hs : l.unit.speed ≠ none) (ht : chars ≠ []) :
    (l.place chars).endMove false = { l with
      state := .draining
      drain := some 3000
      out := { l.out with noticeWait := chars, waitPrompt := none } } := by
  rw [Line.place_of_speed hs, Line.endMove, if_neg (by simp), Line.settle_of_notice ht]
  rfl

end

/-- The line, the record and the END of a session ended without a transition, as the claims say them (R121, R131,
R133). -/
theorem State.sessionEnded_quiet (s : State) (i : LineId) (ses : Session) (a : Account) (budget : Int)
    (charge : Charge) (r : EndReason) (keep : Bool) :
    s.SessionEnded ((s.closedOut i a budget r charge).setLine i (s.endedLine i ses r keep budget charge)) i (s.line i)
      ses r charge := by
  have hl : ((s.closedOut i a budget r charge).setLine i (s.endedLine i ses r keep budget charge)).line i
      = s.endedLine i ses r keep budget charge := by simp
  constructor
  · rw [hl]; unfold State.endedLine; cases r.text <;> simp
  · rw [hl]; exact Line.endMove_state _ _
  · simp [Store.append_records]
  · simp [Store.append_checkpoints]
  · rw [hl]; unfold State.endedLine; cases r.text <;> simp [Line.endInput_reports] <;> rfl
  · rw [hl]; unfold State.endedLine; cases r.text <;> simp [Line.endInput_tallies]

end Sys2Proof.Machine
end


section
/-! The loss of the carrier (O42), the requests that name a line (O20), and the enumerated fields of a configuration. -/

namespace Sys2Proof.Machine

/-! ### The loss of the carrier -/

theorem State.closed_scan (s : State) (i : LineId) (m : Meter) (ru : Nat) : s.scan.closed i m ru = s.closed i m ru := by
  simp [State.closed]

/-- Settles O42: the dip begun, and the carrier's loss without and with a session (R8, R9, R131). -/
theorem carrierLossHangsUpOrEndsTheSession : Obligations.CarrierLossHangsUpOrEndsTheSession := by
  intro s i l h hl
  subst hl
  rw [State.scanned_eq_scan]
  refine ⟨fun hw => exec_carrierDrop_watched h hw, fun hc => exec_carrierLoss_stopped h hc,
    fun hc hw hm => exec_carrierLoss_watched h hc hm hw, ?_⟩
  intro hc hm ses a tariff ru budget charge hs ht ha hru hb hq hch
  have hquiet : s.scan.ClosesQuietly i ses a budget charge :=
    ⟨by rw [State.line_scan]; exact hs, ha, ⟨tariff, ru, ht, hru, hb, hch.trans (State.closed_scan ..).symm⟩, hq⟩
  have hn : ses.meter.account = a.name := (State.account?_name ha).symm
  have hline : s.scan.endedLine i ses .carrierLost false budget charge
      = ((s.line i).drive.endInput ses false (s.scan.endFlag i .carrierLost charge)).hangup := by
    rw [← State.line_scan]; rfl
  have hend := s.scan.sessionEnded_quiet i ses a budget charge .carrierLost false
  refine ⟨_, (exec_carrierLoss_metered h hc hm).trans (congrArg _ (State.endOne_quiet hquiet _ _)),
    hend.record, ?_, ?_, hend.entry, ?_, fun m hm => ?_, ?_, ?_, ?_, ?_, fun j hj => ?_, ?_⟩
  · simp [Store.append_count]
  · simp [Store.append_nextSerial]
  · exact (State.closedOut_account? ..).trans (if_pos hn)
  · exact (State.closedOut_account? ..).trans (if_neg (hn ▸ hm))
  · simp
  · simp
  · simp
  · simp
  · simp [hj, Line.driven_eq_drive]
  · rw [State.line_setLine, if_pos rfl, hline, Line.hangup_endInput]
    unfold State.endFlag
    rw [State.line_scan]
    subst hch
    rfl

/-! ### Requests that name a line -/

theorem lineOf_of_val {b : Byte} {i : LineId} (h : i.val = b.toNat) : lineOf b = some i := by
  have : b.toNat < 48 := h ▸ i.isLt
  rw [lineOf, dif_pos this]
  exact congrArg some (Fin.ext h.symm)

theorem lineOf_eq_none {b : Byte} (h : 47 < b.toNat) : lineOf b = none := by
  rw [lineOf, dif_neg (by omega)]

theorem byteOf_line {b : Byte} {i : LineId} (h : i.val = b.toNat) : byteOf i.val = b := by
  rw [h, byteOf, BitVec.ofNat_toNat, BitVec.setWidth_eq]

section
variable {s : State} {kind label line : Byte} {rest : List Byte}

/-- A request that names a line that there is not is BAD_FIELD (R172). -/
theorem State.request_badLine (h : s.Asked kind label (line :: rest)) (hi : 47 < line.toNat)
    (act : State → LineId → State × Answer) :
    s.whenRunning (State.takeRequest kind fun f s => onLine f s (act s))
      = .next (s.answered kind label .badField [1, 0]) := by
  rw [State.request_asked h]
  simp only [onLine, withFields, u8, lineOf_eq_none hi]
  rfl

/-- A request on line `i`: the work on it and the reply (R161). -/
theorem State.request_line (h : s.Asked kind label (line :: rest)) {i : LineId} (hi : i.val = line.toNat)
    (act : State → LineId → State × Answer) :
    s.whenRunning (State.takeRequest kind fun f s => onLine f s (act s))
      = .next ((act s.dropFrame i).1.pushReply
          ⟨kind + 0x80, label, (act s.dropFrame i).2.1, (act s.dropFrame i).2.2⟩) := by
  rw [State.request_asked h]
  simp only [onLine, withFields, u8, lineOf_of_val hi]

end

/-! ### ENABLE LINE and DISABLE LINE -/

section
variable {s : State} {i : LineId}

/-- DISABLE LINE in DISABLED (R14). -/
theorem State.disableLine_disabled (h : (s.line i).state = .disabled) : s.disableLine i = s := by
  unfold State.disableLine; rw [h]

/-- DISABLE LINE in IDLE (R14). -/
theorem State.disableLine_idle (h : (s.line i).state = .idle) :
    s.disableLine i = s.setLine i { s.line i with state := .disabled, carrierLoss := none } := by
  unfold State.disableLine; rw [h]; rfl

/-- DISABLE LINE in LOCKOUT (R14). -/
theorem State.disableLine_lockout (h : (s.line i).state = .lockout) :
    s.disableLine i = s.setLine i (Line.withEvent
      { s.line i with state := .disabled, carrierLoss := none, lockout := none } .lockoutEnd 0) := by
  unfold State.disableLine; rw [h, ← Line.raiseEvent_eq_withEvent]; rfl

/-- DISABLE LINE in HANGUP (R14). -/
theorem State.disableLine_hangup (h : (s.line i).state = .hangup) :
    s.disableLine i = s.setLine i { s.line i with disablePending := true } := by
  unfold State.disableLine; rw [h]; rfl

/-- DISABLE LINE in a call without a session (R14). -/
theorem State.disableLine_call (h : (s.line i).state = .answering ∨ (s.line i).state = .detecting
      ∨ (s.line i).state = .dialog ∨ (s.line i).state = .rejecting ∨ (s.line i).state = .draining) :
    s.disableLine i = s.setLine i (Line.onHook { s.line i with disablePending := true }) := by
  unfold State.disableLine
  rcases h with h | h | h | h | h <;> rw [h] <;> rfl

/-- DISABLE LINE on a line with a session (R14). -/
theorem State.disableLine_metered (h : (s.line i).state.metered = true) :
    s.disableLine i = (s.setLine i { s.line i with disablePending := true }).endOne i .lineDisabled false := by
  have hs : (s.line i).state = .active ∨ (s.line i).state = .grace := by
    revert h; cases (s.line i).state <;> simp [LineState.metered]
  unfold State.disableLine
  rcases hs with h | h <;> rw [h] <;> rfl

end

theorem exec_enableLine {s : State} {label line : Byte} {rest : List Byte} (h : s.Asked 0x11 label (line :: rest))
    {i : LineId} (hi : i.val = line.toNat) :
    exec .enableLine s = .next (State.answered (s.updLine i fun l => if l.state = .disabled then l.hangup else l)
      0x11 label .done [line]) := by
  refine (State.request_line h hi fun s i =>
    (s.updLine i fun l => if l.state = .disabled then l.hangup else l, answerDone [byteOf i.val])).trans ?_
  rw [byteOf_line hi]; rfl

theorem exec_disableLine {s : State} {label line : Byte} {rest : List Byte} (h : s.Asked 0x12 label (line :: rest))
    {i : LineId} (hi : i.val = line.toNat) :
    exec .disableLine s = .next ((s.dropFrame.disableLine i).pushReply ⟨0x12 + 0x80, label, .done, [line]⟩) := by
  refine (State.request_line h hi fun s i => (s.disableLine i, answerDone [byteOf i.val])).trans ?_
  rw [byteOf_line hi]; rfl

/-- DISABLE LINE of a session whose closing debit makes no transition (R14, R131). -/
theorem disableLine_session {s : State} {i : LineId} {ses : Session} {a : Account} {budget : Int} {charge : Charge}
    (h : s.ClosesQuietly i ses a budget charge) (hm : (s.line i).state.metered = true) :
    s.SessionEnded (s.disableLine i) i (s.line i) ses .lineDisabled charge
    ∧ ((s.disableLine i).line i).disablePending = true
    ∧ (s.disableLine i).account? ses.meter.account = some { a with budget := budget, active := a.active - 1 }
    ∧ (∀ m, m ≠ ses.meter.account → (s.disableLine i).account? m = s.account? m)
    ∧ (s.disableLine i).link.replies = s.link.replies
    ∧ (∀ j, j ≠ i → (s.disableLine i).line j = s.line j)
    ∧ ((s.line i).unit.speed ≠ none → s.textFor 10 (some budget) (some charge.units) ≠ [] →
      ((s.disableLine i).line i).state = .draining ∧ ((s.disableLine i).line i).drain = some 3000
      ∧ ((s.disableLine i).line i).out.queue = []
      ∧ ((s.disableLine i).line i).out.noticeWait = s.textFor 10 (some budget) (some charge.units)) := by
  have hli : (s.setLine i { s.line i with disablePending := true }).line i
      = { s.line i with disablePending := true } := by simp
  have hcl : ∀ m ru, (s.setLine i { s.line i with disablePending := true }).closed i m ru = s.closed i m ru := by
    simp [State.closed]
  have hquiet : (s.setLine i { s.line i with disablePending := true }).ClosesQuietly i ses a budget charge := by
    obtain ⟨hs, ha, ⟨tariff, ru, ht, hru, hb, hch⟩, hq⟩ := h
    exact ⟨by rw [hli]; exact hs, ha, ⟨tariff, ru, ht, hru, hb, by rw [hcl]; exact hch⟩, hq⟩
  have hn : ses.meter.account = a.name := (State.account?_name h.account).symm
  have hend := (s.setLine i { s.line i with disablePending := true }).sessionEnded_quiet i ses a budget charge
    .lineDisabled false
  rw [hli] at hend
  rw [State.disableLine_metered hm, State.endOne_quiet hquiet]
  refine ⟨⟨hend.session, hend.moved, hend.record, hend.entry, hend.reports, hend.lost⟩, ?_, ?_, fun m hm => ?_, ?_,
    fun j hj => ?_, fun hsp ht => ?_⟩
  · rw [State.line_setLine, if_pos rfl, State.endedLine, Line.endMove_disablePending, hli]
    show (Line.place _ _).disablePending = true
    simp
  · exact (State.closedOut_account? ..).trans (if_pos hn)
  · exact (State.closedOut_account? ..).trans (if_neg (hn ▸ hm))
  · simp
  · simp [hj]
  · rw [State.line_setLine, if_pos rfl, State.endedLine, hli]
    have hd := Line.endMove_draining (l := Line.endInput { s.line i with disablePending := true } ses false
      ((s.setLine i { s.line i with disablePending := true }).endFlag i .lineDisabled charge)) (by simpa using hsp) ht
    refine (congrArg (fun x : Line => x.state = .draining ∧ x.drain = some 3000 ∧ x.out.queue = []
      ∧ x.out.noticeWait = s.textFor 10 (some budget) (some charge.units)) hd).mpr ?_
    exact ⟨rfl, rfl, rfl, rfl⟩

/-- Settles O20: ENABLE LINE and DISABLE LINE by line state (R13, R14). -/
theorem enableAndDisableByLineState : Obligations.EnableAndDisableByLineState := by
  intro s label line rest
  refine ⟨fun hq => ⟨fun hi => State.request_badLine hq hi _, fun i hi => ⟨fun hs => ?_, fun hs => ?_⟩⟩,
    fun hq => ⟨fun hi => State.request_badLine hq hi _, fun i hi l hl => ?_⟩⟩
  · rw [exec_enableLine hq hi, State.updLine, if_pos hs]; rfl
  · rw [exec_enableLine hq hi, State.updLine, if_neg hs, State.setLine_self]
  · subst hl
    have he := exec_disableLine hq hi
    refine ⟨fun hs => ?_, fun hs => ?_, fun hs => ?_, fun hs => ?_, fun hs => ?_, fun hm => ?_⟩
    · rw [he, State.disableLine_disabled (s := s.dropFrame) hs]; rfl
    · rw [he, State.disableLine_idle (s := s.dropFrame) hs]; rfl
    · rw [he, State.disableLine_lockout (s := s.dropFrame) hs]; rfl
    · rw [he, State.disableLine_hangup (s := s.dropFrame) hs]; rfl
    · rw [he, State.disableLine_call (s := s.dropFrame) hs]; rfl
    · intro ses a tariff ru budget charge hs ht ha hru hb hst hch
      obtain ⟨hend, hp, hacc, hoth, hrep, hlines, hdr⟩ := disableLine_session (s := s.dropFrame)
        ⟨hs, ha, ⟨tariff, ru, ht, hru, hb, hch⟩, hst⟩ hm
      exact ⟨_, he, ⟨hend.session, hend.moved, hend.record, hend.entry, hend.reports, hend.lost⟩, hp, hacc, hoth,
        congrArg (· ++ [_]) hrep, hlines, hdr⟩

/-! ### The enumerated fields of a configuration -/

theorem clampField_eq {lo hi : Nat} (h : lo ≤ hi) (n : Nat) : clampField lo hi n = max lo (min hi n) := by
  unfold clampField
  split
  · omega
  · split <;> omega

theorem toNat_le_one {b : Byte} (h : ¬ 1 < b.toNat) : b = 0 ∨ b = 1 := by
  have : b.toNat = 0 ∨ b.toNat = 1 := by omega
  exact this.imp (fun e => BitVec.eq_of_toNat_eq e) fun e => BitVec.eq_of_toNat_eq e

theorem toNat_le_two {b : Byte} (h : ¬ 2 < b.toNat) : b = 0 ∨ b = 1 ∨ b = 2 := by
  have : b.toNat = 0 ∨ b.toNat = 1 ∨ b.toNat = 2 := by omega
  exact this.imp (fun e => BitVec.eq_of_toNat_eq e)
    (Or.imp (fun e => BitVec.eq_of_toNat_eq e) fun e => BitVec.eq_of_toNat_eq e)

/-- The enumerated fields of the configuration block, each by its range (R17, R171). -/
theorem Mode.ofCode_eq (b : Byte) :
    Mode.ofCode b = if 1 < b.toNat then none else some (if b = 0 then .auto else .fixed) := by
  split
  next h =>
    have h0 : b ≠ 0 := by rintro rfl; simp at h
    have h1 : b ≠ 1 := by rintro rfl; simp at h
    rw [Mode.ofCode, if_neg h0, if_neg h1]
  next h => rcases toNat_le_one h with rfl | rfl <;> rfl

theorem boolOf_eq (b : Byte) : boolOf b = if 1 < b.toNat then none else some (decide (b = 1)) := by
  split
  next h =>
    have h0 : b ≠ 0 := by rintro rfl; simp at h
    have h1 : b ≠ 1 := by rintro rfl; simp at h
    rw [boolOf, if_neg h0, if_neg h1]
  next h => rcases toNat_le_one h with rfl | rfl <;> rfl

theorem Format.ofCode_eq (b : Byte) :
    Format.ofCode b = if 2 < b.toNat then none
      else some (if b = 0 then .f7E1 else if b = 1 then .f7O1 else .f8N1) := by
  split
  next h =>
    have h0 : b ≠ 0 := by rintro rfl; simp at h
    have h1 : b ≠ 1 := by rintro rfl; simp at h
    have h2 : b ≠ 2 := by rintro rfl; simp at h
    rw [Format.ofCode, if_neg h0, if_neg h1, if_neg h2]
  next h => rcases toNat_le_two h with rfl | rfl | rfl <;> rfl

theorem speedOf_eq_none {b : Byte} (h : 7 < b.toNat) : speedOf b = none := by
  rw [speedOf, dif_neg (by omega)]

theorem speedOf_of_val {b : Byte} {k : SpeedCode} (h : k.val = b.toNat) : speedOf b = some k := by
  have : b.toNat < 8 := h ▸ k.isLt
  rw [speedOf, dif_pos this]
  exact congrArg some (Fin.ext h.symm)

/-- The forwarding characters and the attention character of the block by their ranges (R171). -/
theorem fwdField_eq (n : Byte) (cs : List Byte) :
    (if n.toNat ≤ 4 then some cs else none) = if 4 < n.toNat then none else some cs := by
  by_cases h : 4 < n.toNat
  · rw [if_neg (by omega), if_pos h]
  · rw [if_pos (by omega), if_neg h]

theorem optCharField_eq (p c : Byte) :
    (if p = 0 then some none else if p = 1 then some (some c) else none)
      = if 1 < p.toNat then none else some (if p = 0 then none else some c) := by
  split
  next h => subst h; rfl
  next h0 =>
    by_cases h : 1 < p.toNat
    · have h1 : p ≠ 1 := by rintro rfl; simp at h
      rw [if_neg h1, if_pos h]
    · rw [if_pos ((toNat_le_one h).resolve_left h0), if_neg h]

/-- One check of a chain: the field's own number where it fails, else the rest of the chain. -/
theorem check_step {α β : Type} {o : Option α} {bad : Bool} (n : Byte) {k : α → Except Nat β}
    {rest : List (Bool × Byte)} (hb : bad = true → o = none)
    (hk : ∀ a, o = some a → ∀ c, rest.find? (·.1) = some c → k a = .error c.2.toNat)
    (hg : bad = false → ∃ a, o = some a) (c : Bool × Byte) (hc : ((bad, n) :: rest).find? (·.1) = some c) :
    (orField n.toNat o >>= k) = .error c.2.toNat := by
  cases bad with
  | true =>
    obtain rfl : (true, n) = c := by simpa using hc
    rw [hb rfl]; rfl
  | false =>
    obtain ⟨a, ha⟩ := hg rfl
    rw [ha]
    exact hk a ha c (by simpa using hc)

end Sys2Proof.Machine
end


section
/-! CONFIGURE LINE and LINE STATUS (O19, O21). -/

namespace Sys2Proof.Machine

/-! ### The checks of the configuration block -/

/-- The checks of CONFIGURE LINE on the enumerated fields, in their order, with their numbers (R17, R172): `n` is the
count of forwarding characters and `p` the presence of the attention character. -/
def RawConfig.checks (c : RawConfig) (n p : Byte) : List (Bool × Byte) :=
  [(decide (1 < c.mode.toNat), 2), (decide (7 < c.speed.toNat), 3), (decide (2 < c.format.toNat), 4),
    (decide (1 < c.echo.toNat), 12), (decide (4 < n.toNat), 13), (decide (1 < p.toNat), 15),
    (decide (1 < c.outPacing.toNat), 16), (decide (1 < c.inPacing.toNat), 17)]

section
variable {c : RawConfig} {n p : Byte} {fwd : List Byte} {attention : Option Byte}

/-- The first failing check names its field (R17). -/
theorem RawConfig.check_error (hf : c.fwd = if 4 < n.toNat then none else some fwd)
    (ha : c.attention = if 1 < p.toNat then none else some attention) (x : Bool × Byte)
    (hx : (c.checks n p).find? (·.1) = some x) : c.check = .error x.2.toNat := by
  have one (b : Byte) : decide (1 < b.toNat) = false → ∃ v, boolOf b = some v := fun h => by
    rw [boolOf_eq, if_neg (of_decide_eq_false h)]; exact ⟨_, rfl⟩
  have tooBig (b : Byte) : decide (1 < b.toNat) = true → boolOf b = none := fun h => by
    rw [boolOf_eq, if_pos (of_decide_eq_true h)]
  unfold RawConfig.check
  refine check_step 2 (fun h => ?_) (fun _ _ => check_step 3 (fun h => ?_) (fun _ _ => check_step 4 (fun h => ?_)
    (fun _ _ => check_step 12 (tooBig _) (fun _ _ => check_step 13 (fun h => ?_) (fun _ _ => check_step 15 (fun h => ?_)
    (fun _ _ => check_step 16 (tooBig _)
    (fun _ _ => check_step 17 (tooBig _) (fun _ _ _ h => by simp at h) (one _)) (one _))
    fun h => ?_) fun h => ?_) (one _)) fun h => ?_) fun h => ?_) (fun h => ?_) x hx
  · rw [Mode.ofCode_eq, if_pos (of_decide_eq_true h)]
  · exact speedOf_eq_none (of_decide_eq_true h)
  · rw [Format.ofCode_eq, if_pos (of_decide_eq_true h)]
  · rw [hf, if_pos (of_decide_eq_true h)]
  · rw [ha, if_pos (of_decide_eq_true h)]
  · exact ⟨_, by rw [ha, if_neg (of_decide_eq_false h)]⟩
  · exact ⟨_, by rw [hf, if_neg (of_decide_eq_false h)]⟩
  · exact ⟨_, by rw [Format.ofCode_eq, if_neg (of_decide_eq_false h)]⟩
  · have := of_decide_eq_false h
    exact ⟨_, speedOf_of_val (k := ⟨c.speed.toNat, by omega⟩) rfl⟩
  · exact ⟨_, by rw [Mode.ofCode_eq, if_neg (of_decide_eq_false h)]⟩

/-- With no failing check the block is taken, its limit fields clamped (R17). -/
theorem RawConfig.check_ok (hf : c.fwd = if 4 < n.toNat then none else some fwd)
    (ha : c.attention = if 1 < p.toNat then none else some attention)
    (hx : (c.checks n p).find? (·.1) = none) {sp : SpeedCode} (hs : sp.val = c.speed.toNat) :
    c.check = .ok {
      mode := if c.mode = 0 then .auto else .fixed
      fixedSpeed := sp
      format := if c.format = 0 then .f7E1 else if c.format = 1 then .f7O1 else .f8N1
      carrierWait := max 5 (min 60 c.carrierWait.toNat)
      detAttempts := max 1 (min 9 c.detAttempts.toNat)
      detTime := max 10 (min 60 c.detTime.toNat)
      dialogLimit := max 30 (min 300 c.dialogLimit)
      attemptLimit := max 1 (min 9 c.attemptLimit.toNat)
      lockout := min 60 c.lockout.toNat
      inactivity := min 240 c.inactivity.toNat
      echo := decide (c.echo = 1)
      fwdChars := fwd
      fwdTimer := c.fwdTimer.toNat
      attention := attention
      outPacing := decide (c.outPacing = 1)
      inPacing := decide (c.inPacing = 1) } := by
  simp only [RawConfig.checks, List.find?_eq_none, List.mem_cons, List.not_mem_nil, or_false, forall_eq_or_imp,
    forall_eq, decide_eq_true_eq] at hx
  obtain ⟨hm, -, hfm, he, hn, hp, ho, hi⟩ := hx
  unfold RawConfig.check
  rw [Mode.ofCode_eq, if_neg hm, speedOf_of_val hs, Format.ofCode_eq, if_neg hfm, boolOf_eq c.echo, if_neg he, hf,
    if_neg hn, ha, if_neg hp, boolOf_eq c.outPacing, if_neg ho, boolOf_eq c.inPacing, if_neg hi]
  simp only [orField, clampField_eq (show 5 ≤ 60 by decide), clampField_eq (show 1 ≤ 9 by decide),
    clampField_eq (show 10 ≤ 60 by decide), clampField_eq (show 30 ≤ 300 by decide),
    clampField_eq (show 0 ≤ 60 by decide), clampField_eq (show 0 ≤ 240 by decide), Nat.zero_max]
  rfl

end

/-! ### CONFIGURE LINE as it is taken -/

section
variable {s : State} {label line : Byte} {i : LineId} {fields : List Byte} {raw : RawConfig}

theorem exec_configureLine (h : s.Asked 0x10 label fields) :
    exec .configureLine s = .next ((configureLineReq fields s.dropFrame).1.pushReply
      ⟨0x10 + 0x80, label, (configureLineReq fields s.dropFrame).2.1, (configureLineReq fields s.dropFrame).2.2⟩) :=
  State.request_asked h configureLineReq

theorem configureLineReq_badLine (hr : readConfigureLine fields = some (line, raw)) (hi : 47 < line.toNat) :
    configureLineReq fields s = (s, answerBad 1) := by
  simp only [configureLineReq, withFields, hr, lineOf_eq_none hi]

theorem configureLineReq_state (hr : readConfigureLine fields = some (line, raw)) (hi : i.val = line.toNat)
    (hs : (s.line i).state.configurable = false) : configureLineReq fields s = (s, answerOf .state) := by
  simp only [configureLineReq, withFields, hr, lineOf_of_val hi, hs, Bool.false_eq_true, if_false]

theorem configureLineReq_badField (hr : readConfigureLine fields = some (line, raw)) (hi : i.val = line.toNat)
    (hs : (s.line i).state.configurable = true) {n : Nat} (hc : raw.check = .error n) :
    configureLineReq fields s = (s, answerBad n) := by
  simp only [configureLineReq, withFields, hr, lineOf_of_val hi, hs, if_true, hc]

theorem configureLineReq_taken (hr : readConfigureLine fields = some (line, raw)) (hi : i.val = line.toNat)
    (hs : (s.line i).state.configurable = true) {config : LineConfig} (hc : raw.check = .ok config) :
    configureLineReq fields s
      = (s.setLine i { s.line i with config := config }, answerDone (line :: configBlock config)) := by
  simp only [configureLineReq, withFields, hr, lineOf_of_val hi, hs, if_true, hc]
  rfl

end

theorem LineState.configurable_iff (st : LineState) :
    st.configurable = true ↔ st = .idle ∨ st = .disabled ∨ st = .lockout := by
  cases st <;> simp [LineState.configurable]

/-- The fields of CONFIGURE LINE read in the order of their layout (section 11.2). -/
theorem readConfigureLine_eq (line mode speed format cw da dt dlHi dlLo al lo ia ec n f0 f1 f2 f3 ft ap ac op ip : Byte)
    (rest : List Byte) :
    readConfigureLine ([line, mode, speed, format, cw, da, dt, dlHi, dlLo, al, lo, ia, ec, n, f0, f1, f2, f3, ft, ap,
        ac, op, ip] ++ rest)
      = some (line, ⟨mode, speed, format, cw, da, dt, dlHi.toNat * 256 + dlLo.toNat, al, lo, ia, ec,
          if n.toNat ≤ 4 then some ([f0, f1, f2, f3].take n.toNat) else none, ft,
          if ap = 0 then some none else if ap = 1 then some (some ac) else none, op, ip⟩) := rfl

/-- Settles O19: the checks of the line, its state and the fields in their order, and the configuration replaced
(R17). -/
theorem configureLineReplacesTheConfiguration : Obligations.ConfigureLineReplacesTheConfiguration := by
  intro s label line mode speed format cw da dt dlHi dlLo al lo ia ec n f0 f1 f2 f3 ft ap ac op ip rest hq
  have hr := readConfigureLine_eq line mode speed format cw da dt dlHi dlLo al lo ia ec n f0 f1 f2 f3 ft ap ac op ip
    rest
  refine ⟨fun hi => ?_, fun i hi => ⟨fun h1 h2 h3 => ?_, fun hs checks hch => ⟨fun c hc => ?_,
    fun hc sp hsp config hcf => ?_⟩⟩⟩
  · rw [exec_configureLine hq, configureLineReq_badLine hr hi]; rfl
  · have hs : (s.dropFrame.line i).state.configurable = false := by
      rw [← Bool.not_eq_true, LineState.configurable_iff]
      rintro (h | h | h)
      exacts [h1 h, h2 h, h3 h]
    rw [exec_configureLine hq, configureLineReq_state hr hi hs]; rfl
  · have hs' : (s.dropFrame.line i).state.configurable = true := (LineState.configurable_iff _).2 hs
    subst hch
    rw [exec_configureLine hq, configureLineReq_badField hr hi hs' 
      (RawConfig.check_error (n := n) (p := ap) (fwdField_eq ..) (optCharField_eq ..) c hc)]
    refine congrArg (fun b => Host.Outcome.next (State.answered s 0x10 label .badField [b, 0])) ?_
    rw [byteOf, BitVec.ofNat_toNat, BitVec.setWidth_eq]
  · have hs' : (s.dropFrame.line i).state.configurable = true := (LineState.configurable_iff _).2 hs
    subst hch hcf
    rw [exec_configureLine hq, configureLineReq_taken hr hi hs' 
      (RawConfig.check_ok (n := n) (p := ap) (fwdField_eq ..) (optCharField_eq ..) (by exact hc) hsp)]
    rfl

/-! ### LINE STATUS -/

theorem Line.levelFields_eq (l : Line) : l.levelFields = [byteOf l.unit.fifo.length]
    ++ be16 ((l.session.map fun ses : Session => ses.filling.length).getD 0)
    ++ be16 ((l.session.bind fun ses : Session => ses.held.map fun b => b.bytes.length).getD 0)
    ++ be16 l.out.queue.length ++ [byteOf (l.out.noticeCur.length + l.out.noticeWait.length)] := by
  unfold Line.levelFields
  cases hs : l.session with
  | none => rfl
  | some ses => cases hh : ses.held <;> simp [hh]

theorem tagOf_toNat (i : LineId) (g : BitVec 8) : (tagOf i g).toNat = i.val * 256 + g.toNat := by
  have := i.isLt
  have := g.isLt
  rw [tagOf, BitVec.toNat_ofNat]
  omega

theorem exec_lineStatus {s : State} {label line : Byte} {rest : List Byte} (h : s.Asked 0x13 label (line :: rest))
    {i : LineId} (hi : i.val = line.toNat) :
    exec .lineStatus s = .next (State.answered (s.setLine i { s.line i with tallies := Tallies.zero }) 0x13 label .done
      ((s.line i).statusFields i)) :=
  State.request_line h hi fun s i =>
    (s.updLine i fun l => { l with tallies := Tallies.zero }, answerDone ((s.line i).statusFields i))

theorem Line.remaining_eq (l : Line) : l.remaining = match (match l.state with
    | .answering => l.carrierWait | .hangup => l.guard | .lockout => l.lockout | _ => none) with
    | some n => (n + 99) / 100
    | none => 0 := by
  unfold Line.remaining
  cases l.state <;> rfl

/-- Settles O21: the fields of the reply, each by its own lemma, and the tallies cleared (R19, R20). -/
theorem lineStatusShowsTheLineAndClearsTallies : Obligations.LineStatusShowsTheLineAndClearsTallies := by
  intro s label line rest hq
  refine ⟨fun hi => State.request_badLine hq hi _, fun i hi l hl => ?_⟩
  subst hl
  refine ⟨be16 (s.line i).remaining, speedByte (s.line i).speedShown, (s.line i).formatShown.code,
    (s.line i).sessionFields i, ?_, ?_, ?_, ?_, ?_, ?_, ?_⟩
  · rw [exec_lineStatus hq hi, Line.statusFields, byteOf_line hi, Line.levelFields_eq, BitVec.setWidth_eq]
    simp only [List.append_assoc, Tallies.fields]
    rfl
  · exact congrArg be16 (Line.remaining_eq _)
  · intro hs
    have hsp : (s.line i).speedShown = (s.line i).unit.speed := by
      unfold Line.speedShown
      rcases hs with h | h | h | h
      · rw [h]
      · revert h; cases (s.line i).state <;> simp [LineState.metered]
      · rw [h]
      · rw [h]
    rw [hsp]
    cases (s.line i).unit.speed <;> rfl
  · intro h1 h2 h3 h4
    have hsp : (s.line i).speedShown = none := by
      unfold Line.speedShown
      revert h1 h2 h3 h4; cases (s.line i).state <;> simp [LineState.metered]
    rw [hsp]; rfl
  · unfold Line.formatShown
    cases (s.line i).unit.speed <;> rfl
  · intro ses hses hm
    rw [Line.sessionFields, hses]
    simp only [hm, if_true, tagOf_toNat]
    rfl
  · intro hm
    unfold Line.sessionFields
    cases (s.line i).session <;> simp [hm]

end Sys2Proof.Machine
end


section
/-! The speed of a carriage return (O46). -/

namespace Sys2Proof.Machine

/-! ### The presence map and the chosen speed -/

theorem getLsbD_one_shiftLeft (k j : SpeedCode) : (1#8 <<< k.val).getLsbD j.val = decide (j = k) := by
  revert k j; decide

/-- The flags set for the speeds of a list. -/
theorem getLsbD_foldl_flags (f : SpeedCode → Bool) (j : SpeedCode) (ks : List SpeedCode) (m : BitVec 8) :
    (ks.foldl (fun m k => if f k then m ||| (1#8 <<< k.val) else m) m).getLsbD j.val
      = (m.getLsbD j.val || (decide (j ∈ ks) && f j)) := by
  induction ks generalizing m with
  | nil => simp
  | cons k ks ih =>
    rw [List.foldl_cons, ih]
    have hmem : decide (j ∈ k :: ks) = (decide (j = k) || decide (j ∈ ks)) := by simp
    rw [hmem]
    cases hf : f k with
    | false =>
      rw [if_neg Bool.false_ne_true]
      by_cases hj : j = k
      · simp [hj, hf]
      · simp [hj]
    | true =>
      rw [if_pos rfl, BitVec.getLsbD_or, getLsbD_one_shiftLeft, Bool.or_assoc]
      by_cases hj : j = k
      · simp [hj, hf]
      · simp [hj]

theorem mem_speedsDown (j : SpeedCode) : j ∈ speedsDown := by revert j; decide

/-- The presence map has the flag of each speed in whose window a run lies (R27). -/
theorem getLsbD_presenceOf (runs : List Nat) (j : SpeedCode) :
    (presenceOf runs).getLsbD j.val = runs.any (inWindow j) := by
  rw [presenceOf, getLsbD_foldl_flags fun k => runs.any (inWindow k)]
  simp [mem_speedsDown]

/-- The speeds faster than `k` stand before it. -/
theorem speedsDown_split (k : SpeedCode) :
    speedsDown = speedsDown.takeWhile (fun j => decide (k < j))
      ++ k :: (speedsDown.dropWhile fun j => decide (k < j)).tail := by
  revert k; decide

/-- The chosen speed is the fastest that is present (R27). -/
theorem fastest_presenceOf {runs : List Nat} {k : SpeedCode} (hk : ∃ run ∈ runs, inWindow k run = true)
    (hj : ∀ j : SpeedCode, k < j → ∀ run ∈ runs, inWindow j run = false) : fastest (presenceOf runs) = some k := by
  rw [fastest, List.find?_eq_some_iff_append]
  refine ⟨by rw [getLsbD_presenceOf]; simpa using hk, _, _, speedsDown_split k, fun j hm => ?_⟩
  have hlt : k < j := by simpa using List.mem_takeWhile_imp hm
  rw [getLsbD_presenceOf]
  simpa using hj j hlt

/-! ### The carriage-return check -/

/-- Five runs of 1, 1, 1, 2 and 3 or 4 bits read as a carriage return (R28). -/
theorem readsCR_of_runBits {k : SpeedCode} {runs : List Nat}
    (h : runs.map (runBits (bitLength.get k)) = [1, 1, 1, 2, 3]
      ∨ runs.map (runBits (bitLength.get k)) = [1, 1, 1, 2, 4]) :
    readsCR k runs = true := by
  unfold readsCR
  rcases h with h | h
  all_goals
    simp only [List.map_eq_cons_iff, List.map_eq_nil_iff] at h
    obtain ⟨r1, _, rfl, h1, r2, _, rfl, h2, r3, _, rfl, h3, r4, _, rfl, h4, r5, _, rfl, h5, rfl⟩ := h
    simp only [bitsOfRuns, h1, h2, h3, h4, h5]
    decide

/-! ### The end of a carriage return -/

/-- Line `l` whose character read as a carriage return at the speed `k` (R27, R28, R32). -/
def Line.speedKnown (l : Line) (k : SpeedCode) : Line :=
  { l with
    detector := { l.detector with presence := presenceOf l.detector.intervals, last := .ok, timer := none }
    unit := l.unit.start k l.config.format }

/-- A carriage return that reads at the fastest speed present has the line admitted or refused (R6, R29). -/
theorem State.evaluateCharacter_cr {s : State} {i : LineId} {k : SpeedCode}
    (hf : fastest (presenceOf (s.line i).detector.intervals) = some k)
    (hr : readsCR k (s.line i).detector.intervals = true) :
    s.evaluateCharacter i = State.admitLine (s.setLine i ((s.line i).speedKnown k)) i := by
  unfold State.evaluateCharacter
  dsimp only
  rw [hf]
  exact if_pos hr

theorem exec_endOfCharacter {s : State} {i : LineId} (h : s.mode = .running) (hs : (s.line i).state = .detecting)
    (hp : (s.line i).detector.phase = .measuring) (hl : (s.line i).detector.curLevel = .mark) :
    exec (.endOfCharacter i) s = .next (s.evaluateCharacter i) := by
  rw [exec, execEndOfCharacter, State.whenRunning_running h]
  simp [Line.measuring, hs, hp, hl]

/-- Settles O46: the speed by the windows and the carriage-return check, then the admission, the re-entry or the
refusal of a line of that speed (R6, R27 to R29, R62). -/
theorem carriageReturnGivesTheSpeed : Obligations.CarriageReturnGivesTheSpeed := by
  intro s i l k n h hl hs hp hlv hn hk hj hb
  subst hl hn
  have hx : exec (.endOfCharacter i) s = .next (State.admitLine (s.setLine i ((s.line i).speedKnown k)) i) := by
    rw [exec_endOfCharacter h hs hp hlv, State.evaluateCharacter_cr (fastest_presenceOf hk hj) (readsCR_of_runBits hb)]
  have hline : (s.setLine i ((s.line i).speedKnown k)).line i = (s.line i).speedKnown k := by simp
  refine ⟨presenceOf (s.line i).detector.intervals, (s.line i).speedKnown k, getLsbD_presenceOf _, rfl,
    fun ha hm ht => ?_, fun ha m hm ht => ?_, fun ha ht => ?_⟩
  · rw [hx, State.admitLine_admitted (s := s.setLine i _) ha, State.setLine_setLine, hline]
    exact next_setLine (Line.toDialog_admitted ((s.line i).speedKnown k) k ht hm)
  · rw [hx, State.admitLine_admitted (s := s.setLine i _) ha, State.setLine_setLine, hline]
    exact next_setLine (Line.toDialog_readmitted ((s.line i).speedKnown k) k ht hm)
  · rw [hx, State.admitLine_refused (s := s.setLine i _) ha, State.setLine_setLine, hline]
    obtain ⟨hr, -, -, hu, hrep⟩ := Line.refused_place (l := (s.line i).speedKnown k) (text := s.textFor 6 none none)
      nofun ht
    exact ⟨_, rfl, hr, hu, hrep⟩

end Sys2Proof.Machine
end


section
/-! The sizes of buffers, queues and counts: what keeps them, and that every step does (O6). -/

namespace Sys2Proof.Machine

/-! ### The sizes of a line, part by part -/

/-- The sizes of a line's output queue and notices (R53, R58). -/
structure Output.Within (o : Output) : Prop where
  queue : o.queue.length ≤ Config.queueSize
  noticeCur : o.noticeCur.length ≤ Config.noticeSize
  noticeWait : o.noticeWait.length ≤ Config.noticeSize

/-- The sizes of the detector's interval list and of its current interval (R25, R26). -/
structure Detector.Within (d : Detector) : Prop where
  intervals : d.intervals.length ≤ Config.intervalsSize
  cur : d.cur ≤ 65535

/-- The sizes of a line by its parts (`Line.bounded_iff`). -/
structure Line.Within (l : Line) : Prop where
  fifo : l.unit.fifo.length ≤ Config.fifoSize
  out : l.out.Within
  detector : l.detector.Within
  session : ∀ ses, l.session = some ses → ses.Bounded

theorem Line.bounded_iff (l : Line) : l.Bounded ↔ l.Within :=
  ⟨fun ⟨hf, hq, hc, hw, hi, hcur, hs⟩ => ⟨hf, ⟨hq, hc, hw⟩, ⟨hi, hcur⟩, hs⟩,
   fun ⟨hf, ⟨hq, hc, hw⟩, ⟨hi, hcur⟩, hs⟩ => ⟨hf, hq, hc, hw, hi, hcur, hs⟩⟩

/-- What is left of a list when its head is taken fits where the list did. -/
theorem tail_length_le {α : Type} {xs rest : List α} {x : α} {n : Nat} (h : xs = x :: rest) (hn : xs.length ≤ n) :
    rest.length ≤ n := by
  subst h; exact (Nat.le_succ _).trans hn

theorem Detector.Within.atStart : Detector.atStart.Within := ⟨Nat.zero_le _, Nat.zero_le _⟩
theorem Detector.Within.enter (c : LineConfig) : (Detector.enter c).Within := ⟨Nat.zero_le _, Nat.zero_le _⟩
theorem Detector.Within.leave {d : Detector} (h : d.Within) : d.leave.Within := ⟨Nat.zero_le _, h.cur⟩
theorem Output.Within.discard (o : Output) : o.discard.Within := ⟨Nat.zero_le _, Nat.zero_le _, Nat.zero_le _⟩

/-! ### A session's buffers -/

theorem bufferSize_pos : 0 < Config.bufferSize := by decide

section
variable {ses : Session}

/-- A completed buffer is moved to the held slot or is closed, no byte more in it (R44). -/
theorem Session.Bounded.complete (h : ses.filling.length ≤ Config.bufferSize)
    (hh : ∀ b, ses.held = some b → b.bytes.length ≤ Config.bufferSize) (cause : Cause) :
    (ses.complete cause).Bounded := by
  unfold Session.complete
  split
  next => exact ⟨Nat.zero_le _, fun _ => bufferSize_pos, fun b hb => by cases hb; exact h⟩
  next b hb => exact ⟨h, nofun, fun b' hb' => hh b' hb'⟩

/-- The freed held slot takes a closed buffer (R46). -/
theorem Session.Bounded.freeHeld (h : ses.Bounded) : ses.freeHeld.Bounded := by
  obtain ⟨hf, ho, -⟩ := h
  unfold Session.freeHeld
  split
  next => exact ⟨Nat.zero_le _, fun _ => bufferSize_pos, fun b hb => by cases hb; exact hf⟩
  next => exact ⟨hf, ho, nofun⟩

/-- A character stored in an OPEN buffer finds room there, and a buffer left full is complete (R43). -/
theorem Session.Bounded.store (h : ses.Bounded) (hc : ses.closed = none) (c : Byte) (t : Timer) :
    (Session.testForward c { ses with filling := ses.filling ++ [c], fwdTimer := t }).Bounded := by
  obtain ⟨-, ho, hh⟩ := h
  have hroom := ho hc
  have hlen : (ses.filling ++ [c]).length ≤ Config.bufferSize := by
    rw [List.length_append, List.length_singleton]; omega
  have hcomplete := Session.Bounded.complete (ses := { ses with filling := ses.filling ++ [c], fwdTimer := t }) hlen hh
  unfold Session.testForward
  split
  · exact hcomplete .fwdChar
  · split
    · exact hcomplete .full
    next hfull => exact ⟨hlen, fun _ => Nat.lt_of_not_le hfull, hh⟩

/-- A new session holds no input (R41). -/
theorem Session.Bounded.new (m : Meter) (c : Copies) : Session.Bounded ⟨m, c, [], none, none, none⟩ :=
  ⟨Nat.zero_le _, fun _ => bufferSize_pos, nofun⟩

end

/-! ### The operations on a line -/

section
variable {l : Line}

theorem Line.Within.withSession (h : l.Within) {ses : Session} (hs : ses.Bounded) :
    { l with session := some ses }.Within :=
  ⟨h.fifo, h.out, h.detector, fun _ e => by cases e; exact hs⟩

theorem Line.Within.mapSession (h : l.Within) {f : Session → Session}
    (hf : ∀ ses : Session, ses.Bounded → (f ses).Bounded) :
    { l with session := l.session.map f }.Within :=
  ⟨h.fifo, h.out, h.detector, fun _ e => by
    obtain ⟨ses, hs, rfl⟩ := Option.map_eq_some_iff.1 e
    exact hf ses (h.session ses hs)⟩

theorem Line.Within.quiet {l' : Line} (h : l.Within) (q : l.Quiet l') : l'.Within where
  fifo := q.fifo.trans h.fifo
  out := ⟨q.queue.trans h.out.queue, q.noticeCur.trans h.out.noticeCur, q.noticeWait.trans h.out.noticeWait⟩
  detector := ⟨q.intervals.trans h.detector.intervals, q.cur.trans h.detector.cur⟩
  session ses hs := h.session ses (q.session ▸ hs)

theorem Line.Within.updMeter (h : l.Within) (f : Meter → Meter) : (l.updMeter f).Within :=
  h.mapSession fun _ hs => hs

theorem Line.Within.hangup (h : l.Within) : l.hangup.Within :=
  ⟨Nat.zero_le _, .discard _, h.detector.leave, h.session⟩

theorem Line.Within.settle (h : l.Within) : l.settle.Within := by
  rcases l.settle_cases with e | ⟨e, -⟩ <;> rw [e]
  exacts [h, h.hangup]

theorem Line.Within.toDetecting (h : l.Within) : l.toDetecting.Within := ⟨h.fifo, h.out, .enter _, h.session⟩

theorem Line.Within.redetect (h : l.Within) : l.redetect.Within :=
  ⟨Nat.zero_le _, .discard _, .enter _, h.session⟩

theorem Line.Within.toRejecting (h : l.Within) : l.toRejecting.Within := by
  refine Line.Within.settle ?_
  exact ⟨h.fifo, h.out, h.detector.leave, h.session⟩

theorem Line.Within.place (h : l.Within) {chars : List Byte} (hc : chars.length ≤ Config.noticeSize) :
    (l.place chars).Within := by
  unfold Line.place
  split
  · exact ⟨h.fifo, ⟨h.out.queue, h.out.noticeCur, hc⟩, h.detector, h.session⟩
  · exact h

/-- An echo joins the queue only where it fits whole (R52). -/
theorem Line.Within.echo (h : l.Within) (chars : List Byte) : (l.echo chars).Within := by
  unfold Line.echo
  split
  next hfit =>
    exact ⟨h.fifo, ⟨by rwa [List.length_append], h.out.noticeCur, h.out.noticeWait⟩, h.detector, h.session⟩
  next => exact ⟨h.fifo, h.out, h.detector, h.session⟩

theorem Line.Within.dialogEcho (h : l.Within) (chars : List Byte) : (l.dialogEcho chars).Within := by
  unfold Line.dialogEcho
  split
  exacts [h.echo chars, h]

theorem Line.Within.foldl_dialogEcho (h : l.Within) (cs : List Byte) :
    (cs.foldl (fun l c => l.dialogEcho [c]) l).Within := by
  induction cs generalizing l with
  | nil => exact h
  | cons c cs ih => exact ih (h.dialogEcho [c])

theorem Line.Within.placeDue (h : l.Within) (texts : Vector (List Byte) 16) : (l.placeDue texts).Within := by
  have echoed (l' : Line) (cs : List Byte) (d : Dialog) (h' : l'.Within) :
      { cs.foldl (fun l c => Line.dialogEcho [c] l) l' with dialog := d }.Within :=
    have he := h'.foldl_dialogEcho cs
    ⟨he.fifo, he.out, he.detector, he.session⟩
  unfold Line.placeDue
  split
  next => exact h
  next p _ =>
    have hp : (if (expand none none (texts.get p.text)).isEmpty then
        { l with dialog := { l.dialog with promptDue := none } }
        else { l with out := { l.out with
          noticeWait := expand none none (texts.get p.text), waitPrompt := some p } }).Within := by
      split
      · exact ⟨h.fifo, h.out, h.detector, h.session⟩
      · exact ⟨h.fifo, ⟨h.out.queue, h.out.noticeCur, expand_length ..⟩, h.detector, h.session⟩
    split
    · dsimp only
      split
      exacts [echoed _ _ _ hp, hp]
    · exact h

theorem Line.Within.toDialog (h : l.Within) (texts : Vector (List Byte) 16) : (l.toDialog texts).Within := by
  refine Line.Within.placeDue (Line.Within.place ?_ (expand_length ..)) _
  exact ⟨h.fifo, h.out, h.detector.leave, h.session⟩

/-- Held input released, the queue and the buffers as they are (R38). -/
theorem Line.Within.releaseInput (h : l.Within) : l.releaseInput.Within := by
  unfold Line.releaseInput
  split
  exacts [⟨h.fifo, ⟨h.out.queue, h.out.noticeCur, h.out.noticeWait⟩, h.detector, h.session⟩, h]

theorem Line.Within.holdInput (h : l.Within) : l.holdInput.Within := by
  unfold Line.holdInput
  split
  · split
    exacts [⟨h.fifo, ⟨h.out.queue, h.out.noticeCur, h.out.noticeWait⟩, h.detector, h.session⟩, h]
  · exact h

/-- A character joins the FIFO only where there is a place (R36). -/
theorem Line.Within.storeChar (h : l.Within) (c : Byte) : (l.storeChar c).Within := by
  unfold Line.storeChar
  split
  next hroom =>
    exact Line.Within.holdInput
      ⟨by rw [List.length_append, List.length_singleton]; exact hroom, h.out, h.detector, h.session⟩
  next => exact ⟨h.fifo, h.out, h.detector, h.session⟩

theorem Line.Within.checkReady (h : l.Within) (i : LineId) : (l.checkReady i).Within := by
  unfold Line.checkReady
  split
  exacts [⟨h.fifo, ⟨h.out.queue, h.out.noticeCur, h.out.noticeWait⟩, h.detector, h.session⟩, h]

theorem Line.Within.attention (h : l.Within) (i : LineId) : (l.attention i).Within := by
  unfold Line.attention
  split
  · exact h
  next ses hs =>
    have hr : (Line.releaseInput { l with
        unit := { l.unit with fifo := [] }
        session := some { ses with filling := [], closed := none, held := none, fwdTimer := none }
        tallies := { l.tallies with inputLost := satAdd max16 l.tallies.inputLost (l.inputBytes ses) } }).Within :=
      .releaseInput
        ⟨Nat.zero_le _, h.out, h.detector, fun _ e => by cases e; exact .new ses.meter ses.copies⟩
    refine Line.Within.checkReady ?_ i
    exact ⟨hr.fifo, ⟨Nat.zero_le _, hr.out.noticeCur, hr.out.noticeWait⟩, hr.detector, hr.session⟩

theorem Line.Within.arrival (h : l.Within) : l.arrival.Within := by
  unfold Line.arrival
  split
  exacts [h.updMeter _, h]

theorem Line.Within.receive (h : l.Within) (i : LineId) (bits : Byte) : (l.receive i bits).Within := by
  have ha : ∀ l : Line, l.Within → ∀ c : Byte,
      (if l.state.metered ∧ (l.session.bind fun ses => ses.copies.attention) = some c
      then l.attention i
      else if l.outPacing ∧ c = chDC3 then { l with unit := { l.unit with outputStopped := true } }
      else if l.outPacing ∧ c = chDC1 then { l with unit := { l.unit with outputStopped := false } }
      else if l.state = .dialog ∨ l.state.metered then l.storeChar c
      else l).Within := by
    intro l h c
    split
    · exact h.attention i
    · split
      · exact ⟨h.fifo, h.out, h.detector, h.session⟩
      · split
        · exact ⟨h.fifo, h.out, h.detector, h.session⟩
        · split
          exacts [h.storeChar c, h]
  unfold Line.receive
  refine ha _ (Line.Within.arrival ?_) _
  split
  exacts [⟨h.fifo, h.out, h.detector, h.session⟩, h]

theorem Line.Within.storeInput (h : l.Within) {c : Byte} {rest : List Byte} {ses : Session}
    (hs : l.session = some ses) (hc : ses.closed = none) (hf : l.unit.fifo = c :: rest) :
    (l.storeInput c rest ses).Within := by
  have h1 : { l with unit := { l.unit with fifo := rest } }.Within :=
    ⟨tail_length_le hf h.fifo, h.out, h.detector, h.session⟩
  have h2 : (if rest.isEmpty then Line.releaseInput { l with unit := { l.unit with fifo := rest } }
      else { l with unit := { l.unit with fifo := rest } }).Within := by
    split
    exacts [h1.releaseInput, h1]
  unfold Line.storeInput
  refine Line.Within.withSession ?_ ((h.session ses hs).store hc c _)
  split
  exacts [h2.echo _, h2]

theorem Line.Within.takeNext (h : l.Within) (i : LineId) (texts : Vector (List Byte) 16) :
    (l.takeNext i texts).Within := by
  unfold Line.takeNext
  split
  · exact ⟨h.fifo, ⟨h.out.queue, h.out.noticeCur, h.out.noticeWait⟩, h.detector, h.session⟩
  · split
    · exact h
    · split
      next hn =>
        refine Line.Within.placeDue ?_ texts
        exact ⟨h.fifo, ⟨h.out.queue, tail_length_le hn h.out.noticeCur, h.out.noticeWait⟩, h.detector,
          h.session⟩
      next hn =>
        refine Line.Within.placeDue ?_ texts
        exact ⟨h.fifo, ⟨h.out.queue, tail_length_le hn h.out.noticeWait, Nat.zero_le _⟩, h.detector, h.session⟩
      next hq =>
        refine Line.Within.checkReady ?_ i
        exact ⟨h.fifo, ⟨tail_length_le hq h.out.queue, h.out.noticeCur, h.out.noticeWait⟩, h.detector,
          h.session⟩
      next => exact h

theorem Line.Within.nameChar (h : l.Within) (texts : Vector (List Byte) 16) (c : Byte) :
    (l.nameChar texts c).Within := by
  have echo (d : Dialog) (chars : List Byte) : (Line.dialogEcho chars { l with dialog := d }).Within :=
    Line.Within.dialogEcho (l := { l with dialog := d }) ⟨h.fifo, h.out, h.detector, h.session⟩ chars
  unfold Line.nameChar
  dsimp only
  split
  · split
    exacts [echo _ _, h]
  · split
    · split
      exacts [h, echo _ _]
    · split
      · split
        exacts [(echo _ _).placeDue texts, (echo _ _).placeDue texts]
      · exact h

theorem Line.Within.invalidAttempt (h : l.Within) (texts : Vector (List Byte) 16) :
    (l.invalidAttempt texts).Within := by
  have hp := h.place (expand_length none none (texts.get 3))
  unfold Line.invalidAttempt
  dsimp only
  split
  · refine Line.Within.placeDue ?_ texts
    exact ⟨hp.fifo, hp.out, hp.detector, hp.session⟩
  · refine Line.Within.toRejecting ?_
    exact ⟨hp.fifo, hp.out, hp.detector, hp.session⟩

theorem Line.Within.accept (h : l.Within) (i : LineId) (m : Meter) (sp : SpeedCode) : (l.accept i m sp).Within :=
  ⟨h.fifo, ⟨h.out.queue, h.out.noticeCur, h.out.noticeWait⟩, h.detector,
    fun _ e => by cases e; exact .new m l.config.copies⟩

theorem Line.Within.setCopies (h : l.Within) (c : Copies) : (l.setCopies c).Within := by
  have hc (u : CharUnit) (hu : u.fifo = l.unit.fifo) : { l with
      session := l.session.map fun ses : Session =>
        { ses with copies := c, fwdTimer := if c.fwdTimer = 0 then none else ses.fwdTimer }
      unit := u }.Within :=
    Line.Within.mapSession (l := { l with unit := u }) ⟨hu ▸ h.fifo, h.out, h.detector, h.session⟩ fun _ hs => hs
  have hfifo : (if c.outPacing then l.unit else { l.unit with outputStopped := false }).fifo = l.unit.fifo := by
    split <;> rfl
  unfold Line.setCopies
  dsimp only
  split
  exacts [hc _ hfifo, (hc _ hfifo).releaseInput]

/-- Bytes of output join the queue as far as there is room (R54). -/
theorem Line.Within.appendOutput (h : l.Within) (data : List Byte) : (l.appendOutput data).Within := by
  refine ⟨h.fifo, ⟨?_, h.out.noticeCur, h.out.noticeWait⟩, h.detector, h.session⟩
  have hq := h.out.queue
  show (l.out.queue ++ data.take l.room).length ≤ Config.queueSize
  rw [List.length_append, List.length_take, Line.room]
  omega

theorem Line.Within.endInput (h : l.Within) (ses : Session) (keep : Bool) (flag : Nat → EndFlag) :
    (l.endInput ses keep flag).Within := by
  have hr : (Line.releaseInput { l with
      unit := { l.unit with fifo := [] }
      tallies := { l.tallies with inputLost := satAdd max16 l.tallies.inputLost (l.inputBytes ses) } }).Within := by
    refine Line.Within.releaseInput ?_
    exact ⟨Nat.zero_le _, h.out, h.detector, h.session⟩
  unfold Line.endInput
  dsimp only at hr ⊢
  generalize Line.releaseInput _ = l' at hr ⊢
  refine ⟨hr.fifo, ⟨?_, hr.out.noticeCur, hr.out.noticeWait⟩, hr.detector, fun _ e => by cases e⟩
  cases keep
  exacts [Nat.zero_le _, hr.out.queue]

theorem Line.Within.endMove (h : l.Within) (hangUp : Bool) : (l.endMove hangUp).Within := by
  unfold Line.endMove
  split
  · exact h.hangup
  · refine Line.Within.settle ?_
    exact ⟨h.fifo, h.out, h.detector, h.session⟩

end

/-- Each operation on a line keeps every buffer, queue and count of it within its size (R25, R36, R43, R53, R58). -/
theorem Line.withinLaw : Line.Law fun _ l => l.Within where
  quiet h q := h.quiet q
  ring h _ := ⟨h.fifo, h.out, h.detector, h.session⟩
  leave _ h _ _ := ⟨h.fifo, h.out, h.detector, h.session⟩
  hangup h _ := h.hangup
  toDetecting h _ := h.toDetecting
  redetect h _ := h.redetect
  toDialog texts h _ := h.toDialog texts
  toRejecting h _ := h.toRejecting
  settle h := h.settle
  place _ h hc := h.place hc
  placeDue texts h := h.placeDue texts
  dialogEcho chars h := h.dialogEcho chars
  measured _ h hi hc := ⟨h.fifo, h.out, ⟨hi.elim id (·.trans h.detector.intervals), hc⟩, h.session⟩
  receive i bits h := h.receive i bits
  attention i h := h.arrival.attention i
  storeInput h hs hc hf := h.storeInput hs hc hf
  complete cause h hs _ := h.withSession (.complete (h.session _ hs).1 (h.session _ hs).2.2 cause)
  freeHeld h hs := h.withSession (h.session _ hs).freeHeld
  takeNext i texts h := h.takeNext i texts
  nameChar texts c h := h.nameChar texts c
  invalidAttempt texts h _ := h.invalidAttempt texts
  accept i m sp h _ := h.accept i m sp
  updMeter f h := h.updMeter f
  enterGrace _ h _ := Line.Within.updMeter (l := Line.goto .grace _) ⟨h.fifo, h.out, h.detector, h.session⟩ _
  leaveGrace h _ := Line.Within.updMeter (l := Line.goto .active _) ⟨h.fifo, h.out, h.detector, h.session⟩ _
  setCopies c h := h.setCopies c
  appendOutput data h := h.appendOutput data
  ended keep flag hangUp h _ := (h.endInput _ keep flag).endMove hangUp
  endedText keep flag hangUp _ h _ hc := ((h.endInput _ keep flag).place hc).endMove hangUp

theorem Line.Within.pass {l : Line} (h : l.Within) (ri : Bool) : (l.pass ri).Within :=
  { fifo := h.fifo
    out := h.out
    detector := ⟨h.detector.intervals, h.detector.cur⟩
    session := fun _ e => by
      obtain ⟨ses, hs, rfl⟩ := Option.map_eq_some_iff.1 e
      exact h.session ses hs }

/-- Every step keeps the sizes of every line. -/
theorem step_keeps_bounded {s t : State} (h : s.AllLines Line.Bounded) (e : step s = .next t) :
    t.AllLines Line.Bounded := fun i =>
  (Line.bounded_iff _).2 (State.EachLine.step Line.withinLaw (fun _ _ h => ⟨h.fifo, h.out, h.detector, h.session⟩)
    (fun _ ri cd => (Line.bounded_iff _).1 (Line.atStart_bounded ri cd)) (fun _ ri _ h => h.pass ri)
    (fun i => (Line.bounded_iff _).1 (h i)) e i)

end Sys2Proof.Machine
end


section
/-! The queues of the host link: which operations leave them, and that every step keeps every size (O6). -/

namespace Sys2Proof.Machine

/-- The intake queue and the reply queue (R160, R161). -/
def State.queues (s : State) : List (List Byte) × List Reply := (s.link.intake, s.link.replies)

section
variable {s t : State}

/-! ### Operations that leave the queues as they are -/

theorem State.LinkBounded.of_queues (h : s.LinkBounded) (e : t.queues = s.queues) : t.LinkBounded := by
  obtain ⟨hi, hr⟩ := Prod.ext_iff.1 e
  exact ⟨(congrArg List.length hi).trans_le h.1, (congrArg List.length hr).trans_le h.2⟩

theorem State.foldl_queues {α : Type} {g : State → α → State}
    (hg : ∀ s a, (g s a).queues = s.queues) (as : List α)
    (s : State) : (as.foldl g s).queues = s.queues := by
  induction as generalizing s with
  | nil => rfl
  | cons a as ih => exact (ih _).trans (hg s a)

@[simp] theorem State.setLine_queues (i : LineId) (l : Line) : (s.setLine i l).queues = s.queues := rfl
@[simp] theorem State.updLine_queues (i : LineId) (f : Line → Line) : (s.updLine i f).queues = s.queues := rfl
@[simp] theorem State.putAccount_queues (a : Account) : (s.putAccount a).queues = s.queues := rfl
@[simp] theorem State.placeText_queues (i : LineId) (k : Fin 16) (b : Option Int) (u : Option Nat) :
    (s.placeText i k b u).queues = s.queues := rfl
@[simp] theorem State.refuseLine_queues (i : LineId) : (s.refuseLine i).queues = s.queues := rfl

@[simp] theorem State.updLines_queues (is : List LineId) (f : LineId → Line → Line) :
    (s.updLines is f).queues = s.queues := State.foldl_queues (fun _ _ => State.updLine_queues ..) is s

@[simp] theorem State.refuseDialogs_queues : s.refuseDialogs.queues = s.queues :=
  State.foldl_queues (fun _ _ => State.refuseLine_queues _) _ s

@[simp] theorem State.hangupAnswered_queues : s.hangupAnswered.queues = s.queues := State.updLines_queues ..

@[simp] theorem State.admitLine_queues (i : LineId) : (s.admitLine i).queues = s.queues := by
  unfold State.admitLine; split <;> rfl

@[simp] theorem State.testChargeLevel_queues : s.testChargeLevel.queues = s.queues := by
  unfold State.testChargeLevel; split <;> rfl

@[simp] theorem State.reevaluate_queues (n : Name) : (s.reevaluate n).1.queues = s.queues := by
  unfold State.reevaluate
  split
  · rfl
  · dsimp only
    split <;> rfl

@[simp] theorem State.debit_queues (n : Name) (z : Int) : (s.debit n z).1.queues = s.queues := by
  unfold State.debit; split <;> simp

/-- The end sequence of a session leaves the link's queues (R131). -/
@[simp] theorem State.endSession_queues (i : LineId) (r : EndReason) (keep : Bool) :
    (s.endSession i r keep).1.queues = s.queues := by
  cases hs : (s.line i).session with
  | none => rw [State.endSession_none hs]
  | some ses =>
    have closed (n : Name) (z : Int) (st : Store) :
        (State.testChargeLevel { (s.debit n z).1 with store := st }).queues = s.queues :=
      State.testChargeLevel_queues.trans (State.debit_queues n z)
    unfold State.endSession
    simp only [hs, State.updLine_queues]
    split
    · rw [State.placeText_queues, State.updLine_queues]
      split
      exacts [closed .., closed ..]
    · rw [State.updLine_queues]
      split
      exacts [closed .., closed ..]

@[simp] theorem State.endEach_queues (r : EndReason) (is : List LineId) : (s.endEach r is).queues = s.queues :=
  State.foldl_queues (fun _ _ => State.endSession_queues ..) is s

@[simp] theorem State.massEnd_queues (r : EndReason) : (s.massEnd r).queues = s.queues :=
  State.endEach_queues (s := (s.takeOrder _ _).2) ..

@[simp] theorem State.noticeSessions_queues (n : Name) (k : Fin 16) : (s.noticeSessions n k).queues = s.queues :=
  State.updLines_queues ..

@[simp] theorem State.beginGrace_queues (n : Name) : (s.beginGrace n).queues = s.queues := by
  unfold State.beginGrace
  split
  exacts [State.endEach_queues (s := (s.takeOrder _ _).2) .., State.updLines_queues ..]

@[simp] theorem State.endGrace_queues (n : Name) : (s.endGrace n).queues = s.queues := State.updLines_queues ..

@[simp] theorem State.applyTransition_queues (tr : Transition) : (s.applyTransition tr).queues = s.queues := by
  unfold State.applyTransition; split <;> simp

@[simp] theorem State.applyEffects_queues (p : State × Option Transition) :
    (State.applyEffects p).queues = p.1.queues := by
  unfold State.applyEffects; split <;> simp

@[simp] theorem State.endOne_queues (i : LineId) (r : EndReason) (keep : Bool) :
    (s.endOne i r keep).queues = s.queues := by simp [State.endOne]

@[simp] theorem State.accept_queues (i : LineId) (a : Account) : (s.accept i a).queues = s.queues := by
  have debited := State.debit_queues (s := (s.updLine i fun l => { l with generation := l.generation + 1 }).putAccount
    { a with active := a.active + 1 }) a.name (s.setupCharge a.cls)
  unfold State.accept
  dsimp only
  rw [State.updLine_queues, State.applyEffects_queues]
  split
  exacts [debited, debited]

@[simp] theorem State.signOn_queues (i : LineId) : (s.signOn i).queues = s.queues := by
  unfold State.signOn
  dsimp only
  split
  · unfold State.invalidAttempt
    dsimp only
    split <;> simp
  · simp [State.refuseSignOn]
  · simp
  · simp

@[simp] theorem State.recheck_queues (i : LineId) : (s.recheck i).queues = s.queues := by
  unfold State.recheck; split <;> simp

@[simp] theorem State.evaluateCharacter_queues (i : LineId) : (s.evaluateCharacter i).queues = s.queues := by
  unfold State.evaluateCharacter
  dsimp only
  split
  · rfl
  · split <;> simp

theorem State.atLimit_queues (i : LineId) (len : Nat) {go : State} (h : go.queues = s.queues) :
    (s.atLimit i len go).queues = s.queues := by
  unfold State.atLimit
  split <;> split <;> simp [h]

@[simp] theorem State.runEnds_queues (i : LineId) (len : Nat) : (s.runEnds i len).queues = s.queues := by
  unfold State.runEnds
  refine State.atLimit_queues i len ?_
  dsimp only
  split
  · split <;> rfl
  · split
    · rfl
    · exact State.atLimit_queues i _ rfl

@[simp] theorem State.reevaluateAct_queues (n : Name) : (s.reevaluateAct n).queues = s.queues := by
  simp [State.reevaluateAct]

@[simp] theorem State.reevaluateAll_queues : s.reevaluateAll.queues = s.queues :=
  State.foldl_queues (fun _ _ => State.reevaluateAct_queues _) _ (s.takeOrder _ _).2

@[simp] theorem State.loadAccount_queues (a : Account) : (s.loadAccount a).queues = s.queues := by
  unfold State.loadAccount; split <;> simp

@[simp] theorem State.disableLine_queues (i : LineId) : (s.disableLine i).queues = s.queues := by
  unfold State.disableLine; split <;> simp

@[simp] theorem State.broadcastTo_queues (k : Fin 16) (i : LineId) : (s.broadcastTo k i).queues = s.queues := by
  unfold State.broadcastTo
  dsimp only
  split <;> rfl

@[simp] theorem State.release_queues (n : Nat) : (s.release n).queues = s.queues := by
  unfold State.release; split <;> rfl

/-- A tick's debit, refresh and countdown leave the link's queues (R111). -/
@[simp] theorem State.afterCharge_queues (was : List LineId) (i : LineId) :
    (s.afterCharge was i).queues = s.queues := by
  have refreshed (m : Meter) : (s.refresh i m).queues = s.queues := by
    unfold State.refresh; split <;> rfl
  unfold State.afterCharge
  split
  · rfl
  next ses _ =>
    have h1 : (if ses.meter.seconds % 60 = 0 then s.refresh i ses.meter else s).queues = s.queues := by
      split
      exacts [refreshed _, rfl]
    dsimp only
    split
    · simpa using h1
    · split <;> simpa using h1

@[simp] theorem State.tick_queues : s.tick.queues = s.queues := by
  unfold State.tick
  refine (State.foldl_queues (fun _ _ => State.afterCharge_queues ..) _ _).trans
    ((State.foldl_queues (fun s n => ?_) _ _).trans ?_)
  · simp [State.debitAccount]
  · exact State.updLines_queues ..

end

/-! ### Requests: a taken frame leaves the intake queue, and its reply finds its place -/

section
variable {s t : State} {kind : Byte} {handle : Handler}

theorem State.LinkBounded.dropFrame (h : s.LinkBounded) : s.dropFrame.LinkBounded :=
  ⟨(List.length_tail.trans_le (Nat.sub_le ..)).trans h.1, h.2⟩

theorem State.room_of_mayTake (h : s.mayTake = true) : s.link.replies.length < Config.linkQueueSize := by
  simp only [State.mayTake, Bool.and_eq_true, decide_eq_true_eq] at h
  exact h.2

theorem State.LinkBounded.pushReply (h : s.LinkBounded) (hr : s.link.replies.length < Config.linkQueueSize)
    (r : Reply) :
    (s.pushReply r).LinkBounded :=
  ⟨h.1, by
    show (s.link.replies ++ [r]).length ≤ _
    rw [List.length_append, List.length_singleton]; exact hr⟩

theorem State.LinkBounded.takeRequest (hf : ∀ f s, (handle f s).1.queues = s.queues) (h : s.LinkBounded) :
    (s.takeRequest kind handle).LinkBounded := by
  unfold State.takeRequest
  split
  next fields _ =>
    split
    next hc =>
      have hq := hf fields s.dropFrame
      refine (h.dropFrame.of_queues hq).pushReply ?_ _
      exact (congrArg List.length (Prod.ext_iff.1 hq).2).trans_lt (State.room_of_mayTake hc.1)
    next => exact h
  next => exact h

theorem withFields_queues {α : Type} {read : Option α} {act : α → State × Answer}
    (h : ∀ a, (act a).1.queues = s.queues) : (withFields read s act).1.queues = s.queues := by
  unfold withFields
  split
  exacts [h _, rfl]

theorem onLine_queues {f : List Byte} {act : LineId → State × Answer} (h : ∀ i, (act i).1.queues = s.queues) :
    (onLine f s act).1.queues = s.queues := by
  refine withFields_queues fun a => ?_
  dsimp only
  split
  exacts [rfl, h _]

theorem onAccount_queues {name : Option Name} {bad : Option Nat} {act : Account → State × Answer}
    (h : ∀ a, (act a).1.queues = s.queues) : (onAccount name bad s act).1.queues = s.queues := by
  unfold onAccount
  split
  · rfl
  · rfl
  · split
    exacts [rfl, h _]

theorem onSession_queues {tag : Nat} {act : LineId → State × Answer} (h : ∀ i, (act i).1.queues = s.queues) :
    (onSession tag s act).1.queues = s.queues := by
  unfold onSession
  split
  exacts [h _, rfl]

end

section
variable (f : List Byte) (s : State)

theorem openServiceReq_queues : (openServiceReq f s).1.queues = s.queues := by
  unfold openServiceReq
  split
  · split <;> rfl
  all_goals rfl

theorem closeServiceReq_queues : (closeServiceReq f s).1.queues = s.queues := by
  refine withFields_queues fun a => ?_
  dsimp only
  split
  · rfl
  · have hs : (if a.1 = 1 then s.massEnd .serviceClosed else s).queues = s.queues := by
      split
      exacts [State.massEnd_queues _, rfl]
    split
    · exact hs
    · exact State.refuseDialogs_queues.trans hs

theorem setClockReq_queues : (setClockReq f s).1.queues = s.queues := by
  refine withFields_queues fun a => ?_
  dsimp only
  split
  · rfl
  · exact State.updLines_queues ..

theorem adjustClockReq_queues : (adjustClockReq f s).1.queues = s.queues := by
  refine withFields_queues fun a => ?_
  dsimp only
  split <;> rfl

theorem loadTariffReq_queues : (loadTariffReq f s).1.queues = s.queues := by
  refine withFields_queues fun raw => ?_
  split
  · rfl
  · exact State.reevaluateAll_queues (s := { s with tariff := some raw.tariff })

theorem loadTextReq_queues : (loadTextReq f s).1.queues = s.queues := by
  refine withFields_queues fun a => ?_
  dsimp only
  split
  · split
    · rfl
    · generalize (if a.2.1 = 0 then a.2.2 else _) = text
      split <;> rfl
  · rfl

theorem setMonitorReq_queues : (setMonitorReq f s).1.queues = s.queues := by
  refine withFields_queues fun a => ?_
  dsimp only
  split
  · rfl
  · show State.queues { s with link := if s.service = .opened then _ else _, chargeArmed := _ } = s.queues
    split <;> rfl

theorem configureLineReq_queues : (configureLineReq f s).1.queues = s.queues := by
  refine withFields_queues fun a => ?_
  dsimp only
  split
  · rfl
  · split
    · split <;> rfl
    · rfl

theorem broadcastReq_queues : (broadcastReq f s).1.queues = s.queues := by
  refine withFields_queues fun a => ?_
  dsimp only
  split
  · exact State.foldl_queues (fun _ _ => State.broadcastTo_queues ..) _ s
  · split
    · exact State.foldl_queues (fun _ _ => State.broadcastTo_queues ..) _ s
    · rfl

theorem loadAccountReq_queues : (loadAccountReq f s).1.queues = s.queues := by
  refine withFields_queues fun raw => ?_
  split
  · rfl
  · split
    exacts [rfl, State.loadAccount_queues _]

theorem deleteAccountReq_queues : (deleteAccountReq f s).1.queues = s.queues :=
  withFields_queues fun _ => onAccount_queues fun _ => by split <;> rfl

theorem creditAccountReq_queues : (creditAccountReq f s).1.queues = s.queues :=
  withFields_queues fun _ => onAccount_queues fun _ => by simp [State.creditAccount]

theorem setAccountStateReq_queues : (setAccountStateReq f s).1.queues = s.queues := by
  refine withFields_queues fun a => ?_
  dsimp only
  split <;> exact onAccount_queues fun _ => rfl

theorem outputReq_queues : (outputReq f s).1.queues = s.queues := by
  refine withFields_queues fun a => ?_
  dsimp only
  split
  exacts [rfl, onSession_queues fun _ => rfl]

theorem setSessionReq_queues : (setSessionReq f s).1.queues = s.queues := by
  refine withFields_queues fun a => ?_
  dsimp only
  split
  exacts [rfl, onSession_queues fun _ => rfl]

theorem endSessionReq_queues : (endSessionReq f s).1.queues = s.queues := by
  refine withFields_queues fun a => ?_
  dsimp only
  split
  exacts [rfl, onSession_queues fun _ => by simp]

end

/-! ### The other commands that write the link -/

section
variable {s : State}

/-- The intake queue takes a frame only where it has a place (R160). -/
theorem State.LinkBounded.offer (h : s.LinkBounded) (body : List Byte) : (s.offer body).LinkBounded := by
  unfold State.offer
  split
  next hroom =>
    refine ⟨?_, h.2⟩
    show (s.link.intake ++ [body]).length ≤ _
    rw [List.length_append, List.length_singleton]; exact hroom
  next => exact h

theorem State.LinkBounded.validFrame (h : s.LinkBounded) (body : List Byte) : (s.validFrame body).LinkBounded := by
  unfold State.validFrame
  split
  · exact h.offer body
  · refine State.LinkBounded.offer ?_ body
    exact h
  · refine State.LinkBounded.offer ?_ body
    exact h
  · exact h

theorem State.LinkBounded.receiveByte (h : s.LinkBounded) (b : Byte) : (s.receiveByte b).LinkBounded := by
  unfold State.receiveByte
  split
  · exact h
  · exact h
  · split <;> exact h
  · dsimp only
    split
    · exact h
    · split
      · refine State.LinkBounded.validFrame ?_ _
        exact h
      · exact h

theorem State.LinkBounded.frameReceived (h : s.LinkBounded) (bytes : List Byte) :
    (bytes.foldl State.receiveByte s).LinkBounded := by
  induction bytes generalizing s with
  | nil => exact h
  | cons b bytes ih => exact ih (h.receiveByte b)

/-- What the arbiter takes leaves the queues no longer (R162). -/
theorem State.LinkBounded.choose (h : s.LinkBounded) {c : Choice} (e : s.choose = some c) : c.state.LinkBounded := by
  unfold State.choose at e
  rcases orElse_some e with e | e
  · obtain ⟨r, -, rfl⟩ := Option.map_eq_some_iff.1 e
    exact h
  rcases orElse_some e with e | e
  · unfold State.chooseReply at e
    split at e
    next r rest hr =>
      obtain rfl := Option.some.inj e
      exact ⟨h.1, tail_length_le hr h.2⟩
    next => cases e
  rcases orElse_some e with e | e
  · unfold State.chooseService at e
    rcases orElse_some e with e | e
    · obtain ⟨r, -, rfl⟩ := Option.map_eq_some_iff.1 e; exact h
    rcases orElse_some e with e | e
    · obtain ⟨r, -, rfl⟩ := Option.map_eq_some_iff.1 e; exact h
    rcases orElse_some e with e | e
    · obtain ⟨r, -, rfl⟩ := Option.map_eq_some_iff.1 e; exact h
    split at e
    · cases e
    · obtain ⟨r, -, rfl⟩ := Option.map_eq_some_iff.1 e; exact h
  rcases orElse_some e with e | e
  · obtain ⟨i, -, hi⟩ := List.exists_of_findSome?_eq_some e
    obtain ⟨r, -, rfl⟩ := Option.map_eq_some_iff.1 hi
    exact h
  rcases orElse_some e with e | e
  · unfold State.chooseBudget at e
    split at e
    · cases e
    · obtain ⟨n, -, hn⟩ := List.exists_of_findSome?_eq_some e
      obtain ⟨a, -, ha⟩ := Option.bind_eq_some_iff.1 hn
      obtain ⟨r, -, rfl⟩ := Option.map_eq_some_iff.1 ha
      exact h
  · obtain ⟨i, -, hi⟩ := List.exists_of_findSome?_eq_some e
    obtain ⟨ses, -, hi⟩ := Option.bind_eq_some_iff.1 hi
    obtain ⟨b, -, rfl⟩ := Option.map_eq_some_iff.1 hi
    exact h

/-- Every start-up empties both queues (R170). -/
theorem State.startUp_linkBounded (s : State) (k : StartKind) (p : Pins) : (s.startUp k p).LinkBounded :=
  ⟨Nat.zero_le _, Nat.zero_le _⟩

theorem State.volatileStart_linkBounded (s : State) (p : Pins) (r : Option Ready) :
    (s.volatileStart p r).LinkBounded := ⟨Nat.zero_le _, Nat.zero_le _⟩

theorem State.LinkBounded.powerFail (h : s.LinkBounded) : s.powerFail.LinkBounded := by
  have down : ∀ n, ((s.massEnd .power).hangupAnswered.enterPowerdown n).LinkBounded := fun n =>
    ⟨Nat.zero_le _, (State.LinkBounded.of_queues h (t := (s.massEnd .power).hangupAnswered) (by simp)).2⟩
  unfold State.powerFail
  split
  exacts [h, down _, down _, down _]

theorem State.startUpSeeing_linkBounded (s : State) (k : StartKind) (p : Pins) (pfw : Bool) :
    (s.startUpSeeing k p pfw).LinkBounded := by
  unfold State.startUpSeeing
  split
  exacts [(s.startUp_linkBounded k p).powerFail, s.startUp_linkBounded k p]

end

/-! ### Every command -/

section
variable {s t : State}

/-- A command of a running part keeps the link's sizes if its work does. -/
theorem State.LinkBounded.run {f : State → State} (h : s.LinkBounded) (e : s.whenRunning f = .next t)
    (hf : (f s).LinkBounded) : t.LinkBounded := by
  unfold State.whenRunning at e
  injection e with e
  subst e
  split
  exacts [hf, h]

theorem State.LinkBounded.quiet {f : State → State} (h : s.LinkBounded) (e : s.whenRunning f = .next t)
    (hf : (f s).queues = s.queues) : t.LinkBounded := h.run e (h.of_queues hf)

theorem State.LinkBounded.request {kind : Byte} {handle : Handler} (h : s.LinkBounded)
    (e : s.whenRunning (State.takeRequest kind handle) = .next t) (hf : ∀ f s, (handle f s).1.queues = s.queues) :
    t.LinkBounded := h.run e (h.takeRequest hf)

/-- The expiry of a timer of a line leaves the link's queues. -/
theorem State.LinkBounded.expiry {i : LineId} {due : Line → Bool} {act : Line → Line} (h : s.LinkBounded)
    (e : s.lineExpiry i due act = .next t) : t.LinkBounded := h.quiet e (by split <;> rfl)

theorem execReset_linkBounded {pins : Pins} (h : s.LinkBounded) (e : execReset pins s = .next t) : t.LinkBounded := by
  refine h.run e ?_
  split
  · split
    exacts [State.startUp_linkBounded .., h]
  · exact h

theorem execLabelZeroFrame_linkBounded (h : s.LinkBounded) (e : execLabelZeroFrame s = .next t) : t.LinkBounded := by
  refine h.run e ?_
  split
  · split
    exacts [h.dropFrame, h]
  · exact h

theorem execUnknownKind_linkBounded (h : s.LinkBounded) (e : execUnknownKind s = .next t) : t.LinkBounded := by
  refine h.run e ?_
  split
  · split
    next hc => exact h.dropFrame.pushReply (State.room_of_mayTake hc.1) _
    next => exact h
  · exact h

theorem execArbiterChoice_linkBounded (h : s.LinkBounded) (e : execArbiterChoice s = .next t) : t.LinkBounded := by
  refine h.run e ?_
  dsimp only
  split
  · exact h
  next c hc =>
    have hs : (c.state.send c.body).LinkBounded := h.choose hc
    split
    exacts [hs.of_queues (State.recheck_queues _), hs]

theorem execHostSilenceExpiry_linkBounded (h : s.LinkBounded) (e : execHostSilenceExpiry s = .next t) :
    t.LinkBounded := by
  refine h.quiet e ?_
  split
  · split
    · rfl
    · rfl
    · exact State.refuseDialogs_queues.trans (State.massEnd_queues _)
  · rfl

theorem execPowerRecovery_linkBounded {pins : Pins} (h : s.LinkBounded) (e : execPowerRecovery pins s = .next t) :
    t.LinkBounded := by
  refine h.run e ?_
  split
  exacts [State.startUp_linkBounded .., h]

theorem execResetPinAsserted_linkBounded (h : s.LinkBounded) (e : execResetPinAsserted s = .next t) :
    t.LinkBounded := by
  have held := s.volatileStart_linkBounded ⟨0, 0, 0⟩ none
  unfold execResetPinAsserted at e
  split at e <;> cases e
  exacts [held, held, h]

theorem execResetPin_linkBounded {pins : Pins} {pfw : Bool} (h : s.LinkBounded)
    (e : execResetPin pins pfw s = .next t) : t.LinkBounded := by
  have started := s.startUpSeeing_linkBounded .resetPin pins pfw
  unfold execResetPin at e
  split at e <;> cases e
  exacts [started, started, h]

theorem execPowerOn_linkBounded {pins : Pins} {pfw : Bool} {ram : RamFound}
    (e : execPowerOn pins pfw ram s = .next t) : t.LinkBounded := by
  unfold execPowerOn at e
  split at e <;> cases e
  exacts [State.startUpSeeing_linkBounded .., State.startUpSeeing_linkBounded ..]

theorem execCarrierDetect_linkBounded {i : LineId} (h : s.LinkBounded) (e : execCarrierDetect i s = .next t) :
    t.LinkBounded := by
  refine h.quiet e ?_
  dsimp only
  split
  · split
    exacts [rfl, State.admitLine_queues _]
  · rfl

theorem execCarrierLoss_linkBounded {i : LineId} (h : s.LinkBounded) (e : execCarrierLoss i s = .next t) :
    t.LinkBounded := by
  refine h.quiet e ?_
  dsimp only
  split
  · rfl
  · split
    · exact State.endOne_queues ..
    · split <;> rfl

theorem execPasswordCharacter_linkBounded {i : LineId} (h : s.LinkBounded)
    (e : execPasswordCharacter i s = .next t) : t.LinkBounded := by
  refine h.quiet e ?_
  dsimp only
  split
  · split
    · split
      exacts [State.signOn_queues _, rfl]
    · rfl
  · rfl

theorem execInactivity_linkBounded {i : LineId} (h : s.LinkBounded) (e : execInactivity i s = .next t) :
    t.LinkBounded := by
  refine h.quiet e ?_
  split
  · split
    exacts [State.tick_queues, rfl]
  · rfl

/-- Every command keeps the intake queue and the reply queue within their 4 places (R160, R161). -/
theorem exec_keeps_linkBounded (c : Instr) (h : s.LinkBounded) (e : exec c s = .next t) : t.LinkBounded := by
  cases c with
  | keepalive => exact h.request e fun _ _ => rfl
  | status => exact h.request e fun _ _ => rfl
  | openService => exact h.request e openServiceReq_queues
  | closeService => exact h.request e closeServiceReq_queues
  | setClock => exact h.request e setClockReq_queues
  | adjustClock => exact h.request e adjustClockReq_queues
  | loadTariff => exact h.request e loadTariffReq_queues
  | loadText => exact h.request e loadTextReq_queues
  | setMonitor => exact h.request e setMonitorReq_queues
  | reset pins => exact execReset_linkBounded h e
  | configureLine => exact h.request e configureLineReq_queues
  | enableLine => exact h.request e fun _ _ => onLine_queues fun _ => rfl
  | disableLine => exact h.request e fun _ _ => onLine_queues fun _ => State.disableLine_queues _
  | lineStatus => exact h.request e fun _ _ => onLine_queues fun _ => rfl
  | broadcast => exact h.request e broadcastReq_queues
  | loadAccount => exact h.request e loadAccountReq_queues
  | deleteAccount => exact h.request e deleteAccountReq_queues
  | creditAccount => exact h.request e creditAccountReq_queues
  | readAccount => exact h.request e fun _ _ => withFields_queues fun _ => onAccount_queues fun _ => rfl
  | setAccountState => exact h.request e setAccountStateReq_queues
  | output => exact h.request e outputReq_queues
  | setSession => exact h.request e setSessionReq_queues
  | endSession => exact h.request e endSessionReq_queues
  | readCharges => exact h.request e fun _ _ => withFields_queues fun _ => rfl
  | releaseCharges => exact h.request e fun _ _ => withFields_queues fun _ => State.release_queues _
  | labelZeroFrame => exact execLabelZeroFrame_linkBounded h e
  | unknownKind => exact execUnknownKind_linkBounded h e
  | frameReceived bytes => exact h.run (show execFrameReceived bytes s = _ from e) (h.frameReceived bytes)
  | frameTimeout => exact h.quiet (show execFrameTimeout s = _ from e) (by split <;> rfl)
  | arbiterChoice => exact execArbiterChoice_linkBounded h e
  | hostSilenceExpiry => exact execHostSilenceExpiry_linkBounded h e
  | powerFailWarning => exact h.run (show execPowerFailWarning s = _ from e) h.powerFail
  | powerRecovery pins => exact execPowerRecovery_linkBounded h e
  | resetPinAsserted => exact execResetPinAsserted_linkBounded h e
  | resetPin pins pfw => exact execResetPin_linkBounded h e
  | powerOn pins pfw ram => exact execPowerOn_linkBounded e
  | ringSeen i => exact h.quiet (show execRing i s = _ from e) rfl
  | carrierDetect i => exact execCarrierDetect_linkBounded h e
  | carrierDrop i => exact h.quiet (show execCarrierDrop i s = _ from e) rfl
  | carrierWaitExpiry i => exact h.expiry (show execCarrierWaitExpiry i s = _ from e)
  | carrierLoss i => exact execCarrierLoss_linkBounded h e
  | hangupGuardExpiry i => exact h.expiry (show execHangupGuardExpiry i s = _ from e)
  | lockoutExpiry i => exact h.expiry (show execLockoutExpiry i s = _ from e)
  | drainTimerExpiry i => exact h.expiry (show execDrainTimerExpiry i s = _ from e)
  | quietLine i => exact h.quiet (show execQuietLine i s = _ from e) rfl
  | endOfCharacter i => exact h.quiet (show execEndOfCharacter i s = _ from e) (by dsimp only; split <;> simp)
  | noEnd i => exact h.quiet (show execNoEnd i s = _ from e) (by dsimp only; split <;> rfl)
  | tooMany i samples => exact h.quiet (show execTooMany i samples s = _ from e) (by dsimp only; split <;> simp)
  | detectionTimerExpiry i => exact h.expiry (show execDetectionTimerExpiry i s = _ from e)
  | characterReceived i bits => exact h.quiet (show execCharacterReceived i bits s = _ from e) rfl
  | framingError i => exact h.quiet (show execFramingError i s = _ from e) rfl
  | breakReceived i => exact h.quiet (show execBreak i s = _ from e) rfl
  | inputStore i => exact h.quiet (show execInputStore i s = _ from e) rfl
  | forwardingTimerExpiry i => exact h.expiry (show execForwardingTimerExpiry i s = _ from e)
  | transmitCharacter i => exact h.quiet (show execTransmitCharacter i s = _ from e) rfl
  | nameCharacter i => exact h.quiet (show execNameCharacter i s = _ from e) rfl
  | passwordCharacter i => exact execPasswordCharacter_linkBounded h e
  | dialogTimerExpiry i => exact h.expiry (show execDialogTimerExpiry i s = _ from e)
  | rejectingTimerExpiry i => exact h.expiry (show execRejectingTimerExpiry i s = _ from e)
  | meteringTick => exact h.quiet (show execMeteringTick s = _ from e) State.tick_queues
  | graceExpiry i => exact h.quiet (show execGraceExpiry i s = _ from e) (by split <;> simp)
  | inactivity i => exact execInactivity_linkBounded h e
  | startEdge i => exact h.quiet (show execStartEdge i s = _ from e) rfl
  | transition i samples => exact h.quiet (show execTransition i samples s = _ from e) (by dsimp only; split <;> simp)
  | powerLoss => cases e; exact s.volatileStart_linkBounded ⟨0, 0, 0⟩ none

theorem step_keeps_linkBounded (h : s.LinkBounded) (e : step s = .next t) : t.LinkBounded := by
  unfold step at e
  split at e
  · cases e
    split <;> exact h
  next rest _ => exact exec_keeps_linkBounded (s := { s with pending := rest }) _ h e

end

/-- Settles O6: every operation on a line keeps its sizes (`Line.withinLaw`), and no command lets a queue of the link
grow but by a frame or a reply that has a place there. -/
theorem stepKeepsBufferSizes : Obligations.StepKeepsBufferSizes := fun _ _ hl hk e =>
  ⟨step_keeps_bounded hl e, step_keeps_linkBounded hk e⟩

end Sys2Proof.Machine
end


section
/-! SET SESSION (O28). -/

namespace Sys2Proof.Machine

/-! ### Two-byte fields and session tags -/

theorem byteOf_toNat (n : Nat) : (BitVec.ofNat 8 n).toNat = n % 256 := BitVec.toNat_ofNat n 8

/-- A two-byte field is read as it was written (R171). -/
theorem u16_be16 {n : Nat} (h : n < 65536) (rest : List Byte) : u16 (be16 n ++ rest) = some (n, rest) := by
  have hn : (BitVec.ofNat 8 (n / 256)).toNat * 256 + (BitVec.ofNat 8 n).toNat = n := by
    rw [byteOf_toNat, byteOf_toNat]; omega
  exact congrArg (fun m => some (m, rest)) hn

section
variable {s : State} {tag : Nat}

/-- A tag of no current session names no line (R127). -/
theorem State.currentLine_eq_none (h : s.Stale tag) : s.currentLine tag = none := by
  unfold State.currentLine
  split
  next hi =>
    refine if_neg fun ⟨hses, hgen⟩ => ?_
    rcases h ⟨tag / 256, hi⟩ rfl with hnone | hne
    · rw [hnone] at hses; cases hses
    · exact hne hgen
  next => rfl

/-- The tag of a current session names its line (R127). -/
theorem State.currentLine_eq_some {i : LineId} {ses : Session} (hi : i.val = tag / 256)
    (hses : (s.line i).session = some ses) (hgen : (s.line i).generation.toNat = tag % 256) :
    s.currentLine tag = some i := by
  have hlt : tag / 256 < 48 := hi ▸ i.isLt
  have hline : (⟨tag / 256, hlt⟩ : LineId) = i := Fin.ext hi.symm
  unfold State.currentLine
  rw [dif_pos hlt, hline]
  exact if_pos ⟨by rw [hses]; rfl, hgen⟩

end

/-! ### The settings of SET SESSION -/

/-- The checks of SET SESSION on its fields, in their order, with their numbers (R129, R172): `n` is the count of
forwarding characters and `p` the presence of the attention character. -/
def RawCopies.checks (c : RawCopies) (n p : Byte) : List (Bool × Byte) :=
  [(decide (1 < c.echo.toNat), 2), (decide (4 < n.toNat), 3), (decide (1 < p.toNat), 5),
    (decide (1 < c.outPacing.toNat), 6), (decide (1 < c.inPacing.toNat), 7)]

section
variable {c : RawCopies} {n p : Byte} {fwd : List Byte} {attention : Option Byte}

/-- The first failing check names its field (R129). -/
theorem RawCopies.check_error (hf : c.fwd = if 4 < n.toNat then none else some fwd)
    (ha : c.attention = if 1 < p.toNat then none else some attention) (x : Bool × Byte)
    (hx : (c.checks n p).find? (·.1) = some x) : c.check = .error x.2.toNat := by
  have one (b : Byte) : decide (1 < b.toNat) = false → ∃ v, boolOf b = some v := fun h => by
    rw [boolOf_eq, if_neg (of_decide_eq_false h)]; exact ⟨_, rfl⟩
  have tooBig (b : Byte) : decide (1 < b.toNat) = true → boolOf b = none := fun h => by
    rw [boolOf_eq, if_pos (of_decide_eq_true h)]
  unfold RawCopies.check
  refine check_step 2 (tooBig _) (fun _ _ => check_step 3 (fun h => ?_) (fun _ _ => check_step 5 (fun h => ?_)
    (fun _ _ => check_step 6 (tooBig _) (fun _ _ => check_step 7 (tooBig _) (fun _ _ _ h => by simp at h) (one _))
    (one _)) fun h => ?_) fun h => ?_) (one _) x hx
  · rw [hf, if_pos (of_decide_eq_true h)]
  · rw [ha, if_pos (of_decide_eq_true h)]
  · exact ⟨_, by rw [ha, if_neg (of_decide_eq_false h)]⟩
  · exact ⟨_, by rw [hf, if_neg (of_decide_eq_false h)]⟩

/-- With no failing check the six settings are taken (R129). -/
theorem RawCopies.check_ok (hf : c.fwd = if 4 < n.toNat then none else some fwd)
    (ha : c.attention = if 1 < p.toNat then none else some attention) (hx : (c.checks n p).find? (·.1) = none) :
    c.check = .ok ⟨decide (c.echo = 1), fwd, c.fwdTimer.toNat, attention, decide (c.outPacing = 1),
      decide (c.inPacing = 1)⟩ := by
  simp only [RawCopies.checks, List.find?_eq_none, List.mem_cons, List.not_mem_nil, or_false, forall_eq_or_imp,
    forall_eq, decide_eq_true_eq] at hx
  obtain ⟨he, hn, hp, ho, hi⟩ := hx
  unfold RawCopies.check
  rw [boolOf_eq c.echo, if_neg he, hf, if_neg hn, ha, if_neg hp, boolOf_eq c.outPacing, if_neg ho,
    boolOf_eq c.inPacing, if_neg hi]
  rfl

/-- The last check is that of the input pacing byte, which is 0 or 1 where no check fails (R171). -/
theorem RawCopies.inPacing_of_checks (hx : (c.checks n p).find? (·.1) = none) : c.inPacing = 0 ∨ c.inPacing = 1 := by
  simp only [RawCopies.checks, List.find?_eq_none, List.mem_cons, List.not_mem_nil, or_false, forall_eq_or_imp,
    forall_eq, decide_eq_true_eq] at hx
  obtain ⟨-, -, -, -, hi⟩ := hx
  exact toNat_le_one hi

end

/-- The fields of SET SESSION read in the order of their layout (section 11.2). -/
theorem readSetSession_eq {tag : Nat} (h : tag < 65536) (ec n f0 f1 f2 f3 ft ap ac op ip : Byte) (rest : List Byte) :
    readSetSession (be16 tag ++ [ec, n, f0, f1, f2, f3, ft, ap, ac, op, ip] ++ rest)
      = some (tag, ⟨ec, if n.toNat ≤ 4 then some ([f0, f1, f2, f3].take n.toNat) else none, ft,
          if ap = 0 then some none else if ap = 1 then some (some ac) else none, op, ip⟩) := by
  rw [List.append_assoc, readSetSession, u16_be16 h]
  rfl

/-! ### SET SESSION as it is taken -/

/-- Held input released (R38). -/
theorem Line.releaseInput_eq (l : Line) : l.releaseInput = { l with
    unit := { l.unit with inputHeld := false }
    out := { l.out with control := if l.unit.inputHeld = true then some chDC1 else l.out.control } } := by
  unfold Line.releaseInput
  split
  · rfl
  next h => rw [← Bool.eq_false_iff.2 h]

section
variable {s : State} {label : Byte} {fields : List Byte} {tag : Nat} {raw : RawCopies}

theorem exec_setSession (h : s.Asked 0x21 label fields) :
    exec .setSession s = .next ((setSessionReq fields s.dropFrame).1.pushReply
      ⟨0x21 + 0x80, label, (setSessionReq fields s.dropFrame).2.1, (setSessionReq fields s.dropFrame).2.2⟩) :=
  State.request_asked h setSessionReq

theorem setSessionReq_badField (hr : readSetSession fields = some (tag, raw)) {n : Nat} (hc : raw.check = .error n) :
    setSessionReq fields s = (s, answerBad n) := by
  simp only [setSessionReq, withFields, hr, hc]

theorem setSessionReq_stale (hr : readSetSession fields = some (tag, raw)) {copies : Copies}
    (hc : raw.check = .ok copies) (hl : s.currentLine tag = none) : setSessionReq fields s = (s, answerOf .stale) := by
  simp only [setSessionReq, withFields, hr, hc, onSession, hl]

theorem setSessionReq_taken (hr : readSetSession fields = some (tag, raw)) {copies : Copies}
    (hc : raw.check = .ok copies) {i : LineId} (hl : s.currentLine tag = some i) :
    setSessionReq fields s
      = (s.setLine i ((s.line i).setCopies copies), answerDone (copiesBlock copies)) := by
  simp only [setSessionReq, withFields, hr, hc, onSession, hl]
  rfl

end

/-- The copies of a session replaced (R37, R38, R47, R129). -/
theorem Line.setCopies_eq {l : Line} {ses : Session} (hs : l.session = some ses) (c : Copies) :
    l.setCopies c = { l with
      session := some { ses with copies := c, fwdTimer := if c.fwdTimer = 0 then none else ses.fwdTimer }
      unit := { l.unit with
        outputStopped := l.unit.outputStopped && c.outPacing
        inputHeld := l.unit.inputHeld && c.inPacing }
      out := { l.out with control :=
        if c.inPacing = false ∧ l.unit.inputHeld = true then some chDC1 else l.out.control } } := by
  unfold Line.setCopies
  rw [hs]
  cases c.outPacing <;> cases c.inPacing <;> simp [Line.releaseInput_eq]

/-- Settles O28: the checks of the fields and of the tag in their order, and the copies replaced (R129). -/
theorem setSessionReplacesTheCopies : Obligations.SetSessionReplacesTheCopies := by
  intro s label ec n f0 f1 f2 f3 ft ap ac op ip tag rest checks htag hch hq
  subst hch
  have hr := readSetSession_eq htag ec n f0 f1 f2 f3 ft ap ac op ip rest
  refine ⟨fun c hc => ?_, fun hc hst => ?_, fun hc i l ses copies hi hl hs hg hcp => ?_⟩
  · rw [exec_setSession hq, setSessionReq_badField hr
      (RawCopies.check_error (n := n) (p := ap) (fwdField_eq ..) (optCharField_eq ..) c hc)]
    refine congrArg (fun b => Host.Outcome.next (State.answered s 0x21 label .badField [b, 0])) ?_
    rw [byteOf, BitVec.ofNat_toNat, BitVec.setWidth_eq]
  · rw [exec_setSession hq, setSessionReq_stale hr
      (RawCopies.check_ok (n := n) (p := ap) (fwdField_eq ..) (optCharField_eq ..) (by exact hc))
      (State.currentLine_eq_none (s := s.dropFrame) hst)]
    rfl
  · subst hl hcp
    have hip : decide (ip = 1) = false ↔ ip = 0 := by
      obtain rfl | rfl : ip = 0 ∨ ip = 1 :=
        RawCopies.inPacing_of_checks (n := n) (p := ap) (c := ⟨ec, none, ft, none, op, ip⟩) hc
      all_goals decide
    have hft : ft.toNat = 0 ↔ ft = 0 := BitVec.toNat_inj (x := ft) (y := 0#8)
    rw [exec_setSession hq, setSessionReq_taken hr
      (RawCopies.check_ok (n := n) (p := ap) (fwdField_eq ..) (optCharField_eq ..) (by exact hc))
      (State.currentLine_eq_some (s := s.dropFrame) hi hs hg),
      State.line_dropFrame, Line.setCopies_eq hs]
    simp only [hip, hft]
    rfl

end Sys2Proof.Machine
end


section
/-! The speed detector: the runs it measures (O44) and the failures of a character and of the detection (O45). -/

namespace Sys2Proof.Machine

/-! ### The limits of an interval -/

/-- An interval of `len` samples at the level `lv` is short of the limit that ends the measurement (R26). -/
def Level.BelowLimit (lv : Level) (len : Nat) : Prop := (lv = .mark → len < 4096) ∧ (lv = .space → len < 65535)

/-- No noise interval reaches a limit (R25, R26). -/
theorem Level.BelowLimit.of_noise {lv : Level} {len : Nat} (h : len ≤ 7) : lv.BelowLimit len :=
  ⟨fun _ => by omega, fun _ => by omega⟩

section
variable {s : State} {i : LineId} {len : Nat} {go : State}

theorem State.atLimit_below (h : (s.line i).detector.curLevel.BelowLimit len) : s.atLimit i len go = go := by
  unfold State.atLimit
  split
  next hm => exact if_neg (Nat.not_le_of_lt (h.1 hm))
  next hs => exact if_neg (Nat.not_le_of_lt (h.2 hs))

/-- A mark run of 4,096 samples is the end of the character (R26). -/
theorem State.atLimit_mark (hm : (s.line i).detector.curLevel = .mark) (h : 4096 ≤ len) :
    s.atLimit i len go = s.evaluateCharacter i := by
  unfold State.atLimit
  rw [hm]
  exact if_pos h

/-- A space run of 65,535 samples fails the character (R26). -/
theorem State.atLimit_space (hs : (s.line i).detector.curLevel = .space) (h : 65535 ≤ len) :
    s.atLimit i len go = s.setLine i ((s.line i).detectFail .noEnd) := by
  unfold State.atLimit
  rw [hs]
  exact if_pos h

/-! ### The end of a run -/

/-- A run joins the list (R25). -/
theorem State.runEnds_joins (hb : (s.line i).detector.curLevel.BelowLimit len) (h8 : 8 ≤ len)
    (hr : (s.line i).detector.intervals.length < 24) :
    s.runEnds i len = s.setLine i { s.line i with detector := { (s.line i).detector with
      intervals := (s.line i).detector.intervals ++ [len], cur := 0
      curLevel := (s.line i).detector.curLevel.flip } } := by
  rw [State.runEnds, State.atLimit_below hb]
  dsimp only
  rw [if_pos (show Config.noiseSamples < len from h8),
    if_neg (show ¬ Config.intervalsSize ≤ _ from Nat.not_le_of_lt hr)]
  rfl

/-- A run on a full list fails the character (R25, R26). -/
theorem State.runEnds_full (hb : (s.line i).detector.curLevel.BelowLimit len) (h8 : 8 ≤ len)
    (hr : 24 ≤ (s.line i).detector.intervals.length) :
    s.runEnds i len = s.setLine i ((s.line i).detectFail .tooMany) := by
  rw [State.runEnds, State.atLimit_below hb]
  dsimp only
  rw [if_pos (show Config.noiseSamples < len from h8)]
  exact if_pos hr

/-- Noise on an empty list: the detector waits again for an edge (R25; log 16). -/
theorem State.runEnds_noiseEdge (h7 : len ≤ 7) (hr : (s.line i).detector.intervals = []) :
    s.runEnds i len = s.setLine i { s.line i with detector := { (s.line i).detector with
      phase := .waiting, cur := 0, curLevel := .mark } } := by
  rw [State.runEnds, State.atLimit_below (.of_noise h7)]
  dsimp only
  rw [if_neg (show ¬ Config.noiseSamples < len from Nat.not_lt_of_le h7), hr]
  rfl

/-- A line whose last run, of `t` samples, goes on through `len` samples of noise (R25). -/
def Line.joined (l : Line) (before : List Nat) (t len : Nat) : Line :=
  { l with detector := { l.detector with
      intervals := before, cur := min 65535 (t + len), curLevel := l.detector.curLevel.flip } }

/-- Noise after a run: the run goes on through it, up to the limits (R25, R26). -/
theorem State.runEnds_noise (h7 : len ≤ 7) {before : List Nat} {t : Nat}
    (hr : (s.line i).detector.intervals = before ++ [t]) :
    s.runEnds i len = (s.setLine i ((s.line i).joined before t len)).atLimit i (min 65535 (t + len))
      (s.setLine i ((s.line i).joined before t len)) := by
  rw [State.runEnds, State.atLimit_below (.of_noise h7)]
  dsimp only
  rw [if_neg (show ¬ Config.noiseSamples < len from Nat.not_lt_of_le h7), hr, List.getLast?_concat,
    List.dropLast_concat]
  rfl

end

/-! ### The detector's commands -/

section
variable {s : State} {i : LineId}

theorem Line.measuring_eq_true {l : Line} (hs : l.state = .detecting) (hp : l.detector.phase = .measuring) :
    l.measuring = true := by simp [Line.measuring, hs, hp]

theorem exec_quietLine (h : s.mode = .running) (hs : (s.line i).state = .detecting)
    (hp : (s.line i).detector.phase = .arming) :
    exec (.quietLine i) s
      = .next (s.setLine i { s.line i with detector := { (s.line i).detector with phase := .waiting } }) := by
  rw [exec, execQuietLine, State.whenRunning_running h]
  exact next_setLine (if_pos ⟨hs, hp⟩)

theorem exec_startEdge (h : s.mode = .running) (hs : (s.line i).state = .detecting)
    (hp : (s.line i).detector.phase = .waiting) :
    exec (.startEdge i) s = .next (s.setLine i { s.line i with detector := { (s.line i).detector with
      phase := .measuring, intervals := [], cur := 0, curLevel := .space, presence := 0 } }) := by
  rw [exec, execStartEdge, State.whenRunning_running h]
  exact next_setLine (if_pos ⟨hs, hp⟩)

theorem exec_transition (h : s.mode = .running) (hm : (s.line i).measuring = true) (samples : Nat) :
    exec (.transition i samples) s = .next (s.runEnds i ((s.line i).detector.cur + samples)) := by
  rw [exec, execTransition, State.whenRunning_running h]
  exact congrArg _ (if_pos hm)

theorem exec_tooMany (h : s.mode = .running) (hm : (s.line i).measuring = true) {samples : Nat}
    (hr : 24 ≤ (s.line i).detector.intervals.length) (h8 : 8 ≤ (s.line i).detector.cur + samples) :
    exec (.tooMany i samples) s = .next (s.runEnds i ((s.line i).detector.cur + samples)) := by
  rw [exec, execTooMany, State.whenRunning_running h]
  exact congrArg _ (if_pos ⟨hm, hr, h8⟩)

theorem exec_noEnd (h : s.mode = .running) (hm : (s.line i).measuring = true)
    (hl : (s.line i).detector.curLevel = .space) :
    exec (.noEnd i) s = .next (s.setLine i ((s.line i).detectFail .noEnd)) := by
  rw [exec, execNoEnd, State.whenRunning_running h]
  exact congrArg _ (if_pos ⟨hm, hl⟩)

end

/-- Settles O44: the detector armed, a character begun, and a run ended by the four cases of `State.runEnds` short of
the limits (R24 to R26). -/
theorem detectorMeasuresRuns : Obligations.DetectorMeasuresRuns := by
  intro s i l d h hl hd hs
  subst hl hd
  refine ⟨exec_quietLine h hs, exec_startEdge h hs, fun hp samples len hlen hm hsp => ?_⟩
  subst hlen
  have hx := exec_transition h (Line.measuring_eq_true hs hp) samples
  refine ⟨fun h8 hr => ?_, fun h7 hr => ?_, fun h7 before t hr htm hts => ?_⟩
  · rw [hx, State.runEnds_joins ⟨hm, hsp⟩ h8 hr]
  · rw [hx, State.runEnds_noiseEdge h7 hr]
  · have hcur : min 65535 (t + ((s.line i).detector.cur + samples)) = t + ((s.line i).detector.cur + samples) := by
      cases hlv : (s.line i).detector.curLevel with
      | space => have := htm hlv; omega
      | mark => have := hts hlv; omega
    have hbelow : (s.line i).detector.curLevel.flip.BelowLimit (t + ((s.line i).detector.cur + samples)) := by
      cases hlv : (s.line i).detector.curLevel with
      | space => exact ⟨fun _ => htm hlv, nofun⟩
      | mark => exact ⟨nofun, fun _ => hts hlv⟩
    rw [hx, State.runEnds_noise h7 hr, Line.joined, hcur, State.atLimit_below (by simpa using hbelow)]

/-! ### A failed character -/

/-- A line whose character failed with the result `r`: recorded, tallied and counted, the detector arming (R30). -/
def Line.characterFailed (r : DetResult) (l : Line) : Line :=
  { l with
    detector := { l.detector with last := r, attempts := l.detector.attempts + 1, intervals := [], phase := .arming }
    tallies := { l.tallies with detFailures := min 65535 (l.tallies.detFailures + 1) } }

theorem Line.detectFail_again {l : Line} (h : l.detector.attempts + 1 ≠ l.config.detAttempts) (r : DetResult) :
    l.detectFail r = l.characterFailed r := if_neg h

/-- At the attempts limit the line hangs up with SPEED_FAIL (R30). -/
theorem Line.detectFail_last {l : Line} (h : l.detector.attempts + 1 = l.config.detAttempts) (r : DetResult) :
    l.detectFail r = (l.characterFailed r).onHook.withEvent .speedFail r.code := by
  rw [← Line.raiseEvent_eq_withEvent]; exact if_pos h

/-! ### The evaluation of a character that is no carriage return -/

/-- With no run in any window no speed is present (R27). -/
theorem fastest_presenceOf_none {runs : List Nat} (h : ∀ run ∈ runs, ∀ k : SpeedCode, inWindow k run = false) :
    fastest (presenceOf runs) = none := by
  rw [fastest, List.find?_eq_none]
  intro k _
  rw [getLsbD_presenceOf]
  simpa using fun run hr => h run hr k

/-- How a list of runs fails with the result `r`: no run is in any window, or the list does not begin as a carriage
return does at the fastest speed present (R27, R28). -/
def RunsFail (runs : List Nat) (r : DetResult) : Prop :=
  r = .noMatch ∧ (∀ run ∈ runs, ∀ k : SpeedCode, inWindow k run = false)
  ∨ r = .badChar ∧ ∃ k : SpeedCode, (∃ run ∈ runs, inWindow k run = true)
    ∧ (∀ j : SpeedCode, k < j → ∀ run ∈ runs, inWindow j run = false) ∧ readsCR k runs = false

theorem State.evaluateCharacter_fails {s : State} {i : LineId} {r : DetResult}
    (h : RunsFail (s.line i).detector.intervals r) :
    s.evaluateCharacter i = s.setLine i (Line.detectFail r { s.line i with detector := { (s.line i).detector with
      presence := presenceOf (s.line i).detector.intervals } }) := by
  unfold State.evaluateCharacter
  dsimp only
  rcases h with ⟨rfl, hn⟩ | ⟨rfl, k, hk, hj, hcr⟩
  · rw [fastest_presenceOf_none hn]
  · rw [fastest_presenceOf hk hj]
    exact if_neg (by simp [hcr])

/-! ### The failures by their commands -/

/-- The line in DETECTING of which the claims speak, a character failing in it, as `State.runEnds` leaves it to
`Line.detectFail`: the runs are those left, the current interval as given. -/
def Line.failing (l : Line) (presence : BitVec 8) (runs : List Nat) (cur : Nat) (level : Level) : Line :=
  { l with detector := { l.detector with presence := presence, intervals := runs, cur := cur, curLevel := level } }

section
variable {s : State} {i : LineId} {samples t : Nat} {before : List Nat}

/-- Noise that joins its neighbours into a space run of 65,535 samples (R25, R26). -/
theorem exec_transition_noEnd (h : s.mode = .running) (hm : (s.line i).measuring = true)
    (hl : (s.line i).detector.curLevel = .mark) (h7 : (s.line i).detector.cur + samples ≤ 7)
    (hr : (s.line i).detector.intervals = before ++ [t]) (ht : 65535 ≤ t + ((s.line i).detector.cur + samples)) :
    exec (.transition i samples) s = .next (s.setLine i (Line.detectFail .noEnd
      ((s.line i).failing (s.line i).detector.presence before 65535 .space))) := by
  have hj : (s.line i).joined before t ((s.line i).detector.cur + samples)
      = (s.line i).failing (s.line i).detector.presence before 65535 .space := by
    rw [Line.joined, hl, Nat.min_eq_left ht]; rfl
  rw [exec_transition h hm, State.runEnds_noise h7 hr, hj,
    State.atLimit_space (by rw [State.line_setLine, if_pos rfl]; rfl) (by omega), State.setLine_setLine,
    State.line_setLine, if_pos rfl]

/-- Noise that joins its neighbours into a mark run of 4,096 samples, after runs that fail (R25 to R28). -/
theorem exec_transition_evaluated (h : s.mode = .running) (hm : (s.line i).measuring = true)
    (hl : (s.line i).detector.curLevel = .space) (h7 : (s.line i).detector.cur + samples ≤ 7)
    (hr : (s.line i).detector.intervals = before ++ [t]) (ht : 4096 ≤ t + ((s.line i).detector.cur + samples))
    {r : DetResult} (hf : RunsFail before r) :
    exec (.transition i samples) s = .next (s.setLine i (Line.detectFail r ((s.line i).failing (presenceOf before)
      before (min 65535 (t + ((s.line i).detector.cur + samples))) .mark))) := by
  have hj : (s.setLine i ((s.line i).joined before t ((s.line i).detector.cur + samples))).line i
      = (s.line i).failing (s.line i).detector.presence before
        (min 65535 (t + ((s.line i).detector.cur + samples))) .mark := by
    rw [State.line_setLine, if_pos rfl, Line.joined, hl]; rfl
  rw [exec_transition h hm, State.runEnds_noise h7 hr, State.atLimit_mark (by rw [hj]; rfl) (by omega),
    State.evaluateCharacter_fails (r := r) (by rw [hj]; exact hf), State.setLine_setLine, hj]
  rfl

/-- A run that ends as a 25th interval, found as a transition or as too many (R25, R26). -/
theorem exec_tooMany_fails (h : s.mode = .running) (hm : (s.line i).measuring = true) {c : Instr}
    (hc : c = .tooMany i samples ∨ c = .transition i samples) (hr : 24 ≤ (s.line i).detector.intervals.length)
    (h8 : 8 ≤ (s.line i).detector.cur + samples)
    (hb : (s.line i).detector.curLevel.BelowLimit ((s.line i).detector.cur + samples)) :
    exec c s = .next (s.setLine i ((s.line i).detectFail .tooMany)) := by
  rcases hc with rfl | rfl
  · rw [exec_tooMany h hm hr h8, State.runEnds_full hb h8 hr]
  · rw [exec_transition h hm, State.runEnds_full hb h8 hr]

/-- The detection timer's expiry hangs the line up (R31; log 8). -/
theorem exec_detectionTimerExpiry (h : s.mode = .running) (hs : (s.line i).state = .detecting)
    (ht : (s.line i).detector.timer ≠ none) :
    exec (.detectionTimerExpiry i) s = .next (s.scanned.setLine i
      ((s.line i).driven.onHook.withEvent .speedFail (s.line i).detector.last.code)) := by
  rw [State.scanned_eq_scan, ← Line.raiseEvent_eq_withEvent, exec, execDetectionTimerExpiry]
  exact State.lineExpiry_due h (due_of_runs hs ht) _

end

/-- Settles O45: each failure brings the line to `Line.detectFail`, which arms the detector again or hangs the line up
(R25 to R28, R30, R31). -/
theorem detectionFailsByRule : Obligations.DetectionFailsByRule := by
  intro s i l d h hl hd hs
  subst hl hd
  refine ⟨fun hp c r presence cur level failed hc hfailed => ?_, exec_detectionTimerExpiry h hs⟩
  have hm := Line.measuring_eq_true hs hp
  have hx : ∃ runs, exec c s
      = .next (s.setLine i (((s.line i).failing presence runs cur level).detectFail r)) := by
    rcases hc with ⟨rfl, rfl, hc⟩ | ⟨samples, hc, hr, h8, hbm, hbs, rfl, rfl, rfl, rfl⟩ |
      ⟨runs, hc, rfl, hf⟩
    · rcases hc with ⟨rfl, hlv, rfl, rfl⟩ | ⟨samples, before, t, rfl, hlv, h7, hr, ht, rfl, rfl⟩
      · exact ⟨_, exec_noEnd h hm hlv⟩
      · exact ⟨_, exec_transition_noEnd h hm hlv h7 hr ht⟩
    · exact ⟨_, exec_tooMany_fails h hm hc hr h8 ⟨hbm, hbs⟩⟩
    · rcases hc with ⟨rfl, hlv, rfl, rfl, rfl⟩ | ⟨samples, t, rfl, hlv, h7, hr, ht, rfl, rfl⟩
      · exact ⟨_, by rw [exec_endOfCharacter h hs hp hlv, State.evaluateCharacter_fails hf]; rfl⟩
      · exact ⟨_, exec_transition_evaluated h hm hlv h7 hr ht hf⟩
  obtain ⟨runs, hx⟩ := hx
  subst hfailed
  refine ⟨fun hn => ?_, fun hn => ?_⟩
  · rw [hx, Line.detectFail_again (by exact hn)]; rfl
  · rw [hx, Line.detectFail_last (by exact hn)]; rfl

end Sys2Proof.Machine
end


section
/-! Characters received: parity, pacing, the FIFO (O47), attention and BREAK (O48). -/

namespace Sys2Proof.Machine

/-! ### The parity of a character -/

/-- Parity folded over bits is the parity of their number. -/
theorem foldl_xor_eq (f : Nat → Bool) (ks : List Nat) (b : Bool) :
    ks.foldl (fun p k => p ^^ f k) b = (b ^^ decide ((ks.filter f).length % 2 = 1)) := by
  induction ks generalizing b with
  | nil => simp
  | cons k ks ih =>
    rw [List.foldl_cons, ih]
    cases hf : f k with
    | false => rw [List.filter_cons_of_neg (by simp [hf]), Bool.xor_false]
    | true =>
      rw [List.filter_cons_of_pos hf, List.length_cons, Bool.xor_assoc]
      congr 1
      rcases Nat.mod_two_eq_zero_or_one (ks.filter f).length with h | h
      · simp [h, Nat.succ_mod_two_eq_one_iff]
      · simp [h, Nat.succ_mod_two_eq_one_iff]

theorem oddParity_eq (bits : Byte) :
    oddParity bits = decide (((List.range 8).filter fun k => bits.getLsbD k).length % 2 = 1) := by
  rw [oddParity, foldl_xor_eq, Bool.false_xor]

/-- Wrong parity by the number of mark bits (R33). -/
theorem parityWrong_eq (f : Format) (bits : Byte) :
    parityWrong f bits = decide (f = .f7E1 ∧ ((List.range 8).filter fun k => bits.getLsbD k).length % 2 = 1
      ∨ f = .f7O1 ∧ ((List.range 8).filter fun k => bits.getLsbD k).length % 2 = 0) := by
  cases f with
  | f7E1 => rw [parityWrong, oddParity_eq]; simp
  | f7O1 => rw [parityWrong, oddParity_eq]; simp [← decide_not]
  | f8N1 => simp [parityWrong]

theorem charOf_eq (f : Format) (bits : Byte) : charOf f bits = if f = .f8N1 then bits else bits &&& 0x7F := by
  cases f <;> rfl

/-! ### A character recognised -/

/-- A line that a character has reached: wrong parity tallied, a session's inactivity count restarted (R33, R40). -/
def Line.heard (wrong : Bool) (l : Line) : Line :=
  { l with
    tallies := { l.tallies with parity := if wrong then min 65535 (l.tallies.parity + 1) else l.tallies.parity }
    session := l.session.map fun ses => { ses with meter := { ses.meter with inactCount := 0 } } }

/-- What a completed character `c` does to a line that it has reached, in the order of recognition (R35). -/
def Line.recognise (i : LineId) (c : Byte) (l : Line) : Line :=
  if l.state.metered ∧ (l.session.bind fun ses => ses.copies.attention) = some c then l.attention i
  else if l.outPacing ∧ c = chDC3 then { l with unit := { l.unit with outputStopped := true } }
  else if l.outPacing ∧ c = chDC1 then { l with unit := { l.unit with outputStopped := false } }
  else if l.state = .dialog ∨ l.state.metered then l.storeChar c
  else l

theorem Line.arrival_eq_heard {l : Line} (h : l.SessionRight) : l.arrival = l.heard false := by
  unfold Line.arrival
  split
  · rfl
  next hm =>
    have hs : l.session = none := Option.not_isSome_iff_eq_none.1 (h ▸ hm)
    rw [Line.heard, hs]
    exact congrArg (fun o => { l with session := o }) hs

/-- A character received is tallied, told to the meter and recognised (R33, R35, R40). -/
theorem Line.receive_eq {l : Line} (h : l.SessionRight) (i : LineId) (bits : Byte) :
    l.receive i bits
      = (l.heard (parityWrong l.unit.format bits)).recognise i (charOf l.unit.format bits) := by
  have htold : (if parityWrong l.unit.format bits = true then
        { l with tallies := { l.tallies with parity := satAdd max16 l.tallies.parity 1 } } else l).arrival
      = l.heard (parityWrong l.unit.format bits) := by
    cases parityWrong l.unit.format bits with
    | false => exact Line.arrival_eq_heard h
    | true =>
      exact Line.arrival_eq_heard
        (l := { l with tallies := { l.tallies with parity := satAdd max16 l.tallies.parity 1 } }) h
  rw [← htold]
  rfl

section
variable {l : Line} {i : LineId} {c : Byte}

theorem Line.recognise_attention (hm : l.state.metered = true)
    (ha : (l.session.bind fun ses => ses.copies.attention) = some c) : l.recognise i c = l.attention i :=
  if_pos ⟨hm, ha⟩

/-- DC3 stops output under pacing (R37). -/
theorem Line.recognise_stop (ha : (l.session.bind fun ses => ses.copies.attention) ≠ some c) (hp : l.outPacing = true)
    (hc : c = chDC3) : l.recognise i c = { l with unit := { l.unit with outputStopped := true } } := by
  rw [Line.recognise, if_neg fun h => ha h.2, if_pos ⟨hp, hc⟩]

/-- DC1 releases output under pacing (R37). -/
theorem Line.recognise_go (ha : (l.session.bind fun ses => ses.copies.attention) ≠ some c) (hp : l.outPacing = true)
    (hc : c = chDC1) : l.recognise i c = { l with unit := { l.unit with outputStopped := false } } := by
  rw [Line.recognise, if_neg fun h => ha h.2, if_neg (by subst hc; exact fun h => absurd h.2 (by decide)),
    if_pos ⟨hp, hc⟩]

/-- Any other character is stored in DIALOG and in a session, and discarded elsewhere (R35, R36). -/
theorem Line.recognise_other (ha : (l.session.bind fun ses => ses.copies.attention) ≠ some c)
    (hp : l.outPacing = false ∨ c ≠ chDC3 ∧ c ≠ chDC1) :
    l.recognise i c = if l.state = .dialog ∨ l.state.metered then l.storeChar c else l := by
  rw [Line.recognise, if_neg fun h => ha h.2, if_neg, if_neg]
  · rintro ⟨h, rfl⟩; rcases hp with hp | hp
    · rw [hp] at h; cases h
    · exact hp.2 rfl
  · rintro ⟨h, rfl⟩; rcases hp with hp | hp
    · rw [hp] at h; cases h
    · exact hp.1 rfl

/-! ### The FIFO and input pacing -/

/-- With 16 characters waiting another is an overrun (R36). -/
theorem Line.storeChar_overrun (h : 16 ≤ l.unit.fifo.length) :
    l.storeChar c = { l with tallies := { l.tallies with overruns := min 65535 (l.tallies.overruns + 1) } } :=
  if_neg (show ¬ l.unit.fifo.length < Config.fifoSize from Nat.not_lt_of_le h)

/-- Input pacing is on for the session of a line (R38). -/
def Line.inPacing (l : Line) : Bool := l.session.any fun ses => ses.copies.inPacing

/-- The stored character at which input pacing sends DC3 (R38). -/
theorem Line.storeChar_holds (h : l.unit.fifo.length < 16) (hr : l.SessionRight)
    (hp : l.inPacing = true ∧ l.unit.inputHeld = false ∧ 8 ≤ l.unit.fifo.length + 1) :
    l.storeChar c = { l with
      unit := { l.unit with fifo := l.unit.fifo ++ [c], inputHeld := true }
      out := { l.out with control := some 0x13 } } := by
  obtain ⟨hin, hheld, h8⟩ := hp
  obtain ⟨ses, hs, hses⟩ := (Option.any_eq_true _ _).1 hin
  rw [Line.storeChar, if_pos (show l.unit.fifo.length < Config.fifoSize from h), Line.holdInput]
  dsimp only
  rw [hs]
  exact if_pos ⟨hr.metered hs, hses, hheld, by rw [List.length_append]; exact h8⟩

/-- A stored character at which input pacing sends nothing (R38). -/
theorem Line.storeChar_free (h : l.unit.fifo.length < 16)
    (hp : ¬ (l.inPacing = true ∧ l.unit.inputHeld = false ∧ 8 ≤ l.unit.fifo.length + 1)) :
    l.storeChar c = { l with unit := { l.unit with fifo := l.unit.fifo ++ [c] } } := by
  rw [Line.storeChar, if_pos (show l.unit.fifo.length < Config.fifoSize from h), Line.holdInput]
  dsimp only
  split
  next ses hs =>
    refine if_neg fun ⟨_, hses, hheld, h8⟩ => hp ⟨?_, hheld, ?_⟩
    · rw [Line.inPacing, hs]; exact hses
    · rw [List.length_append] at h8; exact h8
  next => rfl

end

/-! ### The lines that hear characters -/

/-- A line in DIALOG, a session, DRAINING or REJECTING by what its pacing and its attention character are (R35). -/
structure Line.Hears (l : Line) (pacing inPacing : Bool) (attention : Option Byte) : Prop where
  right : l.SessionRight
  outPacing : l.outPacing = pacing
  attention : (l.session.bind fun ses => ses.copies.attention) = attention
  inPacing : l.state ≠ .draining → l.inPacing = inPacing
  stores : l.state ≠ .draining → l.state ≠ .rejecting → l.state = .dialog ∨ l.state.metered = true

section
variable {l : Line} {pacing inPacing : Bool} {attention : Option Byte}

theorem Line.Hears.unmetered (hs : l.session = none) (hst : l.state = .dialog ∨ l.state = .rejecting) :
    l.Hears l.config.outPacing false none := by
  refine ⟨?_, ?_, by rw [hs]; rfl, fun _ => by rw [Line.inPacing, hs]; rfl, fun _ hr => .inl (hst.resolve_right hr)⟩
  · rcases hst with h | h <;> rw [Line.SessionRight, hs, h] <;> rfl
  · rcases hst with h | h <;> rw [Line.outPacing, h]

theorem Line.Hears.draining (hs : l.session = none) (hst : l.state = .draining)
    (hp : l.endedPacing = some (pacing, inPacing)) : l.Hears pacing inPacing none := by
  refine ⟨?_, ?_, by rw [hs]; rfl, fun h => absurd hst h, fun h => absurd hst h⟩
  · rw [Line.SessionRight, hs, hst]; rfl
  · rw [Line.outPacing, hst, hp]

theorem Line.Hears.metered {ses : Session} (hs : l.session = some ses) (hm : l.state.metered = true) :
    l.Hears ses.copies.outPacing ses.copies.inPacing ses.copies.attention := by
  refine ⟨?_, ?_, by rw [hs]; rfl, fun _ => by rw [Line.inPacing, hs]; rfl, fun _ _ => .inr hm⟩
  · rw [Line.SessionRight, hs, hm]; rfl
  · have hst : l.state = .active ∨ l.state = .grace := by
      revert hm; cases l.state <;> simp [LineState.metered]
    rcases hst with h | h <;> rw [Line.outPacing, h, hs]

theorem Line.heard_outPacing (l : Line) (wrong : Bool) : (l.heard wrong).outPacing = l.outPacing := by
  unfold Line.outPacing Line.heard
  cases l.session with
  | none => rfl
  | some ses => cases l.endedPacing <;> cases l.state <;> rfl

/-- What a line hears by is as before once a character has reached it. -/
theorem Line.Hears.heard (h : l.Hears pacing inPacing attention) (wrong : Bool) :
    (l.heard wrong).Hears pacing inPacing attention := by
  obtain ⟨hr, ho, ha, hi, hst⟩ := h
  refine ⟨hr.congr rfl (by simp [Line.heard]), (l.heard_outPacing wrong).trans ho, ?_, fun hd => ?_, hst⟩
  · rw [← ha, Line.heard]; cases l.session <;> rfl
  · rw [← hi hd, Line.inPacing, Line.inPacing, Line.heard]; cases l.session <;> rfl

end

/-! ### The character unit's commands -/

section
variable {s : State} {i : LineId}

theorem exec_characterReceived (h : s.mode = .running) (hr : (s.line i).unit.receiving = true) (bits : Byte) :
    exec (.characterReceived i bits) s = .next (s.setLine i ((s.line i).receive i bits)) := by
  rw [exec, execCharacterReceived, State.whenRunning_running h]
  exact next_setLine (if_pos hr)

theorem exec_framingError (h : s.mode = .running) (hr : (s.line i).unit.receiving = true) :
    exec (.framingError i) s = .next (s.setLine i { s.line i with tallies := { (s.line i).tallies with
      framing := min 65535 ((s.line i).tallies.framing + 1) } }) := by
  rw [exec, execFramingError, State.whenRunning_running h]
  exact next_setLine (if_pos hr)

/-- A line that does not receive hears nothing (log 3). -/
theorem exec_characterReceived_deaf (h : s.mode = .running) (hr : (s.line i).unit.receiving = false) (bits : Byte) :
    exec (.characterReceived i bits) s = .next s := by
  rw [exec, execCharacterReceived, State.whenRunning_running h, State.updLine, if_neg (by simp [hr]),
    State.setLine_self]

theorem exec_framingError_deaf (h : s.mode = .running) (hr : (s.line i).unit.receiving = false) :
    exec (.framingError i) s = .next s := by
  rw [exec, execFramingError, State.whenRunning_running h, State.updLine, if_neg (by simp [hr]), State.setLine_self]

end

/-- Settles O47: the character is recognised on the line that it has reached, case by case (R33 to R38, R40). -/
theorem characterReceivedIsPacedOrStored : Obligations.CharacterReceivedIsPacedOrStored := by
  intro s i l base bits ch pacing inPacing wrong attention h hl hch hst hw hb
  subst hl
  have hears : (s.line i).Hears pacing inPacing attention := by
    rcases hst with ⟨hs, hst, rfl, rfl, rfl⟩ | ⟨hs, hst, hp, rfl⟩ | ⟨ses, hs, hm, rfl, rfl, rfl⟩
    · exact .unmetered hs hst
    · exact .draining hs hst hp
    · exact .metered hs hm
  obtain rfl : base = (s.line i).heard wrong := hb
  refine ⟨fun hr => ⟨exec_characterReceived_deaf h hr bits, exec_framingError_deaf h hr⟩,
    fun hr => ⟨exec_framingError h hr, fun hatt => ?_⟩⟩
  have hx : exec (.characterReceived i bits) s
      = .next (s.setLine i (((s.line i).heard wrong).recognise i ch)) := by
    rw [exec_characterReceived h hr, Line.receive_eq hears.right, parityWrong_eq, ← hw, charOf_eq, ← hch]
  obtain ⟨hright, hout, ha, hin, hstores⟩ := hears.heard wrong
  have hatt' : (((s.line i).heard wrong).session.bind fun ses => ses.copies.attention) ≠ some ch := ha ▸ hatt
  refine ⟨fun hp hc => ?_, fun hp hc => ?_, fun hp hd => ?_, fun hp hd hrj => ?_⟩
  · rw [hx, Line.recognise_stop hatt' (hout.trans hp) hc]; rfl
  · rw [hx, Line.recognise_go hatt' (hout.trans hp) hc]; rfl
  · have hnot : ¬ ((s.line i).state = .dialog ∨ (s.line i).state.metered = true) := by
      rcases hd with hd | hd <;> rw [hd] <;> decide
    rw [hx, Line.recognise_other hatt' (hp.imp_left hout.trans)]
    exact next_setLine (if_neg hnot)
  · have hstored : exec (.characterReceived i bits) s
        = .next (s.setLine i (((s.line i).heard wrong).storeChar ch)) := by
      rw [hx, Line.recognise_other hatt' (hp.imp_left hout.trans)]
      exact next_setLine (if_pos (hstores hd hrj))
    refine ⟨fun hf => ?_, fun hf => ⟨fun hc => ?_, fun hc => ?_⟩⟩
    · rw [hstored, Line.storeChar_overrun (l := (s.line i).heard wrong) hf]; rfl
    · rw [hstored, Line.storeChar_holds (l := (s.line i).heard wrong) hf hright (by rw [hin hd]; exact hc)]; rfl
    · rw [hstored, Line.storeChar_free (l := (s.line i).heard wrong) hf (by rw [hin hd]; exact hc)]; rfl

/-! ### Attention and BREAK -/

/-- Attention on a session: input and queued output discarded and counted, ATTENTION set or accumulated, held input
released, OUTPUT READY reported where the queue is armed (R38, R49, R51, R54). -/
theorem Line.attention_eq {l : Line} {ses : Session} (hs : l.session = some ses) (i : LineId) :
    l.attention i = { l with
      unit := { l.unit with fifo := [], inputHeld := false }
      session := some { ses with filling := [], closed := none, held := none, fwdTimer := none }
      tallies := { l.tallies with inputLost := min 65535 (l.tallies.inputLost + l.inputHeldBytes ses) }
      out := { l.out with
        queue := [], armed := false, control := if l.unit.inputHeld = true then some 0x11 else l.out.control }
      reports := { l.reports with
        attention := some (match l.reports.attention with
          | some f => ⟨tagOf i l.generation, min 255 (f.count + 1), min 65535 (f.inputLost + l.inputHeldBytes ses),
              min 65535 (f.outputLost + l.out.queue.length)⟩
          | none => ⟨tagOf i l.generation, 1, min 65535 (l.inputHeldBytes ses), min 65535 l.out.queue.length⟩)
        outReady := if l.out.armed = true then some ⟨tagOf i l.generation, 0⟩ else l.reports.outReady } } := by
  have hadd : ∀ old tag a b, addAttention old tag a b = match old with
      | some f => ⟨tag, min 255 (f.count + 1), min 65535 (f.inputLost + a), min 65535 (f.outputLost + b)⟩
      | none => ⟨tag, 1, min 65535 a, min 65535 b⟩ := by
    intro old tag a b
    cases old with
    | none => rw [addAttention, satAdd, satAdd, Nat.zero_add, Nat.zero_add]; rfl
    | some f => rfl
  unfold Line.attention
  rw [hs]
  dsimp only
  rw [Line.inputBytes_eq, Line.releaseInput_eq, Line.checkReady]
  cases ha : l.out.armed with
  | false => simpa [hadd] using ⟨rfl, rfl⟩
  | true => simpa [hadd] using ⟨rfl, rfl⟩

section
variable {s : State} {i : LineId}

/-- BREAK on a session is attention (R40, R49). -/
theorem exec_break_metered (h : s.mode = .running) (hr : (s.line i).unit.receiving = true)
    (hm : (s.line i).state.metered = true) :
    exec (.breakReceived i) s = .next (s.setLine i ((s.line i).arrival.attention i)) := by
  have hd : (s.line i).state ≠ .dialog := fun e => by rw [e] at hm; cases hm
  rw [exec, execBreak, State.whenRunning_running h, State.updLine, if_pos hr, if_neg hd, if_pos hm]

/-- BREAK in DIALOG on a FIXED line does nothing (R39). -/
theorem exec_break_fixed (h : s.mode = .running) (hr : (s.line i).unit.receiving = true)
    (hd : (s.line i).state = .dialog) (hc : (s.line i).config.mode = .fixed) : exec (.breakReceived i) s = .next s := by
  rw [exec, execBreak, State.whenRunning_running h, State.updLine, if_pos hr, if_pos hd, if_neg (by simp [hc]),
    State.setLine_self]

/-- BREAK in DIALOG on an AUTO line takes it back to DETECTING (R39). -/
theorem exec_break_auto (h : s.mode = .running) (hr : (s.line i).unit.receiving = true)
    (hd : (s.line i).state = .dialog) (hc : (s.line i).config.mode = .auto) :
    exec (.breakReceived i) s = .next (s.setLine i (s.line i).redetect) := by
  rw [exec, execBreak, State.whenRunning_running h, State.updLine, if_pos hr, if_pos hd, if_pos hc]

end

/-- The line taken back to DETECTING, its dialog timer held (R39, R62). -/
theorem Line.redetect_eq {l : Line} {n : Nat} (h : l.dialog.timer = .running n) :
    l.redetect = { l with
      state := .detecting, carrierWait := none
      detector := ⟨.arming, [], 0, .mark, 0, 0, .none, some (l.config.detTime * 100)⟩
      unit := { l.unit with receiving := false, speed := none, fifo := [], spaceTimer := none, inputHeld := false
                            outputStopped := false }
      out := ⟨[], false, [], [], none, none, l.out.tx⟩
      dialog := { l.dialog with timer := .held n, promptDue := none, nameEcho := [] } } := by
  rw [Line.redetect, h]; rfl

/-- Settles O48: BREAK and the attention character both come to `Line.attention`, and BREAK in DIALOG by the line's
mode (R39, R40, R49). -/
theorem attentionDiscardsInputAndOutput : Obligations.AttentionDiscardsInputAndOutput := by
  intro s i l h hl hr
  subst hl
  refine ⟨fun hm ses c tag lost wrong hs hc htag hlost => ?_, fun hd hc => exec_break_fixed h hr hd hc,
    fun hd hc n hn => ?_⟩
  · have hright : (s.line i).SessionRight := (Line.Hears.metered hs hm).right
    have hx : exec c s = .next (s.setLine i (((s.line i).heard wrong).attention i)) := by
      rcases hc with ⟨rfl, rfl⟩ | ⟨bits, ch, rfl, ha, rfl, rfl⟩
      · rw [exec_break_metered h hr hm, Line.arrival_eq_heard hright]
      · rw [exec_characterReceived h hr, Line.receive_eq hright,
          Line.recognise_attention (l := (s.line i).heard _) hm]
        rw [((Line.Hears.metered hs hm).heard _).attention, ha]
    have hs' : ((s.line i).heard wrong).session = some { ses with meter := { ses.meter with inactCount := 0 } } := by
      rw [Line.heard, hs]; rfl
    subst htag hlost
    rw [hx, Line.attention_eq hs']
    rfl
  · rw [exec_break_auto h hr hd hc, Line.redetect_eq hn]

end Sys2Proof.Machine
end


section
/-! The input store and the forwarding timer (O49). -/

namespace Sys2Proof.Machine

/-! ### The parts of the input store -/

/-- The head of the FIFO taken: with the last character held input is released, by DC1 in the control slot (R38). -/
theorem Line.takeInput_eq (l : Line) (rest : List Byte) :
    (if rest.isEmpty then { l with unit := { l.unit with fifo := rest } }.releaseInput
      else { l with unit := { l.unit with fifo := rest } })
      = { l with
        unit := { l.unit with fifo := rest, inputHeld := l.unit.inputHeld && !rest.isEmpty }
        out := { l.out with
          control := if l.unit.inputHeld = true ∧ rest = [] then some 0x11 else l.out.control } } := by
  cases rest with
  | nil =>
    rw [if_pos List.isEmpty_nil, Line.releaseInput_eq]
    simp [chDC1]
  | cons c rest => simp

/-- An echo is placed whole or tallied whole as lost (R52). -/
theorem Line.echo_eq (l : Line) (chars : List Byte) :
    l.echo chars = { l with
      out := { l.out with
        queue := if l.out.queue.length + chars.length ≤ 512 then l.out.queue ++ chars else l.out.queue }
      tallies := { l.tallies with
        echoLost := if l.out.queue.length + chars.length ≤ 512 then l.tallies.echoLost
          else min 65535 (l.tallies.echoLost + chars.length) } } := by
  by_cases hfits : l.out.queue.length + chars.length ≤ 512
  · rw [Line.echo, if_pos (show l.out.queue.length + chars.length ≤ Config.queueSize from hfits)]
    simp only [if_pos hfits]
  · rw [Line.echo, if_neg (show ¬ l.out.queue.length + chars.length ≤ Config.queueSize from hfits)]
    simp only [if_neg hfits]
    rfl

/-- What a session echoes for a stored character (R52). -/
def Copies.echoed (k : Copies) (c : Byte) : List Byte :=
  if k.echo = false then [] else if c = 0x0D then [0x0D, 0x0A] else [c]

/-- With echo off the echo is empty: it fits and changes nothing. -/
theorem Line.echo_nil {l : Line} (h : l.out.queue.length ≤ 512) : l.echo [] = l := by
  rw [Line.echo, if_pos (show l.out.queue.length + ([] : List Byte).length ≤ Config.queueSize from h),
    List.append_nil]

theorem Line.echoFor_eq {l : Line} (h : l.out.queue.length ≤ 512) (k : Copies) (c : Byte) :
    (if k.echo then l.echo (echoOf c) else l) = l.echo (k.echoed c) := by
  cases hk : k.echo with
  | false => rw [Copies.echoed, if_pos hk, Line.echo_nil h]; rfl
  | true =>
    have hon : k.echoed c = echoOf c := if_neg (by simp [hk])
    rw [hon]; rfl

/-- A character stored in the filling buffer, the forwarding timer restarted (R42, R45). -/
def Session.stored (ses : Session) (c : Byte) : Session :=
  { ses with
    filling := ses.filling ++ [c]
    fwdTimer := if ses.copies.fwdTimer = 0 then none else some (ses.copies.fwdTimer * 10) }

/-- FWD_CHAR before FULL (R43). -/
theorem Session.testForward_stored (ses : Session) (c : Byte) :
    (ses.stored c).testForward c = if c ∈ ses.copies.fwdChars then (ses.stored c).complete .fwdChar
      else if 256 ≤ ses.filling.length + 1 then (ses.stored c).complete .full else ses.stored c := by
  have hlen : (ses.stored c).filling.length = ses.filling.length + 1 := List.length_append
  rw [← hlen]
  rfl

/-- The input store as a whole (R38, R42, R43, R45, R52). -/
theorem Line.storeInput_eq {l : Line} (h : l.out.queue.length ≤ 512) (c : Byte) (rest : List Byte) (ses : Session) :
    l.storeInput c rest ses = { l with
      unit := { l.unit with fifo := rest, inputHeld := l.unit.inputHeld && !rest.isEmpty }
      out := { l.out with
        queue := if l.out.queue.length + (ses.copies.echoed c).length ≤ 512 then l.out.queue ++ ses.copies.echoed c
          else l.out.queue
        control := if l.unit.inputHeld = true ∧ rest = [] then some 0x11 else l.out.control }
      tallies := { l.tallies with
        echoLost := if l.out.queue.length + (ses.copies.echoed c).length ≤ 512 then l.tallies.echoLost
          else min 65535 (l.tallies.echoLost + (ses.copies.echoed c).length) }
      session := some ((ses.stored c).testForward c) } := by
  unfold Line.storeInput
  dsimp only
  rw [Line.takeInput_eq, Line.echoFor_eq (by exact h), Line.echo_eq]
  rfl

/-! ### The commands -/

section
variable {s : State} {i : LineId} {ses : Session}

theorem exec_inputStore {c : Byte} {rest : List Byte} (h : s.mode = .running) (hs : (s.line i).session = some ses)
    (hm : (s.line i).state.metered = true) (hc : ses.closed = none) (hf : (s.line i).unit.fifo = c :: rest) :
    exec (.inputStore i) s = .next (s.setLine i ((s.line i).storeInput c rest ses)) := by
  rw [exec, execInputStore, State.whenRunning_running h]
  refine next_setLine ?_
  dsimp only
  rw [hs, hf]
  exact if_pos ⟨hm, hc⟩

/-- The expired forwarding timer completes the buffer with TIMER (R45), with its scan (log 8). -/
theorem exec_forwardingTimerExpiry (h : s.mode = .running) (hs : (s.line i).session = some ses)
    (hc : ses.closed = none) (ht : ses.fwdTimer ≠ none) (hf : ses.filling ≠ []) :
    exec (.forwardingTimerExpiry i) s
      = .next (s.scan.setLine i { (s.line i).drive with session := some (ses.complete .timer) }) := by
  rw [exec, execForwardingTimerExpiry, State.lineExpiry_due h]
  · rw [show (s.line i).drive.session = some ses from hs, Option.map_some]
  · rw [hs]
    exact decide_eq_true ⟨Option.isSome_iff_ne_none.2 ht, hc, hf⟩

/-- A stopped forwarding timer and an empty filling buffer have no expiry (log 3). -/
theorem exec_forwardingTimerExpiry_idle (h : s.mode = .running) (hs : (s.line i).session = some ses)
    (hidle : ses.fwdTimer = none ∨ ses.filling = []) : exec (.forwardingTimerExpiry i) s = .next s := by
  rw [exec, execForwardingTimerExpiry, State.lineExpiry_idle h]
  rw [hs]
  refine decide_eq_false fun ⟨ht, _, hf⟩ => ?_
  rcases hidle with e | e
  · rw [e] at ht; cases ht
  · exact hf e

end

/-- Settles O49: the store by its parts (the character taken, the echo, the forwarding test), and the timer as due or
not. -/
theorem inputStoreFillsTheBuffer : Obligations.InputStoreFillsTheBuffer := by
  intro s i l ses complete h hl hs hm hc hcomplete
  obtain rfl : complete = Session.complete := hcomplete
  subst hl
  refine ⟨fun ch rest echo fits stored hf hecho hfits hstored hq => ?_, fun ht hfill => ?_,
    exec_forwardingTimerExpiry_idle h hs⟩
  · obtain rfl : echo = ses.copies.echoed ch := hecho
    obtain rfl : stored = ses.stored ch := hstored
    subst hfits
    rw [exec_inputStore h hs hm hc hf, Line.storeInput_eq hq, Session.testForward_stored]
    simp only [decide_eq_true_eq]
  · rw [exec_forwardingTimerExpiry h hs hc ht hfill, State.scanned_eq_scan, Line.driven_eq_drive]

end Sys2Proof.Machine
end


section
/-! OUTPUT and BROADCAST (O27, O22). -/

namespace Sys2Proof.Machine

/-! ### OUTPUT -/

/-- A string is read as it was written (R171). -/
theorem takeBytes_append (data rest : List Byte) : takeBytes data.length (data ++ rest) = some (data, rest) := by
  rw [takeBytes, if_pos (by rw [List.length_append]; exact Nat.le_add_right ..), List.take_left, List.drop_left]

/-- The fields of OUTPUT read in the order of their layout (section 11.2). -/
theorem readOutput_eq {tag : Nat} {data : List Byte} (ht : tag < 65536) (hd : data.length < 65536)
    (rest : List Byte) :
    readOutput (be16 tag ++ be16 data.length ++ data ++ rest) = some (tag, data.length, data) := by
  simp only [readOutput, List.append_assoc, u16_be16 ht, u16_be16 hd, takeBytes_append, Option.bind_eq_bind,
    Option.bind_some]

/-- The leading bytes that fit are all of them or too few to hold the data (R54). -/
theorem Line.room_lt_iff (l : Line) (data : List Byte) :
    l.room < data.length ↔ (data.take (512 - l.out.queue.length)).length < data.length := by
  show 512 - l.out.queue.length < data.length ↔ _
  rw [List.length_take]
  omega

/-- An OUTPUT joins the tail of the queue, which a PARTIAL or a full queue arms (R54). -/
theorem Line.appendOutput_eq (data : List Byte) (l : Line) :
    l.appendOutput data = { l with out := { l.out with
      queue := l.out.queue ++ data.take (512 - l.out.queue.length)
      armed := l.out.armed || decide ((data.take (512 - l.out.queue.length)).length < data.length)
        || decide (512 ≤ (l.out.queue ++ data.take (512 - l.out.queue.length)).length) } } := by
  rw [Line.appendOutput, decide_eq_decide.2 (l.room_lt_iff data)]
  rfl

section
variable {s : State} {label : Byte} {fields data : List Byte} {tag : Nat}

theorem exec_output (h : s.Asked 0x20 label fields) :
    exec .output s = .next ((outputReq fields s.dropFrame).1.pushReply
      ⟨0x20 + 0x80, label, (outputReq fields s.dropFrame).2.1, (outputReq fields s.dropFrame).2.2⟩) :=
  State.request_asked h outputReq

theorem outputReq_badField (hr : readOutput fields = some (tag, data.length, data)) (hn : 256 < data.length) :
    outputReq fields s = (s, answerBad 2) := by
  simp only [outputReq, withFields, hr, if_pos hn]

theorem outputReq_stale (hr : readOutput fields = some (tag, data.length, data)) (hn : data.length ≤ 256)
    (hl : s.currentLine tag = none) : outputReq fields s = (s, answerOf .stale) := by
  simp only [outputReq, withFields, hr, if_neg (Nat.not_lt_of_le hn), onSession, hl]

theorem outputReq_taken (hr : readOutput fields = some (tag, data.length, data)) (hn : data.length ≤ 256)
    {i : LineId} (hl : s.currentLine tag = some i) :
    outputReq fields s = (s.setLine i ((s.line i).appendOutput data),
      (if (data.take (s.line i).room).length = data.length then .done else .partly,
        be16 (data.take (s.line i).room).length)) := by
  simp only [outputReq, withFields, hr, if_neg (Nat.not_lt_of_le hn), onSession, hl]
  rfl

end

/-- Settles O27: the count, then the tag are checked, and the bytes that fit are appended (R54). -/
theorem outputAppendsWhatFits : Obligations.OutputAppendsWhatFits := by
  intro s label tag data rest htag hdata hq
  have hr := readOutput_eq htag hdata rest
  refine ⟨fun hn => ?_, fun hn hst => ?_, fun hn i hi hs hg l taken hl htk => ?_⟩
  · rw [exec_output hq, outputReq_badField hr hn]; rfl
  · rw [exec_output hq, outputReq_stale hr hn (State.currentLine_eq_none (s := s.dropFrame) hst)]; rfl
  · obtain ⟨ses, hses⟩ := Option.ne_none_iff_exists'.1 hs
    subst hl htk
    rw [exec_output hq, outputReq_taken hr hn (State.currentLine_eq_some (s := s.dropFrame) hi hses hg),
      Line.appendOutput_eq]
    rfl

/-! ### BROADCAST -/

/-- A line that a broadcast of text `k` reaches (R60, R63, R77). -/
def State.announced (s : State) (k : Fin 16) (l : Line) : Line :=
  if l.state = .dialog then (l.place (s.textFor k none none)).placeDue s.texts
  else l.place (s.textFor k ((l.account?.bind s.account?).map Account.budget) l.units?)

theorem State.broadcastTo_eq (s : State) (k : Fin 16) (i : LineId) :
    s.broadcastTo k i = s.updLine i (s.announced k) := by
  rw [State.updLine, State.announced, State.broadcastTo]
  split <;> rfl

/-- The text and the accounts are the same for every line that a broadcast reaches. -/
theorem State.foldl_broadcastTo (s : State) (k : Fin 16) (is : List LineId) :
    is.foldl (State.broadcastTo k) s = s.updLines is fun _ => s.announced k := by
  induction is generalizing s with
  | nil => rfl
  | cons i is ih =>
    have hsame : (s.updLine i (s.announced k)).announced k = s.announced k := rfl
    rw [List.foldl_cons, State.broadcastTo_eq, ih, hsame, State.updLines_cons]

@[simp] theorem State.mem_broadcastLines (s : State) (i : LineId) :
    i ∈ s.broadcastLines ↔ (s.line i).state = .dialog ∨ (s.line i).state.metered = true := by
  simp [State.broadcastLines, mem_allLines]

theorem State.nodup_broadcastLines (s : State) : s.broadcastLines.Nodup := nodup_allLines.filter _

/-- The lines after a broadcast (R77). -/
theorem State.line_broadcast (s : State) (k : Fin 16) (i : LineId) :
    (s.broadcastLines.foldl (State.broadcastTo k) s).line i
      = if (s.line i).state = .dialog ∨ (s.line i).state.metered = true then s.announced k (s.line i)
        else s.line i := by
  rw [State.foldl_broadcastTo, State.line_updLines s s.nodup_broadcastLines]
  exact if_congr (s.mem_broadcastLines i) rfl rfl

section
variable {s : State} {k : Fin 16} {l : Line}

/-- A session's own account and units are the markers of its broadcast (R60). -/
theorem State.announced_metered (hm : l.state.metered = true) (hsp : l.unit.speed ≠ none) {ses : Session}
    (hs : l.session = some ses) :
    s.announced k l = { l with out := { l.out with
      noticeWait := s.textFor k ((s.account? ses.meter.account).map Account.budget) (some ses.meter.units)
      waitPrompt := none } } := by
  have hd : l.state ≠ .dialog := fun e => by rw [e] at hm; cases hm
  have ha : l.account? = some ses.meter.account := congrArg (Option.map _) hs
  have hu : l.units? = some ses.meter.units := congrArg (Option.map _) hs
  rw [State.announced, if_neg hd, ha, hu, Line.place_of_speed hsp]
  rfl

/-- In DIALOG the text has no markers, and a text of characters keeps the due prompt waiting (R60, R63). -/
theorem State.announced_dialog (hd : l.state = .dialog) (hsp : l.unit.speed ≠ none)
    (ht : s.textFor k none none ≠ []) :
    s.announced k l = { l with out := { l.out with noticeWait := s.textFor k none none, waitPrompt := none } } := by
  rw [State.announced, if_pos hd, Line.place_of_speed hsp]
  exact Line.placeDue_of_notice ht _

end

section
variable {s : State} {label index : Byte} {rest : List Byte}

theorem exec_broadcast_badField (h : s.Asked 0x14 label (index :: rest)) (h14 : index ≠ 14) (h15 : index ≠ 15) :
    exec .broadcast s = .next (s.answered 0x14 label .badField [1, 0]) := by
  refine (State.request_asked h broadcastReq).trans ?_
  simp only [broadcastReq, withFields, u8, if_neg h14, if_neg h15]
  rfl

/-- A broadcast of text 14 or 15 is placed on the lines that it reaches, and their number is answered (R77). -/
theorem exec_broadcast (h : s.Asked 0x14 label (index :: rest)) {k : Fin 16} (hk : k.val = index.toNat)
    (hks : k = 14 ∨ k = 15) :
    exec .broadcast s = .next ((s.dropFrame.broadcastLines.foldl (State.broadcastTo k) s.dropFrame).pushReply
      ⟨0x14 + 0x80, label, .done, [byteOf s.broadcastLines.length]⟩) := by
  refine (State.request_asked h broadcastReq).trans ?_
  rcases hks with rfl | rfl
  · obtain rfl : index = 14 := BitVec.eq_of_toNat_eq hk.symm
    rfl
  · obtain rfl : index = 15 := BitVec.eq_of_toNat_eq hk.symm
    rfl

end

/-- Settles O22: the lines reached are each announced to once, by their state (R60, R77). -/
theorem broadcastReachesDialogAndSessions : Obligations.BroadcastReachesDialogAndSessions := by
  intro s label index rest hq
  refine ⟨exec_broadcast_badField hq, fun k hk hks => ⟨_, exec_broadcast hq hk hks, ?_, fun i => ?_⟩⟩
  · rw [State.foldl_broadcastTo, State.updLines_eq]
    rfl
  · rw [State.line_pushReply, State.line_broadcast]
    refine ⟨fun hd hm => if_neg ?_, fun hm hsp ses hs => ?_, fun hd hsp ht => ?_⟩
    · rintro (h | h)
      · exact hd h
      · exact Bool.false_ne_true (hm.symm.trans h)
    · exact (if_pos (.inr hm)).trans (State.announced_metered hm hsp hs)
    · exact (if_pos (.inl hd)).trans (State.announced_dialog hd hsp ht)

end Sys2Proof.Machine
end


section
/-! The arbiter's scan of the lines, its BUDGET NOTICE and its LINE DATA (O35). -/

namespace Sys2Proof.Machine

/-! ### The scan from a pointer -/

/-- The lines from the one after `p` up to line `i`, which stands `d` lines further, then `i`, then the rest (R162). -/
theorem scanFrom_split {p i : LineId} {d : Nat} (hd : d < 48) (hi : i.val = (p.val + 1 + d) % 48) :
    ∃ after, scanFrom p = ((List.range d).map fun k => Fin.ofNat 48 (p.val + 1 + k)) ++ i :: after := by
  obtain ⟨m, hm⟩ : ∃ m, 48 = d + (m + 1) := ⟨47 - d, by omega⟩
  have hline : Fin.ofNat 48 (p.val + 1 + d) = i := Fin.ext hi.symm
  have hrange : List.range 48 = List.range d ++ d :: ((List.range m).map Nat.succ).map (d + ·) := by
    rw [hm, List.range_add, List.range_succ_eq_map]
    rfl
  exact ⟨_, by rw [scanFrom, hrange, List.map_append, List.map_cons, hline]⟩

/-- A scan finds the first line that gives something (R162). -/
theorem findSome?_scanFrom {α : Type} {f : LineId → Option α} {p i : LineId} {d : Nat} {x : α} (hd : d < 48)
    (hi : i.val = (p.val + 1 + d) % 48)
    (hbefore : ∀ k < d, ∀ j : LineId, j.val = (p.val + 1 + k) % 48 → f j = none) (hx : f i = some x) :
    (scanFrom p).findSome? f = some x := by
  obtain ⟨after, hscan⟩ := scanFrom_split hd hi
  refine List.findSome?_eq_some_iff.2 ⟨_, i, after, hscan, hx, fun j hj => ?_⟩
  obtain ⟨k, hk, rfl⟩ := List.mem_map.1 hj
  exact hbefore k (List.mem_range.1 hk) _ rfl

/-! ### What may be sent ahead -/

section
variable {s : State}

/-- With nothing ahead of the line reports the arbiter turns to them at once (R162). -/
theorem State.choose_of_nothingAhead (h : s.NothingAhead) :
    s.choose = (s.chooseLine <|> s.chooseBudget <|> s.chooseData) := by
  obtain ⟨hready, hreplies, hwarning, hlost, hrestored, hcharges⟩ := h
  have h0 : s.chooseReady = none := by rw [State.chooseReady, hready]; rfl
  have h1 : s.chooseReply = none := by rw [State.chooseReply, hreplies]
  have h2 : s.chooseService = none := by
    rw [State.chooseService, hwarning, hlost, hrestored]
    rcases hcharges with hm | hc
    · rw [if_pos hm]; rfl
    · rw [hc]; simp
  rw [State.choose, h0, h1, h2]
  rfl

theorem State.endHeld_iff (s : State) (i : LineId) : s.endHeld i = true ↔ s.EndHeldBack i := by
  simp only [State.endHeld, State.EndHeldBack, List.any_eq_true, mem_allLines, true_and, Option.any_eq_true,
    List.contains_iff_mem]

/-- A silent line gives no report (R162, R163). -/
theorem LineReports.next_silent {m : Mask} {P : Prop} {r : LineReports} (h : r.Silent m P) {held : Bool}
    (hp : P → held = true) (i : LineId) : r.next m held i = none := by
  obtain ⟨hended, hevent, hsignon, hattention, hready⟩ := h
  have hev : (if m.lineEvent then none
      else r.event.map fun f => (lineEventBody i f, { r with event := none }, false)) = none := by
    rcases hevent with h | h <;> simp [h]
  have hor : (if m.outputReady then none
      else r.outReady.map fun f => (f.body, { r with outReady := none }, false)) = none := by
    rcases hready with h | h <;> simp [h]
  have hen : r.ended = none ∨ held = true := hended.imp_right hp
  unfold LineReports.next
  dsimp only
  rw [hev, hor, hattention, hsignon]
  rcases hen with h | h
  · rw [h]; rfl
  · rw [h]; cases r.ended <;> rfl

/-- With every line silent no line report is chosen (R162). -/
theorem State.chooseLine_silent (h : ∀ i, s.Silent i) : s.chooseLine = none := by
  refine List.findSome?_eq_none_iff.2 fun i _ => ?_
  rw [LineReports.next_silent (h i) (s.endHeld_iff i).2]
  rfl

/-! ### The last two choices -/

/-- The BUDGET NOTICE of the first account in the BUDGET order (R162, R173). -/
theorem State.chooseBudget_first {n : Name} {rest : List Name} {a : Account} {f : BudgetFlag}
    (hm : s.link.mask.budget = false) (ho : s.link.budgetOrder = n :: rest) (ha : s.account? n = some a)
    (hf : a.notice = some f) :
    s.chooseBudget = some (.plain (budgetNoticeBody n f)
      { s.putAccount { a with notice := none } with
        link := { s.link with budgetOrder := rest.filter (· ≠ n) } }) := by
  have hrest : (n :: rest).filter (· ≠ n) = rest.filter (· ≠ n) := List.filter_cons_of_neg (by simp)
  rw [State.chooseBudget, if_neg (by simp [hm]), ho, List.findSome?_cons, ha, Option.bind_some, hf, Option.map_some,
    hrest]
  rfl

theorem State.chooseBudget_eq_none (h : s.link.mask.budget = true ∨ s.link.budgetOrder = []) :
    s.chooseBudget = none := by
  rw [State.chooseBudget]
  rcases h with h | h
  · rw [if_pos h]
  · rw [h]; exact ite_self _

/-- The first held buffer after the LINE DATA pointer (R46, R162). -/
theorem State.chooseData_first {i : LineId} {d : Nat} {ses : Session} {b : Buffer} (hd : d < 48)
    (hi : i.val = (s.link.dataPtr.val + 1 + d) % 48)
    (hbefore : ∀ k < d, ∀ j : LineId, j.val = (s.link.dataPtr.val + 1 + k) % 48 →
      ∀ other, (s.line j).session = some other → other.held = none)
    (hs : (s.line i).session = some ses) (hb : ses.held = some b) :
    s.chooseData = some (.plain (lineDataBody (tagOf i (s.line i).generation) b)
      { s.setLine i { s.line i with session := some ses.freeHeld } with
        link := { s.link with dataPtr := i } }) := by
  refine findSome?_scanFrom hd hi (fun k hk j hj => ?_) ?_
  · cases hses : (s.line j).session with
    | none => rfl
    | some other => rw [Option.bind_some, hbefore k hk j hj other hses]; rfl
  · rw [hs, Option.bind_some, hb]; rfl

/-- A message that is no END is begun, and that is all (R158, R162). -/
theorem exec_arbiterChoice_plain (h : s.mode = .running) {body : List Byte} {t : State}
    (hc : s.choose = some (.plain body t)) : exec .arbiterChoice s = .next (t.send body) := by
  rw [exec, execArbiterChoice, State.whenRunning_running h, hc]
  rfl

end

/-- Settles O35: with the line reports silent the choice is the first in the BUDGET order, then the first line that
holds a buffer (R46, R162). -/
theorem arbiterSendsBudgetNoticesAndLineData : Obligations.ArbiterSendsBudgetNoticesAndLineData := by
  intro s h hahead hsilent
  have hchoose : s.choose = (s.chooseBudget <|> s.chooseData) := by
    rw [State.choose_of_nothingAhead hahead, State.chooseLine_silent hsilent]; rfl
  refine ⟨fun n rest a f hm ho ha hf => ?_, fun hno i d ses b hd hi hbefore hs hb => ?_⟩
  · rw [State.chooseBudget_first hm ho ha hf] at hchoose
    have hn : a.name = n := State.account?_name ha
    refine ⟨_, exec_arbiterChoice_plain h hchoose, ?_, fun m hne => ?_, rfl⟩
    · exact (State.account?_putAccount ..).trans (if_pos hn.symm)
    · exact (State.account?_putAccount ..).trans (if_neg (hn ▸ hne))
  · rw [State.chooseBudget_eq_none hno, State.chooseData_first hd hi hbefore hs hb] at hchoose
    rw [exec_arbiterChoice_plain h hchoose, lineDataBody, tagOf_toNat]
    rfl

end Sys2Proof.Machine
end


section
/-! The transmitter's sources (O50) and the due prompt (O51). -/

namespace Sys2Proof.Machine

/-! ### The bits sent -/

/-- The parity bit set to mark turns the parity over (R55). -/
theorem oddParity_setParity {b : Byte} (h : b.getLsbD 7 = false) : oddParity (b ||| 0x80#8) = !oddParity b := by
  have hfold (b : Byte) : oddParity b
      = (((List.range 7).foldl (fun p k => p ^^ b.getLsbD k) false) ^^ b.getLsbD 7) := by
    rw [oddParity, List.range_succ, List.foldl_concat]
  have hlow : ∀ k < 7, (b ||| 0x80#8).getLsbD k = b.getLsbD k := by
    intro k hk
    have hbit : (0x80#8).getLsbD k = false := by revert k; decide
    rw [BitVec.getLsbD_or, hbit, Bool.or_false]
  have hset : (b ||| 0x80#8).getLsbD 7 = true := by rw [BitVec.getLsbD_or]; exact Bool.or_true _
  have hsame : (List.range 7).foldl (fun p k => p ^^ (b ||| 0x80#8).getLsbD k) false
      = (List.range 7).foldl (fun p k => p ^^ b.getLsbD k) false :=
    List.foldl_ext _ _ _ fun p k hk => congrArg (p ^^ ·) (hlow k (List.mem_range.1 hk))
  rw [hfold, hfold b, hset, hsame, h, Bool.xor_true, Bool.xor_false]

theorem oddParity_and_setParity (c : Byte) : oddParity ((c &&& 0x7F) ||| 0x80) = !oddParity (c &&& 0x7F) :=
  oddParity_setParity (by rw [BitVec.getLsbD_and]; exact Bool.and_false _)

/-- The parity bit does not touch the seven bits of the character (R55). -/
theorem setParity_and (c : Byte) : ((c &&& 0x7F) ||| 0x80) &&& 0x7F = c &&& 0x7F := by
  rw [BitVec.and_or_distrib_right, BitVec.and_assoc, BitVec.and_self]
  exact BitVec.or_zero

theorem txBits_7E1_and (c : Byte) : txBits .f7E1 c &&& 0x7F = c &&& 0x7F := by
  rw [txBits]
  split
  · exact setParity_and c
  · rw [BitVec.and_assoc, BitVec.and_self]

theorem txBits_7O1_and (c : Byte) : txBits .f7O1 c &&& 0x7F = c &&& 0x7F := by
  rw [txBits]
  split
  · rw [BitVec.and_assoc, BitVec.and_self]
  · exact setParity_and c

/-- In 7E1 the bits sent have even parity (R55). -/
theorem oddParity_txBits_7E1 (c : Byte) : oddParity (txBits .f7E1 c) = false := by
  rw [txBits]
  split
  next h => rw [oddParity_and_setParity, h]; rfl
  next h => exact Bool.eq_false_iff.2 h

/-- In 7O1 the bits sent have odd parity (R55). -/
theorem oddParity_txBits_7O1 (c : Byte) : oddParity (txBits .f7O1 c) = true := by
  rw [txBits]
  split
  next h => exact h
  next h => rw [oddParity_and_setParity, Bool.eq_false_iff.2 h]; rfl

/-! ### The due prompt -/

theorem Dialog.with_promptDue {d : Dialog} {p : Option Prompt} (h : d.promptDue = p) :
    { d with promptDue := p } = d := by subst h; rfl

theorem Output.with_noticeWait {o : Output} {chars : List Byte} (h : o.noticeWait = chars) :
    { o with noticeWait := chars } = o := by subst h; rfl

section
variable {l : Line} {texts : Vector (List Byte) 16} {p : Prompt}

/-- The text of a prompt, as the transmitter would send it (R63). -/
theorem State.textFor_prompt (s : State) (p : Prompt) :
    s.textFor (if p = .user then 1 else 2) none none = expand none none (s.texts.get p.text) := by
  cases p <;> rfl

/-- No prompt is placed where none is due (R63). -/
theorem Line.placeDue_of_notDue (h : l.dialog.promptDue = none) : l.placeDue texts = l := by
  rw [Line.placeDue, h]

/-- No prompt is placed while a notice is begun or waits (R63). -/
theorem Line.placeDue_of_slot (h : l.out.noticeCur ≠ [] ∨ l.out.noticeWait ≠ []) : l.placeDue texts = l := by
  unfold Line.placeDue
  split
  · rfl
  · refine if_neg ?_
    rcases h with h | h <;> simp [Line.slotEmpty, h]

/-- The kept name is echoed one character at a time, and all of it where the queue has room (R52, R62; log 23). -/
theorem Line.foldl_dialogEcho_eq (cs : List Byte) (l : Line)
    (h : l.config.echo = true → l.out.queue.length + cs.length ≤ 512) :
    cs.foldl (fun l c => l.dialogEcho [c]) l
      = { l with out := { l.out with queue := l.out.queue ++ if l.config.echo = true then cs else [] } } := by
  induction cs generalizing l with
  | nil => simp
  | cons c cs ih =>
    have hc : l.dialogEcho [c]
        = { l with out := { l.out with queue := l.out.queue ++ if l.config.echo = true then [c] else [] } } := by
      rw [Line.dialogEcho]
      split
      next he =>
        have := h he
        rw [List.length_cons] at this
        exact if_pos (show l.out.queue.length + 1 ≤ 512 by omega)
      next => rw [List.append_nil]
    rw [List.foldl_cons, hc, ih]
    · cases l.config.echo <;> simp
    · intro he
      have := h he
      simp only [List.length_append, List.length_cons] at this ⊢
      rw [if_pos he]
      simp only [List.length_cons, List.length_nil]
      omega

/-- A line with the text of the prompt `p` placed in its empty slot, the name kept not yet echoed (R63). -/
def Line.promptPlaced (p : Prompt) (text : List Byte) (l : Line) : Line :=
  { l with
    dialog := { l.dialog with promptDue := if text = [] then none else some p }
    out := { l.out with noticeWait := text, waitPrompt := if text = [] then l.out.waitPrompt else some p } }

/-- A prompt of no characters is due no longer when it is placed; any other waits in the slot (R63). -/
theorem Line.promptPlaced_eq (hp : l.dialog.promptDue = some p) (hw : l.out.noticeWait = []) (text : List Byte) :
    (if text.isEmpty then { l with dialog := { l.dialog with promptDue := none } }
      else { l with out := { l.out with noticeWait := text, waitPrompt := some p } }) = l.promptPlaced p text := by
  cases text with
  | nil =>
    have ho := (Output.with_noticeWait hw).symm
    exact congrArg (fun o => { l with dialog := { l.dialog with promptDue := none }, out := o }) ho
  | cons c cs =>
    have hd := (Dialog.with_promptDue hp).symm
    exact congrArg (fun d => { l with
      dialog := d, out := { l.out with noticeWait := c :: cs, waitPrompt := some p } }) hd

/-- The due prompt is placed in the empty slot, and after the user prompt the kept name is echoed (R62, R63). -/
theorem Line.placeDue_prompted (hp : l.dialog.promptDue = some p) (hc : l.out.noticeCur = [])
    (hw : l.out.noticeWait = [])
    (hroom : l.config.echo = true → l.out.queue.length + l.dialog.nameEcho.length ≤ 512) :
    l.placeDue texts = l.prompted p (expand none none (texts.get p.text)) := by
  have hslot : l.slotEmpty = true := by simp [Line.slotEmpty, hc, hw]
  have hdue : l.placeDue texts = if p = .user then
        { l.dialog.nameEcho.foldl (fun l c => l.dialogEcho [c])
            (l.promptPlaced p (expand none none (texts.get p.text))) with
          dialog := { (l.promptPlaced p (expand none none (texts.get p.text))).dialog with nameEcho := [] } }
      else l.promptPlaced p (expand none none (texts.get p.text)) := by
    rw [Line.placeDue, hp]
    dsimp only
    rw [if_pos hslot, Line.promptPlaced_eq hp hw]
    rfl
  rw [hdue]
  cases p with
  | user =>
    rw [if_pos rfl, Line.foldl_dialogEcho_eq _ _ (by exact hroom), Line.prompted]
    simp only [true_and]
    rfl
  | password =>
    rw [if_neg nofun, Line.prompted]
    simp [Line.promptPlaced]

end

/-! ### The sources in their order -/

section
variable {l : Line} {i : LineId} {texts : Vector (List Byte) 16} {c : Byte} {rest : List Byte}

/-- The control slot goes first, whether or not output is stopped (R56). -/
theorem Line.takeNext_control (h : l.out.control = some c) : l.takeNext i texts
    = { l with out := { l.out with control := none, tx := some (txBits l.unit.format c) } } := by
  rw [Line.takeNext, h]; rfl

/-- Output stopped holds up every source but the control slot (R37, R56). -/
theorem Line.takeNext_stopped (h : l.out.control = none) (hs : l.unit.outputStopped = true) :
    l.takeNext i texts = l := by
  rw [Line.takeNext, h]; exact if_pos hs

/-- A notice begun goes before the queue; the prompt due may take the slot that it leaves (R58, R63). -/
theorem Line.takeNext_notice (h : l.out.control = none) (hs : l.unit.outputStopped = false)
    (hn : l.out.noticeCur = c :: rest) : l.takeNext i texts
      = Line.placeDue texts { l with out := { l.out with
          noticeCur := rest, tx := some (txBits l.unit.format c) } } := by
  rw [Line.takeNext, h, hn]; exact if_neg (by simp [hs])

/-- The due prompt begins, and is due no longer (R58, R63). -/
theorem Line.takeNext_duePrompt (h : l.out.control = none) (hs : l.unit.outputStopped = false)
    (hn : l.out.noticeCur = []) (hw : l.out.noticeWait = c :: rest) (hp : l.out.waitPrompt = l.dialog.promptDue) :
    l.takeNext i texts = { l with
      dialog := { l.dialog with promptDue := none }
      out := { l.out with
        noticeCur := rest, noticeWait := [], waitPrompt := none, tx := some (txBits l.unit.format c) } } := by
  rw [Line.takeNext, h, hn, hw]
  refine (if_neg (by simp [hs])).trans ?_
  rw [if_pos hp]
  exact Line.placeDue_of_notDue rfl

/-- A waiting notice that is not the due prompt begins, and leaves what is due as it is (R58, R63). -/
theorem Line.takeNext_waiting (h : l.out.control = none) (hs : l.unit.outputStopped = false)
    (hn : l.out.noticeCur = []) (hw : l.out.noticeWait = c :: rest)
    (hp : l.out.waitPrompt ≠ l.dialog.promptDue ∨ l.dialog.promptDue = none) : l.takeNext i texts
      = Line.placeDue texts { l with out := { l.out with
          noticeCur := rest, noticeWait := [], waitPrompt := none, tx := some (txBits l.unit.format c) } } := by
  have hdue : (if l.out.waitPrompt = l.dialog.promptDue then none else l.dialog.promptDue)
      = l.dialog.promptDue := by
    rcases hp with hp | hp
    · exact if_neg hp
    · rw [hp]; exact ite_self _
  rw [Line.takeNext, h, hn, hw]
  refine (if_neg (by simp [hs])).trans ?_
  rw [hdue]
  rfl

/-- The queue goes last (R56). -/
theorem Line.takeNext_queue (h : l.out.control = none) (hs : l.unit.outputStopped = false)
    (hn : l.out.noticeCur = []) (hw : l.out.noticeWait = []) (hq : l.out.queue = c :: rest) : l.takeNext i texts
      = Line.checkReady i { l with out := { l.out with queue := rest, tx := some (txBits l.unit.format c) } } := by
  rw [Line.takeNext, h, hn, hw, hq]; exact if_neg (by simp [hs])

/-- With nothing to take the transmitter is idle (R56). -/
theorem Line.takeNext_idle (h : l.out.control = none) (hn : l.out.noticeCur = []) (hw : l.out.noticeWait = [])
    (hq : l.out.queue = []) : l.takeNext i texts = l := by
  rw [Line.takeNext, h, hn, hw, hq]; exact ite_self _

/-- A queue that is not armed, or holds more than 128 bytes, reports nothing (R54). -/
theorem Line.checkReady_quiet (h : l.out.armed = false ∨ 128 < l.out.queue.length) : l.checkReady i = l := by
  refine if_neg fun ⟨ha, hq⟩ => ?_
  rcases h with h | h
  · rw [h] at ha; cases ha
  · exact Nat.not_lt_of_le hq h

/-- An armed queue that has come down to 128 bytes reports OUTPUT READY (R54). -/
theorem Line.checkReady_reports (ha : l.out.armed = true) (hq : l.out.queue.length ≤ 128) : l.checkReady i
    = { l with
      out := { l.out with armed := false }
      reports := { l.reports with outReady := some ⟨tagOf i l.generation, l.out.queue.length⟩ } } :=
  if_pos ⟨ha, hq⟩

end

/-! ### TRANSMIT CHARACTER -/

/-- A line whose character in progress has ended. -/
def Line.sent (l : Line) : Line := { l with out := { l.out with tx := none } }

section
variable {s : State} {i : LineId}

/-- A line in REJECTING or DRAINING with nothing left to send hangs up, and sends no more (R61). -/
theorem exec_transmitCharacter_done (h : s.mode = .running)
    (hs : (s.line i).state = .rejecting ∨ (s.line i).state = .draining) (hd : (s.line i).sent.outputDone = true) :
    exec (.transmitCharacter i) s = .next (s.setLine i (s.line i).sent.onHook) := by
  have hsettle : (s.line i).sent.settle = (s.line i).sent.onHook := if_pos ⟨hs, hd⟩
  rw [exec, execTransmitCharacter, State.whenRunning_running h]
  refine next_setLine ?_
  dsimp only
  rw [show Line.settle { s.line i with out := { (s.line i).out with tx := none } } = _ from hsettle]
  rfl

/-- A line with a speed in any other state takes its next character (R56). -/
theorem exec_transmitCharacter (h : s.mode = .running) (hsp : (s.line i).unit.speed ≠ none)
    (hr : (s.line i).state ≠ .rejecting) (hd : (s.line i).state ≠ .draining) :
    exec (.transmitCharacter i) s = .next (s.setLine i ((s.line i).sent.takeNext i s.texts)) := by
  have hsettle : (s.line i).sent.settle = (s.line i).sent := if_neg fun h => h.1.elim hr hd
  rw [exec, execTransmitCharacter, State.whenRunning_running h]
  refine next_setLine ?_
  dsimp only
  rw [show Line.settle { s.line i with out := { (s.line i).out with tx := none } } = _ from hsettle]
  exact if_pos (Option.isSome_iff_ne_none.2 hsp)

end

/-- Settles O50: the completion of R61, then one rule for each source in the order of R56, and the parity sent. -/
theorem transmitterTakesTheNextCharacter : Obligations.TransmitterTakesTheNextCharacter := by
  intro s i l o after h hl ho hafter hsp
  subst hl ho hafter
  refine ⟨fun hs hn hw hc hq => ?_, fun hr hd => ?_, fun ch => ⟨rfl, txBits_7E1_and ch, txBits_7O1_and ch, ?_, ?_⟩⟩
  · refine exec_transmitCharacter_done h hs ?_
    by_cases hd : (s.line i).state = .draining
    · simp [Line.outputDone, Line.sent, hn, hw, hc, hq hd]
    · simp [Line.outputDone, Line.sent, hn, hw, hc, hd]
  · rw [exec_transmitCharacter h hsp hr hd]
    refine ⟨fun ch hc => ?_, fun hc hs => ?_, fun hc hs hp => ⟨fun ch rest hn => ?_, fun hn =>
      ⟨fun ch rest hw => ?_, fun hw => ⟨fun ch rest hq hready => ?_, fun ch rest hq ha hlen => ?_, fun hq => ?_⟩⟩⟩⟩
    · rw [Line.takeNext_control (l := (s.line i).sent) hc]; rfl
    · rw [Line.takeNext_stopped (l := (s.line i).sent) hc hs]; rfl
    · rw [Line.takeNext_notice (l := (s.line i).sent) hc hs hn, Line.placeDue_of_notDue (by exact hp)]; rfl
    · rw [Line.takeNext_waiting (l := (s.line i).sent) hc hs hn hw (.inr hp),
        Line.placeDue_of_notDue (by exact hp)]; rfl
    · rw [Line.takeNext_queue (l := (s.line i).sent) hc hs hn hw hq, Line.checkReady_quiet (by exact hready)]; rfl
    · rw [Line.takeNext_queue (l := (s.line i).sent) hc hs hn hw hq,
        Line.checkReady_reports (by exact ha) (by exact hlen)]; rfl
    · rw [Line.takeNext_idle (l := (s.line i).sent) hc hn hw hq]; rfl
  · have := (oddParity_eq _).symm.trans (oddParity_txBits_7E1 ch)
    have := of_decide_eq_false this
    omega
  · exact of_decide_eq_true ((oddParity_eq _).symm.trans (oddParity_txBits_7O1 ch))

/-- Settles O51: the prompt due takes the slot as the last character of a notice leaves it, and is due no longer once
its own first character is taken (R52, R62, R63). -/
theorem duePromptIsPlacedInTheEmptySlot : Obligations.DuePromptIsPlacedInTheEmptySlot := by
  intro s i l o p text ch rest after h hl ho hsp hst hc hs hp htext hroom hafter
  subst hl ho hafter htext
  rw [State.textFor_prompt, exec_transmitCharacter h hsp (by rw [hst]; nofun) (by rw [hst]; nofun)]
  refine ⟨fun hn => ?_, fun hn hw => ?_⟩
  · rw [Line.takeNext_notice (l := (s.line i).sent) hc hs hn]
    refine ⟨fun hrest hw => ?_, fun hslot => ?_⟩
    · subst hrest
      rw [Line.placeDue_prompted (by exact hp) rfl (by exact hw) (by exact fun _ => hroom)]; rfl
    · rw [Line.placeDue_of_slot (by exact hslot)]; rfl
  · have hother (hwait : (s.line i).out.waitPrompt ≠ some p) := Line.takeNext_waiting (l := (s.line i).sent) (i := i)
      (texts := s.texts) hc hs hn hw (.inl (hp ▸ hwait))
    refine ⟨fun hwait => ?_, fun hwait hrest => ?_, fun hwait hrest => ?_⟩
    · rw [Line.takeNext_duePrompt (l := (s.line i).sent) hc hs hn hw (hwait.trans hp.symm)]; rfl
    · rw [hother hwait, Line.placeDue_of_slot (by exact .inl hrest)]; rfl
    · subst hrest
      rw [hother hwait, Line.placeDue_prompted (by exact hp) rfl rfl (by exact fun _ => hroom)]; rfl

end Sys2Proof.Machine
end


section
/-! The dialog's characters and its timer (O52). -/

namespace Sys2Proof.Machine

/-! ### Characters by their class -/

theorem foldCase_eq (c : Byte) : foldCase c = if 0x61 ≤ c.toNat ∧ c.toNat ≤ 0x7A then c - 0x20 else c := by
  rw [foldCase]
  refine if_congr ?_ rfl rfl
  rw [Bool.and_eq_true, decide_eq_true_eq, decide_eq_true_eq]
  rfl

/-- BS, DEL and CR are no name characters (R64). -/
theorem not_isNameChar_of_control {c : Byte} (h : c = 0x08 ∨ c = 0x7F ∨ c = 0x0D) :
    isNameChar (foldCase c) = false := by
  rcases h with rfl | rfl | rfl <;> decide

theorem Line.dialogEcho_eq_echoed (chars : List Byte) (l : Line) : l.dialogEcho chars = l.echoed chars := by
  rw [Line.dialogEcho, Line.echoed]
  cases l.config.echo <;> rfl

/-! ### A character in the NAME phase -/

/-- The dialog as it asks for `p` at a CR in the NAME phase (R64). -/
def Dialog.asking (d : Dialog) : Prompt → Dialog
  | .user => { d with promptDue := some .user }
  | .password => { d with phase := .password, password := [], promptDue := some .password, nameEcho := [] }

theorem Dialog.asking_promptDue (d : Dialog) (p : Prompt) : (d.asking p).promptDue = some p := by cases p <;> rfl

theorem Dialog.asking_nameEcho_length_le (d : Dialog) (p : Prompt) :
    (d.asking p).nameEcho.length ≤ d.nameEcho.length := by
  cases p with
  | user => exact le_rfl
  | password => exact Nat.zero_le _

/-- The line as it asks for `p`, the CR echoed and the prompt not yet placed (R64). -/
def Line.asks (p : Prompt) (l : Line) : Line := Line.echoed [0x0D, 0x0A] { l with dialog := l.dialog.asking p }

section
variable {l : Line} {texts : Vector (List Byte) 16} {c : Byte}

/-- A name character is folded, held and echoed (R64). -/
theorem Line.nameChar_held (hc : isNameChar (foldCase c) = true) (hn : l.dialog.name.length < 8) :
    l.nameChar texts c = Line.echoed [foldCase c] { l with
      dialog := { l.dialog with name := l.dialog.name ++ [foldCase c] } } := by
  rw [Line.nameChar]
  exact (if_pos hc).trans ((if_pos hn).trans (Line.dialogEcho_eq_echoed ..))

/-- A ninth name character is dropped (R64). -/
theorem Line.nameChar_full (hc : isNameChar (foldCase c) = true) (hn : 8 ≤ l.dialog.name.length) :
    l.nameChar texts c = l := by
  rw [Line.nameChar]
  exact (if_pos hc).trans (if_neg (Nat.not_lt_of_le hn))

/-- BS and DEL erase one character (R64). -/
theorem Line.nameChar_erases (hc : c = 0x08 ∨ c = 0x7F) (hn : l.dialog.name ≠ []) :
    l.nameChar texts c = Line.echoed [0x08, 0x20, 0x08] { l with
      dialog := { l.dialog with name := l.dialog.name.dropLast } } := by
  have hf := not_isNameChar_of_control (hc.imp_right .inl)
  rw [Line.nameChar]
  exact (if_neg (Bool.eq_false_iff.1 hf)).trans ((if_pos hc).trans ((if_neg hn).trans (Line.dialogEcho_eq_echoed ..)))

/-- BS and DEL find nothing to erase (R64). -/
theorem Line.nameChar_erases_nothing (hc : c = 0x08 ∨ c = 0x7F) (hn : l.dialog.name = []) :
    l.nameChar texts c = l := by
  have hf := not_isNameChar_of_control (hc.imp_right .inl)
  rw [Line.nameChar]
  exact (if_neg (Bool.eq_false_iff.1 hf)).trans ((if_pos hc).trans (if_pos hn))

/-- CR asks for the password after a name, and for the name again where there is none (R64). -/
theorem Line.nameChar_CR :
    l.nameChar texts 0x0D = (l.asks (if l.dialog.name = [] then .user else .password)).placeDue texts := by
  have hf := not_isNameChar_of_control (c := 0x0D) (.inr (.inr rfl))
  rw [Line.nameChar]
  refine (if_neg (Bool.eq_false_iff.1 hf)).trans ((if_neg (by decide)).trans ((if_pos rfl).trans ?_))
  by_cases hn : l.dialog.name = []
  · rw [if_pos hn, if_pos hn, Line.dialogEcho_eq_echoed]; rfl
  · rw [if_neg hn, if_neg hn, Line.dialogEcho_eq_echoed]; rfl

/-- Any other character is dropped (R64). -/
theorem Line.nameChar_other (hc : isNameChar (foldCase c) = false) (hbs : c ≠ 0x08) (hdel : c ≠ 0x7F)
    (hcr : c ≠ 0x0D) : l.nameChar texts c = l := by
  rw [Line.nameChar]
  exact (if_neg (Bool.eq_false_iff.1 hc)).trans ((if_neg (not_or.2 ⟨hbs, hdel⟩)).trans (if_neg hcr))

/-! ### The prompt asked for -/

theorem Line.echoed_dialog (chars : List Byte) (l : Line) : (l.echoed chars).dialog = l.dialog := by
  unfold Line.echoed; (repeat' split) <;> rfl
theorem Line.echoed_noticeCur (chars : List Byte) (l : Line) :
    (l.echoed chars).out.noticeCur = l.out.noticeCur := by unfold Line.echoed; (repeat' split) <;> rfl
theorem Line.echoed_noticeWait (chars : List Byte) (l : Line) :
    (l.echoed chars).out.noticeWait = l.out.noticeWait := by unfold Line.echoed; (repeat' split) <;> rfl

/-- An echo lengthens the queue by no more than itself (R52). -/
theorem Line.echoed_queue_length_le (chars : List Byte) (l : Line) :
    (l.echoed chars).out.queue.length ≤ l.out.queue.length + chars.length := by
  unfold Line.echoed
  split
  · exact Nat.le_add_right ..
  · split
    · exact List.length_append.le
    · exact Nat.le_add_right ..

theorem Line.asks_dialog (p : Prompt) (l : Line) : (l.asks p).dialog = l.dialog.asking p := Line.echoed_dialog ..

/-- A notice in the slot is left as it is by the prompt asked for (R63; log 22). -/
theorem Line.placeDue_asks_of_slot (p : Prompt) (h : l.out.noticeCur ≠ [] ∨ l.out.noticeWait ≠ []) :
    (l.asks p).placeDue texts = l.asks p := by
  refine Line.placeDue_of_slot ?_
  rwa [Line.asks, Line.echoed_noticeCur, Line.echoed_noticeWait]

/-- The prompt asked for is placed at once in an empty slot (R63). -/
theorem Line.placeDue_asks (p : Prompt) (hc : l.out.noticeCur = []) (hw : l.out.noticeWait = [])
    (hroom : l.out.queue.length + 2 + l.dialog.nameEcho.length ≤ 512) :
    (l.asks p).placeDue texts = (l.asks p).prompted p (expand none none (texts.get p.text)) := by
  refine Line.placeDue_prompted ?_ ?_ ?_ fun _ => ?_
  · rw [Line.asks_dialog, Dialog.asking_promptDue]
  · rwa [Line.asks, Line.echoed_noticeCur]
  · rwa [Line.asks, Line.echoed_noticeWait]
  · have hq : (l.asks p).out.queue.length ≤ l.out.queue.length + 2 := Line.echoed_queue_length_le ..
    have hn := l.dialog.asking_nameEcho_length_le p
    rw [Line.asks_dialog]
    omega

end

/-! ### A character in the PASSWORD phase -/

section
variable {d : Dialog} {c : Byte}

/-- A printing character is held while there is room (R65). -/
theorem Dialog.passwordChar_printing (hlo : 0x20 ≤ c.toNat) (hhi : c.toNat ≤ 0x7E) :
    d.passwordChar c = if d.password.length < 12 then { d with password := d.password ++ [c] } else d :=
  if_pos ⟨hlo, hhi⟩

/-- BS and DEL erase one character (R65). -/
theorem Dialog.passwordChar_erases (hc : c = 0x08 ∨ c = 0x7F) :
    d.passwordChar c = { d with password := d.password.dropLast } := by
  have hp : ¬ (0x20 ≤ c ∧ c ≤ 0x7E) := by rcases hc with rfl | rfl <;> decide
  exact (if_neg hp).trans (if_pos hc)

/-- Any other character is dropped (R65). -/
theorem Dialog.passwordChar_other (hc : c.toNat < 0x20 ∨ 0x7F < c.toNat) (hbs : c ≠ 0x08) : d.passwordChar c = d := by
  have hp : ¬ (0x20 ≤ c ∧ c ≤ 0x7E) := fun ⟨hlo, hhi⟩ => by
    have hlo' : 0x20 ≤ c.toNat := hlo
    have hhi' : c.toNat ≤ 0x7E := hhi
    omega
  have hdel : c ≠ 0x7F := by rintro rfl; revert hc; decide
  exact (if_neg hp).trans (if_neg (not_or.2 ⟨hbs, hdel⟩))

end

/-! ### The commands -/

/-- A line whose oldest waiting character has been taken, `rest` still waiting (R36). -/
def Line.took (rest : List Byte) (l : Line) : Line := { l with unit := { l.unit with fifo := rest } }

section
variable {s : State} {i : LineId} {c : Byte} {rest : List Byte}

theorem exec_nameCharacter (h : s.mode = .running) (hs : (s.line i).state = .dialog)
    (hp : (s.line i).dialog.phase = .name) (hf : (s.line i).unit.fifo = c :: rest) :
    exec (.nameCharacter i) s = .next (s.setLine i (((s.line i).took rest).nameChar s.texts c)) := by
  rw [exec, execNameCharacter, State.whenRunning_running h]
  refine next_setLine ?_
  dsimp only
  rw [hf]
  exact if_pos ⟨hs, hp⟩

/-- A character of the password but CR is never echoed (R65). -/
theorem exec_passwordCharacter (h : s.mode = .running) (hs : (s.line i).state = .dialog)
    (hp : (s.line i).dialog.phase = .password) (hf : (s.line i).unit.fifo = c :: rest) (hc : c ≠ 0x0D) :
    exec (.passwordCharacter i) s = .next (s.setLine i { (s.line i).took rest with
      dialog := (s.line i).dialog.passwordChar c }) := by
  rw [exec, execPasswordCharacter, State.whenRunning_running h]
  dsimp only
  rw [hf]
  refine congrArg Host.Outcome.next ?_
  exact (if_pos ⟨hs, hp⟩).trans (if_neg hc)

/-- The dialog timer's expiry refuses the line with text 11 (R66), with its scan (log 8). -/
theorem exec_dialogTimerExpiry (h : s.mode = .running) (hs : (s.line i).state = .dialog) {n : Nat}
    (ht : (s.line i).dialog.timer = .running n) :
    exec (.dialogTimerExpiry i) s = .next (s.scan.setLine i
      (((s.line i).drive.place (s.textFor 11 none none)).raiseEvent .dialogTimeout 0).toRejecting) := by
  rw [exec, execDialogTimerExpiry]
  exact State.lineExpiry_due h (decide_eq_true ⟨hs, by rw [ht]; rfl⟩) _

end

@[simp] theorem Line.toRejecting_tallies (l : Line) : l.toRejecting.tallies = l.tallies := by
  rw [Line.toRejecting, Line.settle_tallies]; rfl

/-- An event raised on a line does not depend on the notice placed. -/
theorem Line.raiseEvent_place (l : Line) (chars : List Byte) (kind : LineEventKind) (detail : Byte) :
    (l.place chars).raiseEvent kind detail = (l.raiseEvent kind detail).place chars := by
  unfold Line.place
  by_cases hs : l.unit.speed.isSome
  · rw [if_pos hs, if_pos (show (l.raiseEvent kind detail).unit.speed.isSome from hs)]; rfl
  · rw [if_neg hs, if_neg (show ¬ (l.raiseEvent kind detail).unit.speed.isSome from hs)]

/-- Settles O52: a rule for each class of character in each phase, and the refusal at the timer (R52, R63 to R66). -/
theorem dialogTakesNameAndPassword : Obligations.DialogTakesNameAndPassword := by
  intro s i l d ch up rest after h hl hd hst hafter hup
  rw [← foldCase_eq] at hup
  subst hl hd hafter hup
  refine ⟨fun hf => ⟨fun hp => ?_, fun hp taken htaken => ?_⟩, fun n hn hsp ht => ?_⟩
  · rw [exec_nameCharacter h hst hp hf]
    refine ⟨fun hc hlen => ?_, fun hc hlen => ?_, fun hc => ⟨fun hn => ?_, fun hn => ?_⟩, fun hc p asked hasked => ?_,
      fun hc hbs hdel hcr => ?_⟩
    · rw [Line.nameChar_held (l := (s.line i).took rest) hc hlen]; rfl
    · rw [Line.nameChar_full (l := (s.line i).took rest) hc hlen]; rfl
    · rw [Line.nameChar_erases (l := (s.line i).took rest) hc hn]; rfl
    · rw [Line.nameChar_erases_nothing (l := (s.line i).took rest) hc hn]; rfl
    · have hasks : asked = ((s.line i).took rest).asks p ∧ p = if (s.line i).dialog.name = [] then .user
          else .password := by
        rcases hasked with ⟨hn, rfl, rfl⟩ | ⟨hn, rfl, rfl⟩
        · exact ⟨rfl, (if_neg hn).symm⟩
        · exact ⟨rfl, (if_pos hn).symm⟩
      obtain ⟨rfl, hp'⟩ := hasks
      have hCR : ((s.line i).took rest).nameChar s.texts ch
          = (((s.line i).took rest).asks p).placeDue s.texts := by
        rw [hc, hp']; exact Line.nameChar_CR
      rw [hCR, State.textFor_prompt]
      refine ⟨fun hslot => ?_, fun hcur hwait hroom => ?_⟩
      · rw [Line.placeDue_asks_of_slot p (by exact hslot)]
      · rw [Line.placeDue_asks p (by exact hcur) (by exact hwait) (by exact hroom)]
    · rw [Line.nameChar_other hc hbs hdel hcr]; rfl
  · subst htaken
    have hx (hcr : ch ≠ 0x0D) := exec_passwordCharacter h hst hp hf hcr
    refine ⟨fun hlo hhi hlen => ?_, fun hlo hhi hlen => ?_, fun hc => ?_, fun hc hbs hcr => ?_⟩
    · rw [hx (by rintro rfl; revert hlo; decide), Dialog.passwordChar_printing hlo hhi, if_pos hlen]; rfl
    · rw [hx (by rintro rfl; revert hlo; decide), Dialog.passwordChar_printing hlo hhi,
        if_neg (Nat.not_lt_of_le hlen)]; rfl
    · rw [hx (by rintro rfl; revert hc; decide), Dialog.passwordChar_erases hc]; rfl
    · rw [hx hcr, Dialog.passwordChar_other hc hbs]; rfl
  · obtain ⟨hr, -, -, hu, hrep⟩ := Line.refused_place (l := (s.line i).drive.raiseEvent .dialogTimeout 0)
      (text := s.textFor 11 none none) hsp ht
    rw [exec_dialogTimerExpiry h hst hn, Line.raiseEvent_place, State.scanned_eq_scan, Line.driven_eq_drive]
    refine ⟨_, rfl, hr.of_same rfl rfl rfl rfl, ?_, hu, ?_⟩
    · rw [hrep, ← Line.raiseEvent_eq_withEvent]; rfl
    · rw [Line.toRejecting_tallies, Line.place_tallies]; rfl

end Sys2Proof.Machine
end


section
/-! The check value (O55) and the texts loaded (O14). -/

namespace Sys2Proof.Machine

/-! ### The check value -/

/-- Bytes weighed by powers of 37, the first by the k-th power (R67). -/
def weighed (bytes : List Byte) (k : Nat) : Nat := ((bytes.zipIdx k).map fun p => p.1.toNat * 37 ^ p.2).sum

theorem weighed_cons (b : Byte) (bytes : List Byte) (k : Nat) :
    weighed (b :: bytes) k = b.toNat * 37 ^ k + weighed bytes (k + 1) := by
  simp [weighed]

theorem weighed_succ (bytes : List Byte) (k : Nat) : weighed bytes (k + 1) = 37 * weighed bytes k := by
  induction bytes generalizing k with
  | nil => rfl
  | cons b bytes ih => rw [weighed_cons, weighed_cons, ih, pow_succ]; ring

/-- Taking the bytes one by one, as the check value does, weighs the last of them by 1, the one before by 37, and so on
(R67). -/
theorem toNat_foldl_check (bytes : List Byte) :
    (bytes.foldl (fun (v : BitVec 32) (b : Byte) => v * 37#32 + b.setWidth 32) 1#32).toNat
      = (37 ^ bytes.length + weighed bytes.reverse 0) % 2 ^ 32 := by
  induction bytes using List.reverseRecOn with
  | nil => rfl
  | append_singleton bytes b ih =>
    have hb : (b.setWidth 32).toNat = b.toNat := BitVec.toNat_setWidth_of_le (by decide)
    rw [List.foldl_concat, BitVec.toNat_add, BitVec.toNat_mul, ih, hb, List.reverse_concat, weighed_cons, weighed_succ,
      List.length_append, List.length_singleton, pow_succ]
    have h37 : (37#32).toNat = 37 := rfl
    rw [h37]
    omega

theorem padName_eq {name : Name} (h : name.length ≤ 8) :
    padName name = name ++ List.replicate (8 - name.length) 0x20 := by
  rw [padName, List.take_append, List.take_of_length_le h, List.take_replicate, Nat.min_eq_left (Nat.sub_le ..)]
  rfl

/-- Settles O55: Horner's rule over the padded name, the zero byte and the password (R67). -/
theorem checkValueWeighsByPowersOf37 : Obligations.CheckValueWeighsByPowersOf37 := by
  intro name password h bytes hbytes
  rw [checkValue, padName_eq h, ← hbytes]
  exact toNat_foldl_check bytes

/-! ### LOAD TEXT -/

section
variable {s : State} {label : Byte} {fields : List Byte} {index mode : Byte} {bytes : List Byte}

/-- The fields of LOAD TEXT read in the order of their layout (section 11.2). -/
theorem readLoadText_eq (index mode : Byte) {bytes : List Byte} (h : bytes.length < 256) (rest : List Byte) :
    readLoadText (index :: mode :: BitVec.ofNat 8 bytes.length :: (bytes ++ rest)) = some (index, mode, bytes) := by
  have hn : (BitVec.ofNat 8 bytes.length).toNat = bytes.length := (byteOf_toNat _).trans (Nat.mod_eq_of_lt h)
  have ht : takeBytes (BitVec.ofNat 8 bytes.length).toNat (bytes ++ rest) = some (bytes, rest) := by
    rw [hn, takeBytes_append]
  simp only [readLoadText, u8, Option.bind_eq_bind, Option.bind_some, ht]

theorem exec_loadText (h : s.Asked 0x08 label fields) :
    exec .loadText s = .next ((loadTextReq fields s.dropFrame).1.pushReply
      ⟨0x08 + 0x80, label, (loadTextReq fields s.dropFrame).2.1, (loadTextReq fields s.dropFrame).2.2⟩) :=
  State.request_asked h loadTextReq

theorem loadTextReq_badIndex (hr : readLoadText fields = some (index, mode, bytes)) (hi : 15 < index.toNat) :
    loadTextReq fields s = (s, answerBad 1) := by
  simp only [loadTextReq, withFields, hr]
  exact dif_neg (by omega)

theorem loadTextReq_badMode (hr : readLoadText fields = some (index, mode, bytes)) (hi : index.toNat < 16)
    (h0 : mode ≠ 0) (h1 : mode ≠ 1) : loadTextReq fields s = (s, answerBad 2) := by
  simp only [loadTextReq, withFields, hr]
  exact (dif_pos hi).trans (if_pos ⟨h0, h1⟩)

/-- With index and mode good, the length of the result decides (R76). -/
theorem loadTextReq_text (hr : readLoadText fields = some (index, mode, bytes)) (hi : index.toNat < 16)
    {text : List Byte}
    (ht : mode = 0 ∧ text = bytes ∨ mode = 1 ∧ text = s.texts.get ⟨index.toNat, hi⟩ ++ bytes) :
    loadTextReq fields s = if 80 < text.length then (s, answerBad 3)
      else ({ s with texts := s.texts.set index.toNat text hi }, answerDone [index, byteOf text.length]) := by
  simp only [loadTextReq, withFields, hr]
  rcases ht with ⟨rfl, rfl⟩ | ⟨rfl, rfl⟩
  · exact (dif_pos hi).trans (if_neg (by simp))
  · exact (dif_pos hi).trans (if_neg (by simp))

end

/-- Settles O14: index, mode and length of the result are checked in this order (R76). -/
theorem loadTextReplacesOrExtends : Obligations.LoadTextReplacesOrExtends := by
  intro s label index mode bytes rest hlen hq
  have hr := readLoadText_eq index mode hlen rest
  refine ⟨fun hi => ?_, fun hi => ⟨fun h0 h1 => ?_, fun text ht => ⟨fun hlong => ?_, fun hshort => ?_⟩⟩⟩
  · rw [exec_loadText hq, loadTextReq_badIndex hr hi]; rfl
  · rw [exec_loadText hq, loadTextReq_badMode hr hi h0 h1]; rfl
  · rw [exec_loadText hq, loadTextReq_text (s := s.dropFrame) hr hi ht, if_pos hlong]; rfl
  · rw [exec_loadText hq, loadTextReq_text (s := s.dropFrame) hr hi ht, if_neg (Nat.not_lt_of_le hshort)]; rfl

end Sys2Proof.Machine
end


section
/-! The line reports in their order (O34). -/

namespace Sys2Proof.Machine

/-! ### The report that a line gives -/

section
variable {m : Mask} {held : Bool} {i : LineId} {r : LineReports}

/-- END goes first where nothing holds it back (R162). -/
theorem LineReports.next_end {e : EndFlag} (he : r.ended = some e) (hs : r.signon = none) (hh : held = false) :
    r.next m held i = some (e.body, { r with ended := none }, true) := by
  subst hh
  simp [LineReports.next, he, hs]

/-- No END is given where there is none, or where one is held back (R72, R162; log 41). -/
theorem LineReports.next_noEnd (he : r.ended = none ∨ r.signon = none ∧ held = true) :
    r.next m held i
      = ((if m.lineEvent then none else r.event.map fun f => (lineEventBody i f, { r with event := none }, false))
        <|> (r.signon.map fun f => (f.body, { r with signon := none }, false))
        <|> (r.attention.map fun f => (f.body, { r with attention := none }, false))
        <|> if m.outputReady then none
          else r.outReady.map fun f => (f.body, { r with outReady := none }, false)) := by
  rcases he with he | ⟨hs, hh⟩
  · simp [LineReports.next, he]
  · cases he : r.ended <;> simp [LineReports.next, he, hs, hh]

/-- SIGNON goes in place of the END that it precedes, or after LINE EVENT (R162). -/
theorem LineReports.next_signon {f : SignonFlag} (hf : r.signon = some f)
    (h : r.ended ≠ none ∨ m.lineEvent = true ∨ r.event = none) :
    r.next m held i = some (f.body, { r with signon := none }, false) := by
  cases he : r.ended with
  | some e => simp [LineReports.next, he, hf]
  | none =>
    have hev := h.resolve_left (not_not_intro he)
    rw [LineReports.next_noEnd (.inl he), hf]
    rcases hev with hm | hev
    · simp [hm, he]
    · simp [hev, he]

/-- LINE EVENT goes next, unless it is masked (R162, R163). -/
theorem LineReports.next_event {f : LineEventFlag} (he : r.ended = none ∨ r.signon = none ∧ held = true)
    (hm : m.lineEvent = false) (hf : r.event = some f) :
    r.next m held i = some (lineEventBody i f, { r with event := none }, false) := by
  rw [LineReports.next_noEnd he, hm, hf]; rfl

/-- With no LINE EVENT and no SIGNON to give, ATTENTION and OUTPUT READY are left (R162). -/
theorem LineReports.next_noEvent (he : r.ended = none ∨ held = true) (hs : r.signon = none)
    (hev : m.lineEvent = true ∨ r.event = none) :
    r.next m held i
      = ((r.attention.map fun f => (f.body, { r with attention := none }, false))
        <|> if m.outputReady then none
          else r.outReady.map fun f => (f.body, { r with outReady := none }, false)) := by
  rw [LineReports.next_noEnd (he.imp_right fun h => ⟨hs, h⟩), hs]
  rcases hev with hm | hev
  · simp [hm]
  · simp [hev]

end

/-! ### The report chosen -/

/-- The report `reports`, `body` of line `i` sent: the line is the pointer, its flags are those left, the frame is begun
(R158, R162). -/
def State.reported (s : State) (i : LineId) (reports : LineReports) (body : List Byte) : State :=
  State.send { s.setLine i { s.line i with reports := reports } with link := { s.link with linePtr := i } } body

section
variable {s : State} {i : LineId} {d : Nat} {reports : LineReports} {body : List Byte} {isEnd : Bool}

/-- The first line after the pointer that has a report to give is served (R162). -/
theorem State.choose_line (hahead : s.NothingAhead) (hd : d < 48) (hi : i.val = (s.link.linePtr.val + 1 + d) % 48)
    (hbefore : ∀ k < d, ∀ j : LineId, j.val = (s.link.linePtr.val + 1 + k) % 48 → s.Silent j)
    (hx : (s.line i).reports.next s.link.mask (s.endHeld i) i = some (body, reports, isEnd)) :
    s.choose = some ⟨body,
      { s.setLine i { s.line i with reports := reports } with link := { s.link with linePtr := i } },
      if isEnd then some i else none⟩ := by
  have hline : s.chooseLine = some ⟨body,
      { s.setLine i { s.line i with reports := reports } with link := { s.link with linePtr := i } },
      if isEnd then some i else none⟩ := by
    refine findSome?_scanFrom hd hi (fun k hk j hj => ?_) ?_
    · rw [LineReports.next_silent (hbefore k hk j hj) (s.endHeld_iff j).2]; rfl
    · rw [hx]; rfl
  rw [State.choose_of_nothingAhead hahead, hline]
  rfl

/-- A report of a line but END is sent, and that is all (R162). -/
theorem exec_arbiterChoice_report (h : s.mode = .running) (hahead : s.NothingAhead) (hd : d < 48)
    (hi : i.val = (s.link.linePtr.val + 1 + d) % 48)
    (hbefore : ∀ k < d, ∀ j : LineId, j.val = (s.link.linePtr.val + 1 + k) % 48 → s.Silent j)
    (hx : (s.line i).reports.next s.link.mask (s.endHeld i) i = some (body, reports, false)) :
    exec .arbiterChoice s = .next (s.reported i reports body) :=
  exec_arbiterChoice_plain h (State.choose_line hahead hd hi hbefore hx)

/-- An END sent may be the one that a waiting sign-on awaits, whose check is then made again (R71). -/
theorem exec_arbiterChoice_end (h : s.mode = .running) (hahead : s.NothingAhead) (hd : d < 48)
    (hi : i.val = (s.link.linePtr.val + 1 + d) % 48)
    (hbefore : ∀ k < d, ∀ j : LineId, j.val = (s.link.linePtr.val + 1 + k) % 48 → s.Silent j)
    (hx : (s.line i).reports.next s.link.mask (s.endHeld i) i = some (body, reports, true)) :
    exec .arbiterChoice s = .next ((s.reported i reports body).recheck i) := by
  rw [exec, execArbiterChoice, State.whenRunning_running h, State.choose_line hahead hd hi hbefore hx]
  rfl

theorem State.line_reported (s : State) (i : LineId) (reports : LineReports) (body : List Byte) (j : LineId) :
    (s.reported i reports body).line j = if j = i then { s.line i with reports := reports } else s.line j :=
  State.line_setLine s i j _

/-- The sending of an END makes no check on a line whose sign-on does not wait (R71). -/
theorem State.recheck_reported (hw : (s.line i).state = .dialog → (s.line i).dialog.phase ≠ .waiting) :
    (s.reported i reports body).recheck i = s.reported i reports body := by
  refine if_neg ?_
  rw [State.line_reported, if_pos rfl]
  exact fun ⟨hs, hp⟩ => hw hs hp

end

/-- Settles O34: the first line with a report to give gives the first of its reports that may be sent (R72, R162, R163;
log 41). -/
theorem arbiterSendsLineReports : Obligations.ArbiterSendsLineReports := by
  intro s i d r after h hahead hd hi hbefore hr hafter
  subst hr hafter
  have report {reports : LineReports} {body : List Byte}
      (hx : (s.line i).reports.next s.link.mask (s.endHeld i) i = some (body, reports, false)) :=
    exec_arbiterChoice_report h hahead hd hi hbefore hx
  have held : s.EndHeldBack i → s.endHeld i = true := (s.endHeld_iff i).2
  refine ⟨fun e he hs hh hw => ?_, fun f hf hev => report (LineReports.next_signon hf hev),
    fun he hm f hf => report (LineReports.next_event (he.imp_right fun ⟨hs, hh⟩ => ⟨hs, held hh⟩) hm hf),
    fun he hs hev => ?_⟩
  · have hfree : s.endHeld i = false := Bool.eq_false_iff.2 (mt (s.endHeld_iff i).1 hh)
    rw [exec_arbiterChoice_end h hahead hd hi hbefore (LineReports.next_end he hs hfree), State.recheck_reported hw]
    rfl
  · have hnext := LineReports.next_noEvent (i := i) (he.imp_right held) hs hev
    refine ⟨fun f hf => report (hnext.trans ?_), fun ha hm f hf => report (hnext.trans ?_)⟩
    · rw [hf]; rfl
    · rw [ha, hm, hf]; rfl

end Sys2Proof.Machine
end


section
/-! The sign-on check and its outcomes (O53, O54). -/

namespace Sys2Proof.Machine

/-! ### What the check decides -/

/-- What the outcome `o` of a check does on line `i` (R69 to R72). -/
def State.decided (s : State) (i : LineId) : CheckOutcome → State
  | .invalid => s.invalidAttempt i
  | .refused a r k => s.refuseSignOn i a r k
  | .waits => s.updLine i Line.beginWaiting
  | .accepted a => s.accept i a

theorem State.signOn_eq (s : State) (i : LineId) : s.signOn i
    = (s.setLine i { s.line i with dialog := { (s.line i).dialog with matched := s.matchedName i } }).decided i
        (s.checkOutcome i) := by
  unfold State.signOn
  dsimp only
  cases s.checkOutcome i <;> rfl

section
variable {s : State} {i : LineId} {a : Account}

/-- The check reads of a line its dialog and its END (R68), so a line written before it changes nothing else. -/
theorem State.signOn_setLine {l : Line} (hd : l.dialog = (s.line i).dialog) (hr : l.reports = (s.line i).reports) :
    (s.setLine i l).signOn i
      = (s.setLine i { l with dialog := { l.dialog with matched := s.matchedName i } }).decided i
          (s.checkOutcome i) := by
  have hname : (s.setLine i l).matchedName i = s.matchedName i := by
    unfold State.matchedName
    rw [State.line_setLine, if_pos rfl, hd]
    rfl
  have hout : (s.setLine i l).checkOutcome i = s.checkOutcome i := by
    unfold State.checkOutcome
    rw [State.line_setLine, if_pos rfl, hd, hr]
    rfl
  rw [State.signOn_eq, hname, hout, State.line_setLine, if_pos rfl, State.setLine_setLine]

/-- Step 1 of the check failed (R68). -/
theorem State.checkOutcome_invalid (h : s.account? (s.line i).dialog.name = none
      ∨ ∃ a, s.account? (s.line i).dialog.name = some a
        ∧ (a.check ≠ checkValue (s.line i).dialog.name (s.line i).dialog.password ∨ a.state ≠ .opened)) :
    s.checkOutcome i = .invalid := by
  unfold State.checkOutcome
  dsimp only
  rcases h with h | ⟨a, h, hbad⟩
  · rw [h]
  · rw [h]; exact if_pos hbad

/-- Steps 2 to 6 of the check, in their order, where the name and the password are right (R68). -/
theorem State.checkOutcome_valid (ha : s.account? (s.line i).dialog.name = some a)
    (hc : a.check = checkValue (s.line i).dialog.name (s.line i).dialog.password) (ho : a.state = .opened) :
    s.checkOutcome i
      = if s.service ≠ .opened then .refused a .service 6
        else if 2048 ≤ s.store.sum then .refused a .storeFull 12
        else if a.bstate = .exhausted then .refused a .noFunds 4
        else if a.limit ≤ a.active then .refused a .limit 5
        else if (s.line i).reports.ended.isSome then .waits else .accepted a := by
  unfold State.checkOutcome
  dsimp only
  rw [ha]
  exact if_neg (not_or.2 ⟨not_not_intro hc, not_not_intro ho⟩)

/-- The first of steps 2 to 5 that fails refuses the line, with its reason and its text (R68, R70). -/
theorem State.checkOutcome_refused (ha : s.account? (s.line i).dialog.name = some a)
    (hc : a.check = checkValue (s.line i).dialog.name (s.line i).dialog.password) (ho : a.state = .opened)
    {text : Fin 16} {code : Byte}
    (h : s.service ≠ .opened ∧ text = 6 ∧ code = 1
      ∨ s.service = .opened ∧ 2048 ≤ s.store.sum ∧ text = 12 ∧ code = 2
      ∨ s.service = .opened ∧ s.store.sum < 2048 ∧ a.bstate = .exhausted ∧ text = 4 ∧ code = 3
      ∨ s.service = .opened ∧ s.store.sum < 2048 ∧ a.bstate ≠ .exhausted ∧ a.limit ≤ a.active ∧ text = 5
        ∧ code = 4) :
    ∃ r : RefusalReason, r.code = code ∧ s.checkOutcome i = .refused a r text := by
  rw [State.checkOutcome_valid ha hc ho]
  rcases h with ⟨hv, rfl, rfl⟩ | ⟨hv, hf, rfl, rfl⟩ | ⟨hv, hf, hb, rfl, rfl⟩ | ⟨hv, hf, hb, hl, rfl, rfl⟩
  · exact ⟨.service, rfl, if_pos hv⟩
  · exact ⟨.storeFull, rfl, by rw [if_neg (not_not_intro hv), if_pos hf]⟩
  · exact ⟨.noFunds, rfl, by rw [if_neg (not_not_intro hv), if_neg (Nat.not_le_of_lt hf), if_pos hb]⟩
  · exact ⟨.limit, rfl, by
      rw [if_neg (not_not_intro hv), if_neg (Nat.not_le_of_lt hf), if_neg hb, if_pos hl]⟩

/-- With steps 1 to 5 passed, an END still to be sent makes the sign-on wait (R68, R71). -/
theorem State.checkOutcome_passed (ha : s.account? (s.line i).dialog.name = some a)
    (hc : a.check = checkValue (s.line i).dialog.name (s.line i).dialog.password) (ho : a.state = .opened)
    (hv : s.service = .opened) (hf : s.store.sum < 2048) (hb : a.bstate ≠ .exhausted) (hl : a.active < a.limit) :
    s.checkOutcome i = if (s.line i).reports.ended.isSome then .waits else .accepted a := by
  rw [State.checkOutcome_valid ha hc ho, if_neg (not_not_intro hv), if_neg (Nat.not_le_of_lt hf), if_neg hb,
    if_neg (Nat.not_le_of_lt hl)]

end

/-! ### The command that makes the check -/

/-- A line as its check is decided: `rest` left in the FIFO, the echo of the CR in the `queue` or among the `lost`, the
name that it matched kept (R52, R68). -/
def Line.checked (l : Line) (rest queue : List Byte) (lost : Nat) (matched : Option Name) : Line :=
  { l with
    unit := { l.unit with fifo := rest }
    out := { l.out with queue := queue }
    tallies := { l.tallies with echoLost := lost }
    dialog := { l.dialog with matched := matched } }

/-- An echo changes the queue and the tally of echoes lost (R52). -/
theorem Line.dialogEcho_eq_checked (chars : List Byte) (l : Line) : ∃ queue lost,
    l.dialogEcho chars = l.checked l.unit.fifo queue lost l.dialog.matched := by
  unfold Line.dialogEcho Line.echo
  split
  · split
    · exact ⟨_, _, rfl⟩
    · exact ⟨_, _, rfl⟩
  · exact ⟨_, _, rfl⟩

theorem State.line_endSent (s : State) (i : LineId) (e : EndFlag) : (s.endSent i e).line i
    = { s.line i with reports := { (s.line i).reports with ended := none } } :=
  (State.line_reported s i { (s.line i).reports with ended := none } e.body i).trans (if_pos rfl)

section
variable {before s : State} {i : LineId} {c : Instr} {rest : List Byte}

/-- The line whose sign-on is checked is in DIALOG (R68). -/
theorem State.Checks.dialog (h : before.Checks i c s rest) : (s.line i).state = .dialog := by
  obtain ⟨-, hdialog, ⟨-, -, -, rfl⟩ | ⟨-, -, -, e, -, rfl⟩⟩ := h
  · exact hdialog
  · rw [State.line_endSent]; exact hdialog

/-- A CR in the PASSWORD phase is taken and echoed, and makes the check (R65, R68). -/
theorem exec_passwordCharacter_CR (h : s.mode = .running) (hs : (s.line i).state = .dialog)
    (hp : (s.line i).dialog.phase = .password) (hf : (s.line i).unit.fifo = 0x0D :: rest) :
    exec (.passwordCharacter i) s = .next ((s.setLine i (((s.line i).took rest).dialogEcho crLf)).signOn i) := by
  rw [exec, execPasswordCharacter, State.whenRunning_running h]
  dsimp only
  rw [hf]
  exact congrArg Host.Outcome.next ((if_pos ⟨hs, hp⟩).trans (if_pos rfl))

/-- The sending of the END that a waiting sign-on awaits makes the check again (R71). -/
theorem exec_arbiterChoice_awaited {e : EndFlag} (h : s.mode = .running) (hs : (s.line i).state = .dialog)
    (hp : (s.line i).dialog.phase = .waiting) (he : s.EndNext i e) :
    exec .arbiterChoice s = .next ((s.endSent i e).signOn i) := by
  obtain ⟨hahead, hended, hsignon, hheld, d, hd, hi, hbefore⟩ := he
  have hfree : s.endHeld i = false := Bool.eq_false_iff.2 (mt (s.endHeld_iff i).1 hheld)
  rw [exec_arbiterChoice_end h hahead hd hi hbefore (LineReports.next_end hended hsignon hfree)]
  refine congrArg Host.Outcome.next (if_pos ?_)
  rw [State.line_reported, if_pos rfl]
  exact ⟨hs, hp⟩

/-- A check is decided at once, whether a CR or the sending of an END makes it (R68, R71). -/
theorem exec_checks (h : before.Checks i c s rest) : ∃ queue lost, exec c before
    = .next ((s.setLine i ((s.line i).checked rest queue lost (s.matchedName i))).decided i (s.checkOutcome i)) := by
  obtain ⟨hrun, hdialog, ⟨rfl, hp, hf, rfl⟩ | ⟨rfl, hp, hf, e, hnext, rfl⟩⟩ := h
  · obtain ⟨queue, lost, hecho⟩ := Line.dialogEcho_eq_checked crLf ((s.line i).took rest)
    refine ⟨queue, lost, ?_⟩
    rw [exec_passwordCharacter_CR hrun hdialog hp hf, hecho, State.signOn_setLine (by exact rfl) (by exact rfl)]
    rfl
  · refine ⟨(before.line i).out.queue, (before.line i).tallies.echoLost, ?_⟩
    rw [exec_arbiterChoice_awaited hrun hdialog hp hnext, State.signOn_eq, State.line_endSent, ← hf]
    rfl

end

/-! ### Invalid attempts, refusals and the wait -/

section
variable {l : Line} {texts : Vector (List Byte) 16}

/-- Below the limit an invalid attempt takes the line back to NAME, text 3 ahead of the prompt due (R69). -/
theorem Line.invalidAttempt_again (hs : l.unit.speed ≠ none) (ht : expand none none (texts.get 3) ≠ [])
    (hn : l.dialog.attempts + 1 < l.dialog.attemptLimit) :
    l.invalidAttempt texts = { l with
      out := { l.out with noticeWait := expand none none (texts.get 3), waitPrompt := none }
      dialog := { l.dialog with
        attempts := l.dialog.attempts + 1, name := [], password := [], phase := .name, timer := l.dialog.timer.resume
        promptDue := some .user, nameEcho := [] } } := by
  rw [Line.invalidAttempt, Line.place_of_speed hs]
  exact (if_pos hn).trans (Line.placeDue_of_notice ht _)

/-- At the limit an invalid attempt refuses the line with text 3 and makes lockout due (R69). -/
theorem Line.invalidAttempt_last (hs : l.unit.speed ≠ none) (ht : expand none none (texts.get 3) ≠ [])
    (hn : l.dialog.attemptLimit ≤ l.dialog.attempts + 1) :
    l.Refused (expand none none (texts.get 3)) (l.invalidAttempt texts)
    ∧ (l.invalidAttempt texts).lockoutDue = true ∧ (l.invalidAttempt texts).reports = l.reports := by
  rw [Line.invalidAttempt, Line.place_of_speed hs, if_neg (Nat.not_lt_of_le hn), Line.toRejecting,
    Line.settle_of_notice (by exact ht)]
  exact ⟨⟨rfl, rfl, rfl, rfl, rfl, rfl, rfl, rfl, rfl, rfl, rfl, rfl⟩, rfl, rfl⟩

end

/-- An invalid attempt changes the line and the accounts (R69). -/
theorem State.invalidAttempt_eq (s : State) (i : LineId) : s.invalidAttempt i
    = State.setLine { s with accounts := (s.invalidAttempt i).accounts } i ((s.line i).invalidAttempt s.texts) := by
  unfold State.invalidAttempt
  cases s.account? (s.line i).dialog.name <;> rfl

/-- The accounts after an invalid attempt (R69). -/
theorem State.account?_invalidAttempt (s : State) (i : LineId) (m : Name) : (s.invalidAttempt i).account? m
    = if m = (s.line i).dialog.name then (s.account? (s.line i).dialog.name).map Account.fail else s.account? m := by
  unfold State.invalidAttempt
  cases ha : s.account? (s.line i).dialog.name with
  | none =>
    show s.account? m = _
    split
    next hm => rw [hm, ha]; rfl
    next => rfl
  | some a =>
    have hn : a.fail.name = (s.line i).dialog.name := by
      rw [← State.account?_name ha, Account.fail]; split <;> rfl
    exact (State.account?_putAccount ..).trans (by rw [hn]; rfl)

/-- A refusal changes the line, and the failures of the account (R70). -/
theorem State.refuseSignOn_eq (s : State) (i : LineId) (a : Account) (r : RefusalReason) (k : Fin 16) :
    s.refuseSignOn i a r k = (s.putAccount { a with failures := 0 }).setLine i
      (((s.line i).withEvent .refused r.code).place (s.textFor k (some a.budget) none)).toRejecting := by
  rw [← Line.raiseEvent_eq_withEvent, ← Line.raiseEvent_place]
  rfl

/-- Settles O54: the check finds its outcome by R68's order, and each outcome has its effect (R69 to R71). -/
theorem signOnFailsOrWaits : Obligations.SignOnFailsOrWaits := by
  intro before s i c l rest matched hchecks hl hsp hm
  subst hl hm
  have hdialog := hchecks.dialog
  obtain ⟨queue, lost, hexec⟩ := exec_checks hchecks
  set l0 := (s.line i).checked rest queue lost (s.matchedName i)
  have hl0i : (s.setLine i l0).line i = l0 := by simp
  rw [hexec]
  refine ⟨fun hbad ht => ?_, fun a ha hc ho => ⟨fun text code hwhy ht => ?_, fun hv hf hb hlim he => ?_⟩⟩
  · rw [State.checkOutcome_invalid hbad]
    have hacc := State.account?_invalidAttempt (s.setLine i l0) i
    rw [hl0i] at hacc
    have hline : ((s.setLine i l0).invalidAttempt i).line i = l0.invalidAttempt s.texts := by
      rw [State.invalidAttempt_eq, State.line_setLine, if_pos rfl, hl0i]; rfl
    refine ⟨_, rfl, ?_, fun j hj => ?_, fun m hm => (hacc m).trans (if_neg hm), ?_, fun hn => ?_, fun hn => ?_⟩
    · rw [State.decided, State.invalidAttempt_eq]; rfl
    · rw [State.decided, State.invalidAttempt_eq, State.line_setLine, if_neg hj]
      exact (State.line_setLine ..).trans (if_neg hj)
    · exact (hacc _).trans (if_pos rfl)
    · rw [State.decided, hline, Line.invalidAttempt_again (l := l0) hsp ht hn]
      refine ⟨hdialog, rfl, rfl, rfl, fun n ht => ?_, rfl, rfl, rfl, rfl, rfl⟩
      show (s.line i).dialog.timer.resume = _
      rcases ht with ht | ht <;> rw [ht] <;> rfl
    · rw [State.decided, hline]
      obtain ⟨hr, hdue, hrep⟩ := Line.invalidAttempt_last (l := l0) hsp ht hn
      exact ⟨hr.of_same rfl rfl rfl rfl, hdue, hrep⟩
  · obtain ⟨r, rfl, hout⟩ := State.checkOutcome_refused ha hc ho hwhy
    rw [hout, State.decided, State.refuseSignOn_eq, hl0i]
    have hn : a.name = (s.line i).dialog.name := State.account?_name ha
    obtain ⟨hr, -, -, -, hrep⟩ := Line.refused_place (l := l0.withEvent .refused r.code) (by exact hsp) ht
    refine ⟨_, rfl, rfl, fun j hj => ?_, ?_, fun m hm => ?_, ?_, ?_⟩
    · rw [State.line_setLine, if_neg hj]
      exact (State.line_setLine ..).trans (if_neg hj)
    · exact (State.account?_putAccount ..).trans (if_pos hn.symm)
    · exact (State.account?_putAccount ..).trans (if_neg (hn ▸ hm))
    · rw [State.line_setLine, if_pos rfl]
      exact hr.of_same rfl rfl rfl rfl
    · rw [State.line_setLine, if_pos rfl]
      exact hrep
  · rw [State.checkOutcome_passed ha hc ho hv hf hb hlim, if_pos (Option.isSome_iff_ne_none.2 he), State.decided,
      State.updLine, hl0i, State.setLine_setLine]
    refine ⟨_, rfl, rfl, fun j hj => (State.line_setLine ..).trans (if_neg hj), ?_⟩
    rw [State.line_setLine, if_pos rfl]
    refine ⟨hdialog, rfl, rfl, rfl, fun n ht => ?_⟩
    show (s.line i).dialog.timer.hold = _
    rw [ht]; rfl

end Sys2Proof.Machine
end


section
/-! An accepted sign-on (O53). -/

namespace Sys2Proof.Machine

/-! ### What an acceptance leaves as it is -/

/-- `t` is `s` but for accounts, store and lines. -/
def State.KeepsRest (s t : State) : Prop := { t with accounts := s.accounts, store := s.store, lines := s.lines } = s

theorem State.KeepsRest.trans {s t u : State} (h : s.KeepsRest t) (h' : t.KeepsRest u) : s.KeepsRest u := by
  have e : { u with accounts := s.accounts, store := s.store, lines := s.lines }
      = { t with accounts := s.accounts, store := s.store, lines := s.lines } :=
    congrArg (fun v => { v with accounts := s.accounts, store := s.store, lines := s.lines }) h'
  exact e.trans h

theorem State.keepsRest_setLine (s : State) (i : LineId) (l : Line) : s.KeepsRest (s.setLine i l) := rfl
theorem State.keepsRest_putAccount (s : State) (a : Account) : s.KeepsRest (s.putAccount a) := rfl
theorem State.keepsRest_store (s : State) (st : Store) : s.KeepsRest { s with store := st } := rfl

/-! ### The steps of an acceptance -/

/-- Step 1 of an acceptance (R72, R126). -/
def Line.nextGeneration (l : Line) : Line := { l with generation := l.generation + 1 }

/-- `s` after steps 1 and 2 of an acceptance: the generation raised, the account's place taken (R72). -/
def State.placeTaken (s : State) (i : LineId) (a : Account) : State :=
  (s.updLine i Line.nextGeneration).putAccount { a with active := a.active + 1 }

/-- The meter record of a session that the account `a` opens on line `i` (R110). -/
def State.newMeter (s : State) (i : LineId) (a : Account) (k : SpeedCode) (setup : Nat) : Meter :=
  Machine.newMeter a.name a.cls k s.clock setup (s.line i).config.inactivity

/-- `s` after steps 4 to 8 of an acceptance: the checkpoint entry, and the session on its line (R72). -/
def State.withSession (s : State) (i : LineId) (m : Meter) (k : SpeedCode) : State :=
  State.updLine { s with store := s.store.setCheckpoint i (some (newCheckpoint i m k)) } i (Line.accept i m k)

/-- Step 9 of an acceptance: the account's failures cleared (R72). -/
def State.clearFailures (s : State) (n : Name) : State :=
  match s.account? n with
  | some b => s.putAccount { b with failures := 0 }
  | none => s

/-- The effects of an acceptance's transition, if there is one, with the SIGNON of line `i` put ahead of every END that
they cause (R72; log 41). -/
def State.effectsAhead (i : LineId) (p : State × Option Transition) : State :=
  (State.applyEffects p).updLine i (Line.announceAhead (p.1.endedLines (State.applyEffects p)))

/-- `s`, the setup charge already debited, after steps 4 to 9 of the acceptance of `a`, whose entry is now `b` (R72). -/
def State.opened (s : State) (i : LineId) (a : Account) (k : SpeedCode) (setup : Nat) (b : Account) : State :=
  (s.withSession i (s.newMeter i a k setup) k).putAccount { b with failures := 0 }

section
variable {s d : State} {i : LineId} {a b : Account} {k : SpeedCode} {setup : Nat} {tr : Option Transition}

/-- An acceptance by its steps, from the state `d` that the setup charge leads to (R72). -/
theorem State.accept_eq (hk : (s.line i).unit.speed = some k)
    (hd : (s.placeTaken i a).debit a.name (s.setupCharge a.cls) = (d, tr)) (hb : d.account? a.name = some b) :
    s.accept i a = State.effectsAhead i (d.opened i a k (s.setupCharge a.cls) b, tr) := by
  have hk' : (s.line i).unit.speed.getD 0 = k := by rw [hk]; rfl
  have hsteps : s.accept i a = State.effectsAhead i
      ((((s.placeTaken i a).debit a.name (s.setupCharge a.cls)).1.withSession i
        (((s.placeTaken i a).debit a.name (s.setupCharge a.cls)).1.newMeter i a ((s.line i).unit.speed.getD 0)
          (s.setupCharge a.cls)) ((s.line i).unit.speed.getD 0)).clearFailures a.name,
        ((s.placeTaken i a).debit a.name (s.setupCharge a.cls)).2) := rfl
  have hclear : (d.withSession i (d.newMeter i a k (s.setupCharge a.cls)) k).clearFailures a.name
      = d.opened i a k (s.setupCharge a.cls) b := by
    unfold State.clearFailures
    rw [show (d.withSession i _ k).account? a.name = some b from hb]
    rfl
  rw [hsteps, hd, hk', hclear]

/-- The line on which a session is opened, and the others (R72). -/
theorem State.line_opened (s : State) (i : LineId) (a : Account) (k : SpeedCode) (setup : Nat) (b : Account)
    (j : LineId) : (s.opened i a k setup b).line j
      = if j = i then (s.line i).accept i (s.newMeter i a k setup) k else s.line j :=
  State.line_updLine ..

theorem State.account?_opened (s : State) (i : LineId) (a : Account) (k : SpeedCode) (setup : Nat) (b : Account)
    (m : Name) : (s.opened i a k setup b).account? m
      = if m = b.name then some { b with failures := 0 } else s.account? m :=
  State.account?_putAccount ..

theorem State.keepsRest_opened (s : State) (i : LineId) (a : Account) (k : SpeedCode) (setup : Nat) (b : Account) :
    s.KeepsRest (s.opened i a k setup b) :=
  ((s.keepsRest_store _).trans (State.keepsRest_setLine _ i _)).trans (State.keepsRest_putAccount ..)

theorem State.keepsRest_placeTaken (s : State) (i : LineId) (a : Account) : s.KeepsRest (s.placeTaken i a) :=
  (s.keepsRest_setLine i _).trans (State.keepsRest_putAccount ..)

theorem State.line_placeTaken (s : State) (i : LineId) (a : Account) (j : LineId) :
    (s.placeTaken i a).line j = if j = i then (s.line i).nextGeneration else s.line j :=
  State.line_updLine ..

theorem State.account?_placeTaken (s : State) (i : LineId) (a : Account) (m : Name) : (s.placeTaken i a).account? m
    = if m = a.name then some { a with active := a.active + 1 } else s.account? m :=
  State.account?_putAccount ..

theorem State.setupCharge_eq {tariff : Tariff} (ht : s.tariff = some tariff) (c : Cls) :
    s.setupCharge c = tariff.setup.get c := by
  rw [State.setupCharge, ht]

end

/-- With no transition an acceptance ends no session, so its SIGNON precedes no END (R72). -/
theorem State.effectsAhead_none {s : State} {i : LineId} {f : SignonFlag} (h : (s.line i).reports.signon = some f)
    (hf : f.ahead = []) : State.effectsAhead i (s, none) = s := by
  have hno : s.endedLines s = [] := by
    refine List.filter_eq_nil_iff.2 fun j _ => ?_
    cases (s.line j).session <;> simp
  have hl : (s.line i).announceAhead [] = s.line i := by
    have hs : (s.line i).reports.signon.map (fun f => { f with ahead := [] }) = (s.line i).reports.signon := by
      rw [h, Option.map_some, ← hf]
    rw [Line.announceAhead, hs]
  rw [State.effectsAhead]
  show s.setLine i ((s.line i).announceAhead (s.endedLines s)) = s
  rw [hno, hl, State.setLine_self]

/-- An account that has taken a place and paid a setup charge (R72, R119). -/
def Account.seated (a : Account) (budget : Int) : Account := { a with active := a.active + 1, budget := budget }

/-- An acceptance whose setup charge makes no transition (R72). -/
theorem State.accept_quiet {s : State} {i : LineId} {a : Account} {k : SpeedCode} {tariff : Tariff} {budget : Int}
    (ht : s.tariff = some tariff) (hk : (s.line i).unit.speed = some k)
    (hb : budget = clampBudget (a.budget - tariff.setup.get a.cls))
    (hq : s.stateOfBudget budget a.overdraft a.cls = a.bstate) :
    s.accept i a = ((s.placeTaken i a).putAccount (a.seated budget)).opened i a k (tariff.setup.get a.cls)
      (a.seated budget) := by
  have hplace : (s.placeTaken i a).account? a.name = some { a with active := a.active + 1 } :=
    (State.account?_placeTaken ..).trans (if_pos rfl)
  have hpaid : ((s.placeTaken i a).putAccount (a.seated budget)).account? a.name = some (a.seated budget) :=
    (State.account?_putAccount ..).trans (if_pos rfl)
  rw [← State.setupCharge_eq ht] at hb ⊢
  have hline := State.line_opened ((s.placeTaken i a).putAccount (a.seated budget)) i a k (s.setupCharge a.cls)
    (a.seated budget) i
  rw [if_pos rfl] at hline
  rw [State.accept_eq hk (State.debit_quiet hplace hb hq) hpaid]
  exact State.effectsAhead_none (congrArg (·.reports.signon) hline) rfl

theorem Store.setCheckpoint_get (st : Store) (i j : LineId) (c : Option Charge) :
    (st.setCheckpoint i c).checkpoints.get j = if j = i then c else st.checkpoints.get j := by
  show (st.checkpoints.set i.val c i.isLt).get j = _
  simp only [Vector.get_eq_getElem, Vector.getElem_set, Fin.val_inj, @eq_comm _ i j]

/-- Settles O53: the check accepts, and the steps of R72 open the session. -/
theorem acceptedSignOnOpensTheSession : Obligations.AcceptedSignOnOpensTheSession := by
  intro before s i c l rest a tariff k setup budget gen meter hchecks hl ha hc ho hv hf hbs hlim he ht hk hsetup hb hq
    hgen hmeter
  subst hl hsetup hgen hmeter
  have hn : a.name = (s.line i).dialog.name := State.account?_name ha
  obtain ⟨queue, lost, hexec⟩ := exec_checks hchecks
  rw [State.checkOutcome_passed ha hc ho hv hf hbs hlim, he, if_neg nofun, State.decided] at hexec
  set l0 := (s.line i).checked rest queue lost (s.matchedName i)
  have hl0 : (s.setLine i l0).line i = l0 := by simp
  have haccept := State.accept_quiet (s := s.setLine i l0) (i := i) (a := a) ht (k := k) (by rw [hl0]; exact hk) hb hq
  rw [haccept] at hexec
  refine ⟨_, hexec, ?_, fun m hm => ?_, fun j => ?_, ?_, rfl, fun j hj => ?_, ?_⟩
  · exact (State.account?_opened ..).trans (if_pos hn.symm)
  · have hm : m ≠ a.name := hn ▸ hm
    exact (State.account?_opened ..).trans ((if_neg hm).trans ((State.account?_putAccount ..).trans ((if_neg hm).trans
      ((State.account?_placeTaken ..).trans (if_neg hm)))))
  · refine (Store.setCheckpoint_get ..).trans (if_congr Iff.rfl ?_ rfl)
    rw [← hn, State.newMeter, State.line_putAccount, State.line_placeTaken, if_pos rfl, hl0]; rfl
  · exact (s.keepsRest_setLine i l0).trans ((State.keepsRest_placeTaken ..).trans
      ((State.keepsRest_putAccount ..).trans (State.keepsRest_opened ..)))
  · rw [State.line_opened, if_neg hj, State.line_putAccount, State.line_placeTaken, if_neg hj, State.line_setLine,
      if_neg hj]
  · rw [State.line_opened, if_pos rfl, State.newMeter, State.line_putAccount, State.line_placeTaken, if_pos rfl, hl0,
      ← hn]
    exact ⟨rfl, rfl, rfl, rfl, rfl, rfl, rfl, rfl, rfl, rfl⟩

end Sys2Proof.Machine
end


section
/-! Debits that make a transition, and what the transition does to the account's sessions (R81 to R85). -/

namespace Sys2Proof.Machine

/-! ### The debit -/

/-- An account that a debit has left at `budget` and in the budget state `st`, its BUDGET flag set (R81, R85). -/
def Account.turned (a : Account) (budget : Int) (st : BudgetState) : Account :=
  { a with budget := budget, bstate := st, notice := some (a.flagAfter budget st) }

/-- `s` after a debit that leaves the account `a` at `budget` and makes a transition to `st` (R80, R81, R163). -/
def State.turned (s : State) (a : Account) (budget : Int) (st : BudgetState) : State :=
  { (s.putAccount { a with budget := budget }).putAccount (a.turned budget st) with
    link := { s.link with
      budgetOrder := if a.notice.isNone then s.link.budgetOrder ++ [a.name] else s.link.budgetOrder } }

section
variable {s : State} {n : Name} {a : Account} {amount budget : Int} {st : BudgetState}

theorem State.account?_turned (m : Name) :
    (s.turned a budget st).account? m = if m = a.name then some (a.turned budget st) else s.account? m := by
  by_cases hm : m = a.name
  · exact (State.account?_putAccount ..).trans ((if_pos hm).trans (if_pos hm).symm)
  · exact (State.account?_putAccount ..).trans ((if_neg hm).trans ((State.account?_putAccount ..).trans
      ((if_neg hm).trans (if_neg hm).symm)))

/-- A debit that changes the budget state (R80, R81). -/
theorem State.debit_turned (ha : s.account? n = some a) (hb : budget = clampBudget (a.budget - amount))
    (hst : st = s.stateOfBudget budget a.overdraft a.cls) (hne : st ≠ a.bstate) :
    s.debit n amount = (s.turned a budget st, some ⟨n, a.bstate, st⟩) := by
  obtain rfl : a.name = n := State.account?_name ha
  have hpaid : (s.putAccount { a with budget := budget }).account? a.name = some { a with budget := budget } :=
    (State.account?_putAccount ..).trans (if_pos rfl)
  have hst' : budgetStateOf budget a.overdraft ((s.putAccount { a with budget := budget }).warnLevel a.cls) = st :=
    (s.budgetStateOf_eq ..).trans hst.symm
  have hflag : raiseBudget a.notice budget st = a.flagAfter budget st := by
    cases ha : a.notice <;> simp [raiseBudget, Account.flagAfter, ha, satAdd, max8]
  rw [State.debit, ha]
  dsimp only
  rw [satBudget_eq_clampBudget, ← hb, State.reevaluate, hpaid]
  dsimp only
  rw [hst', if_neg hne, hflag]
  rfl

end

/-! ### The sessions of an account -/

theorem State.nodup_sessionsOf (s : State) (n : Name) : (s.sessionsOf n).Nodup := s.nodup_meteredLines.filter _

/-- The sessions of an account are found by line state and session account alone. -/
theorem State.sessionsOf_congr {s t : State}
    (h : ∀ j, (t.line j).state.metered = (s.line j).state.metered ∧ (t.line j).account? = (s.line j).account?)
    (n : Name) : t.sessionsOf n = s.sessionsOf n := by
  have hm : t.meteredLines = s.meteredLines := List.filter_congr fun j _ => (h j).1
  rw [State.sessionsOf, State.sessionsOf, hm]
  exact List.filter_congr fun j _ => by rw [(h j).2]

/-- A line with the text `chars` placed (R55, R58). -/
theorem Line.place_eq (chars : List Byte) (l : Line) : l.place chars = if l.unit.speed = none then l
    else { l with out := { l.out with noticeWait := chars, waitPrompt := none } } := by
  unfold Line.place
  cases l.unit.speed <;> simp

/-- The account of a session is not changed with its meter. -/
theorem Line.account?_updMeter {f : Meter → Meter} (hf : ∀ m, (f m).account = m.account) (l : Line) :
    (l.updMeter f).account? = l.account? := by
  cases h : l.session <;> simp [Line.updMeter, Line.account?, h, hf]

theorem Line.account?_leaveGrace (l : Line) : l.leaveGrace.account? = l.account? :=
  Line.account?_updMeter (f := fun m => { m with grace := none }) (fun _ => rfl) (l.goto .active)

theorem Line.units?_enterGrace (g : Nat) (l : Line) : (l.enterGrace g).units? = l.units? := by
  cases h : l.session <;> simp [Line.enterGrace, Line.updMeter, Line.goto, Line.units?, h]

/-- The grace of a session does not depend on the notice placed. -/
theorem Line.enterGrace_place (g : Nat) (chars : List Byte) (l : Line) :
    (l.place chars).enterGrace g = (l.enterGrace g).place chars := by
  rw [Line.place_eq, Line.place_eq]
  by_cases h : l.unit.speed = none
  · rw [if_pos h, if_pos (show (l.enterGrace g).unit.speed = none from h)]
  · rw [if_neg h, if_neg (show ¬ (l.enterGrace g).unit.speed = none from h)]; rfl

section
variable (s : State) (n : Name) (k : Fin 16) (j : LineId)

/-- The notice of text `k` on a line of the account, with the account at `budget` (R60, R82). -/
def State.noticed (budget : Option Int) (l : Line) : Line := l.place (s.textFor k budget l.units?)

theorem State.line_noticeSessions : (s.noticeSessions n k).line j
    = if j ∈ s.sessionsOf n then s.noticed k ((s.account? n).map Account.budget) (s.line j) else s.line j :=
  s.line_updLines (s.nodup_sessionsOf n) _ j

theorem State.account?_noticeSessions (m : Name) : (s.noticeSessions n k).account? m = s.account? m := by
  rw [State.noticeSessions, State.updLines_eq]; rfl

theorem State.noticeSessions_tariff : (s.noticeSessions n k).tariff = s.tariff := by
  rw [State.noticeSessions, State.updLines_eq]

theorem State.sessionsOf_noticeSessions : (s.noticeSessions n k).sessionsOf n = s.sessionsOf n := by
  refine State.sessionsOf_congr (fun j => ?_) n
  rw [State.line_noticeSessions]
  split
  · simp [State.noticed, Line.account?]
  · exact ⟨rfl, rfl⟩

theorem State.line_endGrace : (s.endGrace n).line j
    = if j ∈ s.sessionsOf n then (s.line j).leaveGrace else s.line j :=
  s.line_updLines (s.nodup_sessionsOf n) _ j

theorem State.account?_endGrace (m : Name) : (s.endGrace n).account? m = s.account? m := by
  rw [State.endGrace, State.updLines_eq]; rfl

theorem State.endGrace_texts : (s.endGrace n).texts = s.texts := by rw [State.endGrace, State.updLines_eq]

theorem State.sessionsOf_endGrace : (s.endGrace n).sessionsOf n = s.sessionsOf n := by
  refine State.sessionsOf_congr (fun j => ?_) n
  rw [State.line_endGrace]
  split
  next hj => exact ⟨((State.mem_sessionsOf ..).1 hj).1.symm, Line.account?_leaveGrace _⟩
  next => exact ⟨rfl, rfl⟩

end

/-! ### The effects of a transition, no session ending -/

section
variable {s : State} {n : Name} {budget : Int} {tariff : Tariff} {old new : BudgetState}

theorem State.graceTime_eq (ht : s.tariff = some tariff) : s.graceTime = tariff.grace := by
  rw [State.graceTime, ht]

theorem State.line_beginGrace (ht : s.tariff = some tariff) (hg : tariff.grace ≠ 0) (j : LineId) :
    (s.beginGrace n).line j = if j ∈ s.sessionsOf n then (s.line j).enterGrace tariff.grace else s.line j := by
  rw [State.beginGrace, State.graceTime_eq ht, if_neg hg]
  exact s.line_updLines (s.nodup_sessionsOf n) _ j

/-- A transition that ends no session leaves the accounts as they are (R82). -/
theorem State.account?_applyTransition (ht : s.tariff = some tariff) (hg : new = .exhausted → tariff.grace ≠ 0)
    (m : Name) : (s.applyTransition ⟨n, old, new⟩).account? m = s.account? m := by
  have grace (hnew : new = .exhausted) : ((s.noticeSessions n 8).beginGrace n).account? m = s.account? m := by
    have ht' := (s.noticeSessions_tariff n 8).trans ht
    rw [State.beginGrace, State.graceTime_eq ht', if_neg (hg hnew), State.updLines_eq]
    exact s.account?_noticeSessions n 8 m
  have restored : ((s.endGrace n).noticeSessions n 13).account? m = s.account? m :=
    ((s.endGrace n).account?_noticeSessions n 13 m).trans (s.account?_endGrace n m)
  cases old <;> cases new
  case normal.warned => exact s.account?_noticeSessions n 7 m
  case normal.exhausted | warned.exhausted => exact grace rfl
  case exhausted.normal | exhausted.warned => exact restored
  all_goals rfl

/-- What a transition that ends no session does to each line (R82 to R84). -/
theorem State.line_applyTransition (hb : (s.account? n).map Account.budget = some budget)
    (ht : s.tariff = some tariff) (hg : new = .exhausted → tariff.grace ≠ 0) (j : LineId) :
    (s.applyTransition ⟨n, old, new⟩).line j
      = if j ∈ s.sessionsOf n then s.lineAfter old new budget (s.line j) else s.line j := by
  have warned : (s.noticeSessions n 7).line j
      = if j ∈ s.sessionsOf n then s.lineAfter .normal .warned budget (s.line j) else s.line j := by
    rw [State.line_noticeSessions, hb, State.noticed, Line.place_eq]; rfl
  have grace (hnew : new = .exhausted) : ((s.noticeSessions n 8).beginGrace n).line j
      = if j ∈ s.sessionsOf n then s.lineAfter .normal .exhausted budget (s.line j) else s.line j := by
    rw [State.line_beginGrace ((s.noticeSessions_tariff n 8).trans ht) (hg hnew), State.sessionsOf_noticeSessions,
      State.line_noticeSessions, hb]
    split
    · rw [State.noticed, Line.enterGrace_place, ← Line.units?_enterGrace tariff.grace, Line.place_eq, State.lineAfter,
        ht]
      rfl
    · rfl
  have restored : ((s.endGrace n).noticeSessions n 13).line j
      = if j ∈ s.sessionsOf n then s.lineAfter .exhausted .normal budget (s.line j) else s.line j := by
    rw [State.line_noticeSessions, State.sessionsOf_endGrace, State.account?_endGrace, hb, State.line_endGrace]
    split
    · rw [State.noticed, Line.place_eq, State.textFor, State.endGrace_texts]; rfl
    · rfl
  cases old <;> cases new
  case normal.warned => exact warned
  case normal.exhausted | warned.exhausted => exact grace rfl
  case exhausted.normal | exhausted.warned => exact restored
  all_goals exact (ite_self _).symm

end

end Sys2Proof.Machine
end


section
/-! The end of a session whose closing debit makes a transition, and the ends that an account exhausted without a grace
time brings (O59). -/

namespace Sys2Proof.Machine

/-! ### The closing debit -/

/-- `s`, the closing debit already made, after steps 2 and 3 of the end sequence: the charge appended, the place of the
account, whose entry is `b`, given back (R131). -/
def State.recorded (s : State) (i : LineId) (b : Account) (r : EndReason) (charge : Charge) : State :=
  State.putAccount (State.testChargeLevel { s with store := s.store.append i charge r false })
    { b with active := b.active - 1 }

theorem State.recorded_line (s : State) (i : LineId) (b : Account) (r : EndReason) (charge : Charge) (j : LineId) :
    (s.recorded i b r charge).line j = s.line j :=
  State.line_congr (by simp [State.recorded]) j

theorem State.recorded_account? (s : State) (i : LineId) (b : Account) (r : EndReason) (charge : Charge) (m : Name) :
    (s.recorded i b r charge).account? m
      = if m = b.name then some { b with active := b.active - 1 } else s.account? m := by
  rw [State.recorded, State.account?_putAccount, State.account?_congr (State.testChargeLevel_accounts _)]
  rfl

theorem State.recorded_texts (s : State) (i : LineId) (b : Account) (r : EndReason) (charge : Charge) :
    (s.recorded i b r charge).texts = s.texts := by simp [State.recorded]

theorem State.recorded_tariff (s : State) (i : LineId) (b : Account) (r : EndReason) (charge : Charge) :
    (s.recorded i b r charge).tariff = s.tariff := by simp [State.recorded]

/-- The session `ses` of line `i` closes with the rounding unit `ru`, which leaves the account `a` at `budget` and takes
it to the budget state `st` (R120). -/
structure State.ClosesTurning (s : State) (i : LineId) (ses : Session) (a : Account) (tariff : Tariff) (ru : Nat)
    (budget : Int) (st : BudgetState) : Prop where
  session : (s.line i).session = some ses
  account : s.account? ses.meter.account = some a
  inForce : s.tariff = some tariff
  rounded : ru = roundingUnitOf tariff.rounding ses.meter.residue
  paid : budget = clampBudget (a.budget - ru)
  state : st = s.stateOfBudget budget a.overdraft a.cls
  turned : st ≠ a.bstate

/-- The state after the end sequence of a session whose closing debit makes a transition, the transition's effects still
to come (R131). -/
def State.endedTurning (s : State) (i : LineId) (ses : Session) (a : Account) (budget : Int) (st : BudgetState)
    (charge : Charge) (r : EndReason) (keep : Bool) : State :=
  ((s.turned a budget st).recorded i (a.turned budget st) r charge).setLine i
    (s.endedLine i ses r keep budget charge)

section
variable {s : State} {i : LineId} {ses : Session} {a : Account} {tariff : Tariff} {budget : Int} {st : BudgetState}
  {ru : Nat} {charge : Charge}

/-- The end sequence where the closing debit makes a transition (R131). -/
theorem State.endSession_turning (h : s.ClosesTurning i ses a tariff ru budget st) (r : EndReason) (keep : Bool) :
    s.endSession i r keep = (s.endedTurning i ses a budget st (s.closed i ses.meter ru) r keep,
      some ⟨ses.meter.account, a.bstate, st⟩) := by
  obtain ⟨hs, ha, ht, hunit, hb, hst, hne⟩ := h
  have hru : s.roundingUnit ses.meter.residue = ru := by
    rw [State.roundingUnit, ht, hunit]; exact Rounding.unit_eq ..
  have hn : ses.meter.account = a.name := (State.account?_name ha).symm
  have place (c : Charge) : (State.testChargeLevel { s.turned a budget st with
      store := s.store.append i c r false }).account? ses.meter.account = some (a.turned budget st) := by
    rw [State.account?_congr (State.testChargeLevel_accounts _)]
    exact (State.account?_turned ..).trans (if_pos hn)
  unfold State.endSession
  rw [hs]
  dsimp only
  rw [hru, State.debit_turned ha hb hst hne]
  dsimp only
  rw [show (s.turned a budget st).store = s.store from rfl, place]
  refine Prod.ext (State.endSteps_eq (s := s) (i := i) (n := ses.meter.account) (budget := budget) (ses := ses) (r := r)
    (keep := keep) (charge := s.closed i ses.meter ru)
    (c := (s.turned a budget st).recorded i (a.turned budget st) r (s.closed i ses.meter ru))
    (State.recorded_line ..) (State.recorded_texts ..)
    (by rw [State.recorded_account?, if_pos (by exact hn)]; rfl) ?_) rfl
  exact congrArg (fun l : Line => (s.line i).endInput ses keep fun lost =>
    ⟨tagOf i l.generation, r, s.store.nextSerial, (s.closed i ses.meter ru).units, ses.meter.seconds, lost⟩)
    (State.recorded_line (s.turned a budget st) i (a.turned budget st) r (s.closed i ses.meter ru) i)

theorem State.line_endedTurning (r : EndReason) (keep : Bool) (j : LineId) :
    (s.endedTurning i ses a budget st charge r keep).line j
      = if j = i then s.endedLine i ses r keep budget charge else s.line j :=
  (State.line_setLine ..).trans (by rw [State.recorded_line]; rfl)

theorem State.account?_endedTurning (r : EndReason) (keep : Bool) (m : Name) :
    (s.endedTurning i ses a budget st charge r keep).account? m
      = if m = a.name then some { a.turned budget st with active := a.active - 1 } else s.account? m := by
  refine (State.recorded_account? ..).trans ?_
  by_cases hm : m = a.name
  · exact (if_pos hm).trans (if_pos hm).symm
  · exact (if_neg hm).trans ((State.account?_turned m).trans ((if_neg hm).trans (if_neg hm).symm))

theorem State.endedTurning_texts (r : EndReason) (keep : Bool) :
    (s.endedTurning i ses a budget st charge r keep).texts = s.texts :=
  State.recorded_texts (s.turned a budget st) i (a.turned budget st) r charge

theorem State.endedTurning_tariff (r : EndReason) (keep : Bool) :
    (s.endedTurning i ses a budget st charge r keep).tariff = s.tariff :=
  State.recorded_tariff (s.turned a budget st) i (a.turned budget st) r charge

theorem State.endedLine_session (r : EndReason) (keep : Bool) :
    (s.endedLine i ses r keep budget charge).session = none := by
  unfold State.endedLine; cases r.text <;> simp

theorem State.endedLine_state (r : EndReason) (keep : Bool) :
    (s.endedLine i ses r keep budget charge).state = .draining
      ∨ (s.endedLine i ses r keep budget charge).state = .hangup := Line.endMove_state ..

/-- The sessions left to the account when the session of line `i` has ended. -/
theorem State.mem_sessionsOf_endedTurning (r : EndReason) (keep : Bool) (n : Name) (j : LineId) :
    j ∈ (s.endedTurning i ses a budget st charge r keep).sessionsOf n ↔ j ≠ i ∧ j ∈ s.sessionsOf n := by
  rw [State.mem_sessionsOf, State.mem_sessionsOf, State.line_endedTurning]
  by_cases hj : j = i
  · rw [if_pos hj]
    have hm : (s.endedLine i ses r keep budget charge).state.metered = false := by
      have hstate : (s.endedLine i ses r keep budget charge).state = .draining ∨ _ := State.endedLine_state ..
      rcases hstate with h | h <;> rw [h] <;> rfl
    simp [hj, hm]
  · simp [hj]

end

/-! ### The sessions of an account exhausted without a grace time -/

/-- An account that no further debit takes out of EXHAUSTED, its BUDGET flag `flag` (R81). -/
structure Account.Spent (b : Account) (flag : BudgetFlag) : Prop where
  exhausted : b.bstate = .exhausted
  notice : b.notice = some flag
  below : b.budget < -(b.overdraft : Int)
  bounded : -2147483648 ≤ b.budget

theorem Account.Spent.pay {b : Account} {flag : BudgetFlag} (h : b.Spent flag) (ru : Nat) :
    Account.Spent { b with budget := clampBudget (b.budget - ru), active := b.active - 1 } flag := by
  obtain ⟨he, hn, hb, hlo⟩ := h
  refine ⟨he, hn, ?_, ?_⟩
  · show clampBudget (b.budget - ru) < -(b.overdraft : Int)
    unfold clampBudget; omega
  · show _ ≤ clampBudget (b.budget - ru)
    unfold clampBudget; omega

/-- What the end of a session for `r` leaves on its line `i`: no session, DRAINING or HANGUP, and END, the SIGNON as it
was (R131, R133). -/
structure Line.EndedFor (i : LineId) (r : EndReason) (old new : Line) : Prop where
  session : new.session = none
  moved : new.state = .draining ∨ new.state = .hangup
  signon : new.reports.signon = old.reports.signon
  ended : ∃ e, new.reports.ended = some e ∧ e.reason = r ∧ e.tag = tagOf i old.generation

/-- What the ends of the sessions `is` of the account `n`, which stays exhausted, make of `s` (R83). -/
structure State.AllEnded (s t : State) (n : Name) (flag : BudgetFlag) (is : List LineId) : Prop where
  spent : ∃ b, t.account? n = some b ∧ b.Spent flag
  others : ∀ m, m ≠ n → t.account? m = s.account? m
  kept : ∀ j, j ∉ is → t.line j = s.line j
  ended : ∀ j ∈ is, (s.line j).EndedFor j .budget (t.line j)

/-- One such end (R83, R131). -/
theorem State.endSession_spent {s : State} {n : Name} {i : LineId} {b : Account} {tariff : Tariff} {flag : BudgetFlag}
    (ht : s.tariff = some tariff) (hb : s.account? n = some b) (hspent : b.Spent flag)
    (hi : (s.line i).account? = some n) :
    s.AllEnded (s.endSession i .budget false).1 n flag [i] ∧ (s.endSession i .budget false).1.tariff = some tariff := by
  obtain ⟨ses, hses, rfl⟩ := Option.map_eq_some_iff.1 hi
  have hn : ses.meter.account = b.name := (State.account?_name hb).symm
  obtain ⟨ru, hru⟩ : ∃ ru, ru = roundingUnitOf tariff.rounding ses.meter.residue := ⟨_, rfl⟩
  obtain ⟨paid, hpaid⟩ : ∃ paid, paid = clampBudget (b.budget - ru) := ⟨_, rfl⟩
  have hspent' := hpaid ▸ hspent.pay ru
  have hquiet : s.ClosesQuietly i ses b paid (s.closed i ses.meter ru) :=
    ⟨hses, hb, ⟨tariff, ru, ht, hru, hpaid, rfl⟩, (if_pos hspent'.below).trans hspent'.exhausted.symm⟩
  have hend := s.sessionEnded_quiet i ses b paid (s.closed i ses.meter ru) .budget false
  have hsignon := congrArg LineReports.signon hend.reports
  have hended := congrArg LineReports.ended hend.reports
  rw [State.endSession_quiet hquiet]
  refine ⟨⟨⟨_, (State.closedOut_account? ..).trans (if_pos hn), hspent'⟩,
    fun m hm => (State.closedOut_account? ..).trans (if_neg (hn ▸ hm)), fun j hj => ?_, fun j hj => ?_⟩, ?_⟩
  · simp [List.mem_singleton.not.1 hj]
  · obtain rfl := List.mem_singleton.1 hj
    exact ⟨hend.session, hend.moved, hsignon, _, hended, rfl, rfl⟩
  · simp [ht]

/-- The ends of several sessions, one after another (R83). -/
theorem State.endEach_spent {s : State} {n : Name} {tariff : Tariff} {flag : BudgetFlag} {is : List LineId}
    (hnd : is.Nodup) (ht : s.tariff = some tariff) (hspent : ∃ b, s.account? n = some b ∧ b.Spent flag)
    (hin : ∀ j ∈ is, (s.line j).account? = some n) : s.AllEnded (s.endEach .budget is) n flag is := by
  induction is generalizing s with
  | nil => exact ⟨hspent, fun _ _ => rfl, fun _ _ => rfl, nofun⟩
  | cons i is ih =>
    obtain ⟨hni, hnd⟩ := List.nodup_cons.1 hnd
    obtain ⟨b, hb, hsp⟩ := hspent
    obtain ⟨hone, ht'⟩ := State.endSession_spent ht hb hsp (hin i (List.mem_cons_self ..))
    have hkept {j : LineId} (hj : j ≠ i) : (s.endSession i .budget false).1.line j = s.line j :=
      hone.kept j (by simpa using hj)
    have hne {j : LineId} (hj : j ∈ is) : j ≠ i := fun e => hni (e ▸ hj)
    have hrest := ih hnd ht' hone.spent fun j hj => by
      rw [hkept (hne hj)]; exact hin j (List.mem_cons_of_mem _ hj)
    refine ⟨hrest.spent, fun m hm => (hrest.others m hm).trans (hone.others m hm), fun j hj => ?_, fun j hj => ?_⟩
    · obtain ⟨hji, hjis⟩ := not_or.1 (mt List.mem_cons.2 hj)
      exact (hrest.kept j hjis).trans (hkept hji)
    · rcases List.mem_cons.1 hj with rfl | hjis
      · have := hone.ended j (List.mem_singleton_self j)
        rwa [← hrest.kept j hni] at this
      · have := hrest.ended j hjis
        rwa [hkept (hne hjis)] at this

/-- The entry of an account into EXHAUSTED without a grace time ends all its sessions (R83). -/
theorem State.applyTransition_graceless {s : State} {n : Name} {tariff : Tariff} {flag : BudgetFlag} {old : BudgetState}
    (hold : old ≠ .exhausted) (ht : s.tariff = some tariff) (hg : tariff.grace = 0)
    (hspent : ∃ b, s.account? n = some b ∧ b.Spent flag) :
    s.AllEnded (s.applyTransition ⟨n, old, .exhausted⟩) n flag (s.sessionsOf n) := by
  have heff : s.applyTransition ⟨n, old, .exhausted⟩ = (s.noticeSessions n 8).beginGrace n := by
    cases old
    case exhausted => exact absurd rfl hold
    all_goals rfl
  have ht' := (s.noticeSessions_tariff n 8).trans ht
  have hperm := (State.takeOrder_spec (fun i : LineId => i.val) (s.nodup_sessionsOf n) (s.noticeSessions n 8)).1
  have hall := State.endEach_spent
    (s := ((s.noticeSessions n 8).takeOrder (fun i : LineId => i.val) (s.sessionsOf n)).2) (flag := flag)
    (hperm.nodup_iff.2 (s.nodup_sessionsOf n)) ht'
    (by obtain ⟨b, hb, hsp⟩ := hspent; exact ⟨b, (s.account?_noticeSessions n 8 n).trans hb, hsp⟩)
    fun j hj => by
      have hj := hperm.mem_iff.1 hj
      rw [← State.sessionsOf_noticeSessions s n 8] at hj
      exact ((State.mem_sessionsOf ..).1 hj).2
  rw [heff, State.beginGrace, State.graceTime_eq ht', if_pos hg, State.sessionsOf_noticeSessions]
  refine ⟨hall.spent, fun m hm => (hall.others m hm).trans (s.account?_noticeSessions n 8 m), fun j hj => ?_,
    fun j hj => ?_⟩
  · exact (hall.kept j (mt hperm.mem_iff.1 hj)).trans ((State.line_noticeSessions ..).trans (if_neg hj))
  · obtain ⟨hs, hm, hsig, hend⟩ := hall.ended j (hperm.mem_iff.2 hj)
    have hline : ((s.noticeSessions n 8).takeOrder (fun i : LineId => i.val) (s.sessionsOf n)).2.line j
        = s.noticed 8 ((s.account? n).map Account.budget) (s.line j) :=
      (State.line_noticeSessions ..).trans (if_pos hj)
    rw [hline, State.noticed, Line.place_reports] at hsig
    rw [hline, State.noticed, Line.place_generation] at hend
    exact ⟨hs, hm, hsig, hend⟩

end Sys2Proof.Machine
end


section
/-! The effects of closing and setup debits that make a transition (O59). -/

namespace Sys2Proof.Machine

/-! ### What a transition leaves as it is -/

/-- A debit that exhausts an account leaves it exhausted for good (R81). -/
theorem Account.spent_turned {s : State} {a : Account} {amount budget : Int} {st : BudgetState}
    (hb : budget = clampBudget (a.budget - amount)) (hst : st = s.stateOfBudget budget a.overdraft a.cls)
    (he : st = .exhausted) : (a.turned budget st).Spent (a.flagAfter budget st) := by
  refine ⟨he, rfl, ?_, ?_⟩
  · show budget < -(a.overdraft : Int)
    by_contra hlt
    rw [he, State.stateOfBudget, if_neg hlt] at hst
    split at hst <;> cases hst
  · show _ ≤ budget
    rw [hb]; unfold clampBudget; omega

/-- What the effects of the transition of the account `n` from `old` to `new`, at the budget `budget`, make of `s`: they
act on its sessions alone, and end them all where it is exhausted without a grace time (R82 to R84). -/
structure State.Affected (s t : State) (n : Name) (old new : BudgetState) (budget : Int) (flag : BudgetFlag)
    (tariff : Tariff) : Prop where
  kept : ∀ j, j ∉ s.sessionsOf n → t.line j = s.line j
  others : ∀ m, m ≠ n → t.account? m = s.account? m
  goesOn : (new = .exhausted → tariff.grace ≠ 0) → t.account? n = s.account? n
    ∧ ∀ j ∈ s.sessionsOf n, t.line j = s.lineAfter old new budget (s.line j)
  ends : new = .exhausted → tariff.grace = 0 → s.AllEnded t n flag (s.sessionsOf n)

theorem State.affected_applyTransition {s : State} {n : Name} {b : Account} {flag : BudgetFlag} {tariff : Tariff}
    {old new : BudgetState} {budget : Int} (hb : s.account? n = some b) (hbudget : b.budget = budget)
    (ht : s.tariff = some tariff) (hne : new ≠ old) (hspent : new = .exhausted → b.Spent flag) :
    s.Affected (s.applyTransition ⟨n, old, new⟩) n old new budget flag tariff := by
  have hbudget : (s.account? n).map Account.budget = some budget := by rw [hb, ← hbudget]; rfl
  have hends (hnew : new = .exhausted) (hg : tariff.grace = 0) :
      s.AllEnded (s.applyTransition ⟨n, old, new⟩) n flag (s.sessionsOf n) := by
    subst hnew
    exact State.applyTransition_graceless hne.symm ht hg ⟨b, hb, hspent rfl⟩
  have hline (hg : new = .exhausted → tariff.grace ≠ 0) := State.line_applyTransition (old := old) hbudget ht hg
  refine ⟨fun j hj => ?_, fun m hm => ?_, fun hg => ⟨State.account?_applyTransition ht hg n, fun j hj =>
    (hline hg j).trans (if_pos hj)⟩, hends⟩
  · by_cases hg : new = .exhausted ∧ tariff.grace = 0
    · exact (hends hg.1 hg.2).kept j hj
    · exact (hline (fun h hz => hg ⟨h, hz⟩) j).trans (if_neg hj)
  · by_cases hg : new = .exhausted ∧ tariff.grace = 0
    · exact (hends hg.1 hg.2).others m hm
    · exact State.account?_applyTransition ht (fun h hz => hg ⟨h, hz⟩) m

/-- The line after a transition by the texts and the tariff alone (R82 to R84). -/
theorem State.lineAfter_congr {s t : State} (hx : t.texts = s.texts) (ht : t.tariff = s.tariff) (old new : BudgetState)
    (budget : Int) (l : Line) : t.lineAfter old new budget l = s.lineAfter old new budget l := by
  unfold State.lineAfter State.textFor
  rw [hx, ht]

/-- `o` is `s` with line `i` now `l` and the entry of the account of `b` now `b`, for all that a transition reads. -/
structure State.Resettled (s o : State) (i : LineId) (l : Line) (b : Account) : Prop where
  texts : o.texts = s.texts
  tariff : o.tariff = s.tariff
  line : ∀ j, o.line j = if j = i then l else s.line j
  account : ∀ m, o.account? m = if m = b.name then some b else s.account? m

/-- What a transition of the account of `b` from `old` to `new`, begun on line `i`, has made of `s` but for line `i`
(R82 to R84). -/
structure State.ActedBeside (s t : State) (i : LineId) (b : Account) (old new : BudgetState) (tariff : Tariff) :
    Prop where
  kept : ∀ j, j ≠ i → j ∉ s.sessionsOf b.name → t.line j = s.line j
  others : ∀ m, m ≠ b.name → t.account? m = s.account? m
  goesOn : (new = .exhausted → tariff.grace ≠ 0) → t.account? b.name = some b
    ∧ ∀ j ∈ s.sessionsOf b.name, j ≠ i → t.line j = s.lineAfter old new b.budget (s.line j)
  ends : new = .exhausted → tariff.grace = 0 → ∀ j ∈ s.sessionsOf b.name, j ≠ i →
    (s.line j).EndedFor j .budget (t.line j)

section
variable {s o t : State} {i : LineId} {l : Line} {b : Account} {old new : BudgetState} {tariff : Tariff}
  {flag : BudgetFlag}

theorem State.Resettled.other (h : s.Resettled o i l b) {j : LineId} (hj : j ≠ i) : o.line j = s.line j :=
  (h.line j).trans (if_neg hj)

theorem State.Resettled.own (h : s.Resettled o i l b) : o.line i = l := (h.line i).trans (if_pos rfl)

theorem State.Resettled.mem_sessionsOf (h : s.Resettled o i l b) (n : Name) {j : LineId} (hj : j ≠ i) :
    j ∈ o.sessionsOf n ↔ j ∈ s.sessionsOf n := by
  rw [State.mem_sessionsOf, State.mem_sessionsOf, h.other hj]

/-- A line written before it is written again does not matter. -/
theorem State.Resettled.of_setLine {l0 : Line} (h : (s.setLine i l0).Resettled o i l b) : s.Resettled o i l b where
  texts := h.texts
  tariff := h.tariff
  line j := by
    rw [h.line]
    by_cases hj : j = i
    · rw [if_pos hj, if_pos hj]
    · rw [if_neg hj, if_neg hj, State.line_setLine, if_neg hj]
  account := h.account

theorem State.Affected.beside (heff : o.Affected t b.name old new b.budget flag tariff) (h : s.Resettled o i l b) :
    s.ActedBeside t i b old new tariff where
  kept j hj hjs := (heff.kept j (mt (h.mem_sessionsOf _ hj).1 hjs)).trans (h.other hj)
  others m hm := (heff.others m hm).trans ((h.account m).trans (if_neg hm))
  goesOn hg := by
    obtain ⟨hacc, hlines⟩ := heff.goesOn hg
    refine ⟨hacc.trans ((h.account _).trans (if_pos rfl)), fun j hjs hj => ?_⟩
    rw [hlines j ((h.mem_sessionsOf _ hj).2 hjs), State.lineAfter_congr h.texts h.tariff, h.other hj]
  ends hx hg j hjs hj := h.other hj ▸ (heff.ends hx hg).ended j ((h.mem_sessionsOf _ hj).2 hjs)

/-- What is done to line `i` afterwards is not beside it. -/
theorem State.ActedBeside.updLine (h : s.ActedBeside t i b old new tariff) (f : Line → Line) :
    s.ActedBeside (t.updLine i f) i b old new tariff := by
  have hline {j : LineId} (hj : j ≠ i) : (t.updLine i f).line j = t.line j := (State.line_updLine ..).trans (if_neg hj)
  refine ⟨fun j hj hjs => (hline hj).trans (h.kept j hj hjs), h.others, fun hg => ?_, fun hx hg j hjs hj => ?_⟩
  · obtain ⟨hacc, hlines⟩ := h.goesOn hg
    exact ⟨hacc, fun j hjs hj => (hline hj).trans (hlines j hjs hj)⟩
  · rw [hline hj]; exact h.ends hx hg j hjs hj

end

/-! ### END SESSION -/

/-- The fields of END SESSION read in the order of their layout (section 11.2). -/
theorem readEndSession_eq {tag : Nat} (h : tag < 65536) (opt : Byte) (rest : List Byte) :
    readEndSession (be16 tag ++ [opt] ++ rest) = some (tag, opt) := by
  rw [List.append_assoc, readEndSession, u16_be16 h]
  rfl

/-- END SESSION of a current session is the single end of it, and a reply (R134). -/
theorem exec_endSession {s : State} {label opt : Byte} {tag : Nat} {rest : List Byte} (htag : tag < 65536)
    (h : s.Asked 0x22 label (be16 tag ++ [opt] ++ rest)) (hopt : opt.toNat ≤ 1) {i : LineId} {ses : Session}
    (hi : i.val = tag / 256) (hses : (s.line i).session = some ses) (hgen : (s.line i).generation.toNat = tag % 256) :
    exec .endSession s = .next ((s.dropFrame.endOne i .requested (opt == 0)).pushReply ⟨0x22 + 0x80, label, .done,
      endReply ((s.dropFrame.endSession i .requested (opt == 0)).1.line i)⟩) := by
  have hopt' : ¬ (opt ≠ 0 ∧ opt ≠ 1) := fun ⟨h0, h1⟩ => (toNat_le_one (Nat.not_lt_of_le hopt)).elim h0 h1
  have hline := State.currentLine_eq_some (s := s.dropFrame) hi hses hgen
  have hexec : exec .endSession s = _ := State.request_asked h endSessionReq
  simp only [endSessionReq, withFields, readEndSession_eq htag, if_neg hopt', onSession, hline] at hexec
  exact hexec

section
variable {s : State} {i : LineId} {ses : Session} {a : Account} {tariff : Tariff} {ru : Nat} {budget : Int}
  {st : BudgetState}

/-- A single end whose closing debit makes a transition: its effects find the account's other sessions (R120). -/
theorem State.endOne_turning (h : s.ClosesTurning i ses a tariff ru budget st) (r : EndReason) (keep : Bool) :
    s.endOne i r keep = (s.endedTurning i ses a budget st (s.closed i ses.meter ru) r keep).applyTransition
      ⟨ses.meter.account, a.bstate, st⟩ := by
  rw [State.endOne, State.endSession_turning h]; rfl

/-- The notice that an ended session gets (R130). -/
theorem State.endedLine_requested {charge : Charge} (keep : Bool) (hs : (s.line i).unit.speed ≠ none)
    (ht : s.textFor 10 (some budget) (some charge.units) ≠ []) :
    (s.endedLine i ses .requested keep budget charge).out.noticeWait
      = s.textFor 10 (some budget) (some charge.units) := by
  have hd := Line.endMove_draining (l := (s.line i).endInput ses keep (s.endFlag i .requested charge))
    (by simpa using hs) ht
  exact congrArg (·.out.noticeWait) hd

/-- A single end whose closing debit makes a transition: its own line, and what the transition does to the account's
other sessions (R82, R83, R120). -/
theorem State.endOne_turning_effects (h : s.ClosesTurning i ses a tariff ru budget st) (keep : Bool) :
    (s.endOne i .requested keep).line i = s.endedLine i ses .requested keep budget (s.closed i ses.meter ru)
    ∧ s.ActedBeside (s.endOne i .requested keep) i { a.turned budget st with active := a.active - 1 } a.bstate st
      tariff := by
  have hn : ses.meter.account = a.name := (State.account?_name h.account).symm
  have hacc := State.account?_endedTurning (s := s) (i := i) (ses := ses) (a := a) (budget := budget) (st := st)
    (charge := s.closed i ses.meter ru) .requested keep
  have hset : s.Resettled (s.endedTurning i ses a budget st (s.closed i ses.meter ru) .requested keep) i
      (s.endedLine i ses .requested keep budget (s.closed i ses.meter ru))
      { a.turned budget st with active := a.active - 1 } :=
    ⟨State.endedTurning_texts .., State.endedTurning_tariff .., State.line_endedTurning .requested keep, hacc⟩
  have heff := State.affected_applyTransition (flag := a.flagAfter budget st) (old := a.bstate)
    ((hacc a.name).trans (if_pos rfl)) rfl (hset.tariff.trans h.inForce) h.turned fun he =>
      have hspent := Account.spent_turned h.paid h.state he
      ⟨hspent.exhausted, hspent.notice, hspent.below, hspent.bounded⟩
  rw [State.endOne_turning h, hn]
  refine ⟨(heff.kept i fun hi => ?_).trans hset.own, heff.beside hset⟩
  exact ((State.mem_sessionsOf_endedTurning ..).1 hi).1 rfl

end

/-! ### A sign-on accepted -/

/-- `s` after steps 1 to 9 of the acceptance of `a` on line `i`, where the setup charge takes the account to `budget` and
to the budget state `st`, the transition's effects still to come (R72). -/
def State.openedTurning (s : State) (i : LineId) (a : Account) (k : SpeedCode) (setup : Nat) (budget : Int)
    (st : BudgetState) : State :=
  ((s.placeTaken i a).turned { a with active := a.active + 1 } budget st).opened i a k setup
    (Account.turned { a with active := a.active + 1 } budget st)

/-- The line on which the session of an accepted sign-on is open (R72). -/
def State.openedLine (s : State) (i : LineId) (a : Account) (k : SpeedCode) (setup : Nat) : Line :=
  (s.line i).nextGeneration.accept i (s.newMeter i a k setup) k

section
variable {s : State} {i : LineId} {a : Account} {k : SpeedCode} {setup : Nat} {budget : Int} {st : BudgetState}

theorem State.line_openedTurning (j : LineId) : (s.openedTurning i a k setup budget st).line j
    = if j = i then s.openedLine i a k setup else s.line j := by
  refine (State.line_opened ..).trans ?_
  have hline (j : LineId) : ((s.placeTaken i a).turned { a with active := a.active + 1 } budget st).line j
      = if j = i then (s.line i).nextGeneration else s.line j := State.line_placeTaken s i a j
  rw [State.newMeter, hline, hline, if_pos rfl]
  by_cases hj : j = i
  · rw [if_pos hj, if_pos hj]; rfl
  · rw [if_neg hj, if_neg hj, if_neg hj]

theorem State.account?_openedTurning (m : Name) : (s.openedTurning i a k setup budget st).account? m
    = if m = a.name then some { a.turned budget st with active := a.active + 1, failures := 0 }
      else s.account? m := by
  refine (State.account?_opened ..).trans ?_
  by_cases hm : m = a.name
  · exact (if_pos hm).trans (if_pos hm).symm
  · exact (if_neg hm).trans ((State.account?_turned m).trans ((if_neg hm).trans ((State.account?_placeTaken ..).trans
      ((if_neg hm).trans (if_neg hm).symm))))

theorem State.openedTurning_texts : (s.openedTurning i a k setup budget st).texts = s.texts :=
  have hplace : (s.placeTaken i a).texts = s.texts := rfl
  (congrArg State.texts (State.keepsRest_opened ((s.placeTaken i a).turned { a with active := a.active + 1 } budget st)
    i a k setup (Account.turned { a with active := a.active + 1 } budget st))).trans hplace

theorem State.openedTurning_tariff : (s.openedTurning i a k setup budget st).tariff = s.tariff :=
  have hplace : (s.placeTaken i a).tariff = s.tariff := rfl
  (congrArg State.tariff (State.keepsRest_opened ((s.placeTaken i a).turned { a with active := a.active + 1 } budget st)
    i a k setup (Account.turned { a with active := a.active + 1 } budget st))).trans hplace

/-- The new session is one of the account's (R72). -/
theorem State.mem_sessionsOf_openedTurning : i ∈ (s.openedTurning i a k setup budget st).sessionsOf a.name := by
  rw [State.mem_sessionsOf, State.line_openedTurning, if_pos rfl]
  exact ⟨rfl, rfl⟩

/-- An acceptance whose setup charge makes a transition (R72, R119). -/
theorem State.accept_turning {tariff : Tariff} (ht : s.tariff = some tariff) (hk : (s.line i).unit.speed = some k)
    (hsetup : setup = tariff.setup.get a.cls) (hb : budget = clampBudget (a.budget - setup))
    (hst : st = s.stateOfBudget budget a.overdraft a.cls) (hne : st ≠ a.bstate) :
    s.accept i a
      = State.effectsAhead i (s.openedTurning i a k setup budget st, some ⟨a.name, a.bstate, st⟩) := by
  have hplace : (s.placeTaken i a).account? a.name = some { a with active := a.active + 1 } :=
    (State.account?_placeTaken ..).trans (if_pos rfl)
  have hpaid : ((s.placeTaken i a).turned { a with active := a.active + 1 } budget st).account? a.name
      = some (Account.turned { a with active := a.active + 1 } budget st) :=
    (State.account?_turned ..).trans (if_pos rfl)
  rw [hsetup, ← State.setupCharge_eq ht] at hb ⊢
  rw [State.accept_eq hk (State.debit_turned hplace hb hst hne) hpaid]
  rfl

end

/-- The line of a new session after a transition of its account that does not end it (R72, R82, R83). -/
theorem State.lineAfter_opened {s : State} {tariff : Tariff} {old new : BudgetState} (budget : Int) {l : Line}
    {ses : Session} (ht : s.tariff = some tariff) (hold : old ≠ .exhausted) (hne : new ≠ old) (hl : l.state = .active)
    (hses : l.session = some ses) (hsp : l.unit.speed ≠ none) (hgrace : ses.meter.grace = none)
    (hflag : ses.meter.graceFlag = false) :
    (s.lineAfter old new budget l).state = (if new = .exhausted then .grace else .active)
    ∧ (∃ ses', (s.lineAfter old new budget l).session = some ses' ∧ ses'.meter.account = ses.meter.account
      ∧ ses'.meter.units = ses.meter.units
      ∧ ses'.meter.grace = (if new = .exhausted then some tariff.grace else none)
      ∧ ses'.meter.graceFlag = decide (new = .exhausted))
    ∧ (new ≠ .normal → (s.lineAfter old new budget l).out.noticeWait
      = s.textFor (if new = .exhausted then 8 else 7) (some budget) (some ses.meter.units)) := by
  have units : (l.session.map fun ses => ses.meter.units) = some ses.meter.units := by rw [hses]; rfl
  have exhausted : s.lineAfter .normal .exhausted budget l = { l with
      state := .grace
      session := some { ses with meter := { ses.meter with grace := some tariff.grace, graceFlag := true } }
      out := { l.out with noticeWait := s.textFor 8 (some budget) (some ses.meter.units), waitPrompt := none } } := by
    rw [State.lineAfter]
    dsimp only
    rw [if_neg hsp, hses, ht]
    rfl
  cases new
  case exhausted =>
    have hx : s.lineAfter old .exhausted budget l = s.lineAfter .normal .exhausted budget l := by
      cases old
      case exhausted => exact absurd rfl hold
      all_goals rfl
    rw [hx, exhausted]
    exact ⟨rfl, ⟨_, rfl, rfl, rfl, rfl, rfl⟩, fun _ => rfl⟩
  case warned =>
    obtain rfl : old = .normal := by cases old <;> simp_all
    have hw : s.lineAfter .normal .warned budget l = { l with
        out := { l.out with noticeWait := s.textFor 7 (some budget) (some ses.meter.units), waitPrompt := none } } := by
      rw [State.lineAfter]
      dsimp only
      rw [if_neg hsp, units]
    rw [hw]
    exact ⟨hl, ⟨ses, hses, rfl, rfl, hgrace, hflag⟩, fun _ => rfl⟩
  case normal =>
    have hn : s.lineAfter old .normal budget l = l := by
      cases old
      case exhausted => exact absurd rfl hold
      all_goals rfl
    rw [hn]
    exact ⟨hl, ⟨ses, hses, rfl, rfl, hgrace, hflag⟩, fun h => absurd rfl h⟩

/-- An acceptance whose setup charge makes a transition: the session is opened, then the transition acts on the
account's sessions, the new one among them, and the SIGNON goes ahead of the ENDs that it brings (R72, R82, R83; log 41). -/
theorem State.accept_turning_effects {s : State} {i : LineId} {a : Account} {k : SpeedCode} {tariff : Tariff}
    {setup : Nat} {budget : Int} {st : BudgetState} (ht : s.tariff = some tariff)
    (hk : (s.line i).unit.speed = some k) (hsetup : setup = tariff.setup.get a.cls)
    (hb : budget = clampBudget (a.budget - setup)) (hst : st = s.stateOfBudget budget a.overdraft a.cls)
    (hne : st ≠ a.bstate) :
    ∃ o t : State, s.accept i a = t.updLine i (Line.announceAhead (o.endedLines t))
      ∧ s.Resettled o i (s.openedLine i a k setup) { a.turned budget st with active := a.active + 1, failures := 0 }
      ∧ o.Affected t a.name a.bstate st budget (a.flagAfter budget st) tariff ∧ i ∈ o.sessionsOf a.name := by
  refine ⟨_, _, State.accept_turning ht hk hsetup hb hst hne, ⟨State.openedTurning_texts, State.openedTurning_tariff,
    State.line_openedTurning, State.account?_openedTurning⟩, State.affected_applyTransition
    ((State.account?_openedTurning _).trans (if_pos rfl)) rfl (State.openedTurning_tariff.trans ht) hne fun he => ?_,
    State.mem_sessionsOf_openedTurning⟩
  have hspent := Account.spent_turned hb hst he
  exact ⟨hspent.exhausted, hspent.notice, hspent.below, hspent.bounded⟩

/-- The lines whose END the SIGNON is put ahead of are those whose session the effects end (R72; log 41). -/
theorem State.mem_endedLines (s t : State) (j : LineId) :
    j ∈ s.endedLines t ↔ (s.line j).session.isSome = true ∧ (t.line j).session.isNone = true := by
  simp [State.endedLines, mem_allLines]

/-- Where the effects of an acceptance end every session of the account, the new SIGNON on line `i` holds back the END
of each (R72; log 41). -/
theorem State.AllEnded.heldBack {s t : State} {n : Name} {flag : BudgetFlag} {i : LineId} {f : SignonFlag}
    (h : s.AllEnded t n flag (s.sessionsOf n)) (hi : i ∈ s.sessionsOf n)
    (hf : (s.line i).reports.signon = some f) {t' : State}
    (ht' : t' = t.updLine i (Line.announceAhead (s.endedLines t))) :
    (t'.line i).reports.signon = some { f with ahead := s.endedLines t }
    ∧ ∀ j ∈ s.sessionsOf n, (t'.line j).session = none
      ∧ ((t'.line j).state = .draining ∨ (t'.line j).state = .hangup) ∧ t'.EndHeldBack j
      ∧ ∃ e, (t'.line j).reports.ended = some e ∧ e.reason = .budget ∧ e.tag = tagOf j (s.line j).generation := by
  have hti : t'.line i = (t.line i).announceAhead (s.endedLines t) := by rw [ht', State.line_updLine, if_pos rfl]
  have hsame (j : LineId) : (t'.line j).session = (t.line j).session ∧ (t'.line j).state = (t.line j).state
      ∧ (t'.line j).reports.ended = (t.line j).reports.ended := by
    by_cases hj : j = i
    · rw [hj, hti]; exact ⟨rfl, rfl, rfl⟩
    · rw [ht', State.line_updLine, if_neg hj]; exact ⟨rfl, rfl, rfl⟩
  have hsignon : (t'.line i).reports.signon = some { f with ahead := s.endedLines t } := by
    rw [hti, Line.announceAhead, (h.ended i hi).signon, hf]; rfl
  refine ⟨hsignon, fun j hj => ?_⟩
  obtain ⟨hnone, hmoved, -, hended⟩ := h.ended j hj
  obtain ⟨hs, hm, he⟩ := hsame j
  obtain ⟨ses, hses, -⟩ := Option.map_eq_some_iff.1 ((State.mem_sessionsOf ..).1 hj).2
  refine ⟨hs.trans hnone, hm ▸ hmoved, ⟨i, _, hsignon, (State.mem_endedLines ..).2 ⟨?_, ?_⟩⟩, he ▸ hended⟩
  · rw [hses]; rfl
  · rw [hnone]; rfl

/-! ### The statement -/

/-- Settles O59: the transition acts on the sessions that the end, or the acceptance, leaves to the account. -/
theorem closingAndSetupDebitsActOnSessions : Obligations.ClosingAndSetupDebitsActOnSessions := by
  refine ⟨?_, ?_⟩
  · intro s label opt tag rest i l ses n a tariff ru budget st htag hq hopt hi hl hses hgen hn ht hright ha hru hb hst
      hne
    subst hl hn
    have hn : ses.meter.account = a.name := (State.account?_name ha).symm
    have hexec := exec_endSession htag hq hopt hi hses hgen
    generalize endReply _ = fields at hexec
    obtain ⟨hti, hbeside⟩ := State.endOne_turning_effects (s := s.dropFrame) (i := i) (ses := ses) (a := a)
      ⟨hses, ha, ht, hru, hb, hst, hne⟩ (opt == 0)
    generalize s.dropFrame.endOne i .requested (opt == 0) = t at hexec hti hbeside
    have hi' : i ∈ s.sessionsOf ses.meter.account :=
      (State.mem_sessionsOf ..).2 ⟨by rw [← hright i, hses]; rfl, congrArg (Option.map _) hses⟩
    rw [hn] at hi' ⊢
    refine ⟨_, hexec, ?_, ?_, fun hsp htext => ?_,
      fun j hj => hbeside.kept j (fun h => hj (h ▸ hi')) hj, hbeside.others, hbeside.goesOn, fun hx hg j hj hji => ?_⟩
    · rw [State.line_pushReply, hti, State.endedLine_session]
    · rw [State.line_pushReply, hti]; exact State.endedLine_state ..
    · rw [State.line_pushReply, hti]; exact State.endedLine_requested (s := s.dropFrame) _ hsp htext
    · obtain ⟨hs, hm, -, x, hend, hr, -⟩ := hbeside.ends hx hg j hj hji
      exact ⟨hs, hm, x, hend, hr⟩
  · intro before s i c l rest n a tariff setup budget st hchecks hl hn hright ha hc ho hv hf hbs hlim he ht hsp hsetup
      hb hst hne
    subst hl hn
    have hn : a.name = (s.line i).dialog.name := State.account?_name ha
    obtain ⟨k, hk⟩ := Option.ne_none_iff_exists'.1 hsp
    obtain ⟨queue, lost, hexec⟩ := exec_checks hchecks
    rw [State.checkOutcome_passed ha hc ho hv hf hbs hlim, he, if_neg nofun, State.decided] at hexec
    rw [← hn]
    set l0 := (s.line i).checked rest queue lost (s.matchedName i)
    have hl0 : (s.setLine i l0).line i = l0 := by simp
    obtain ⟨o, t, haccept, hset, heff, hio⟩ := State.accept_turning_effects (s := s.setLine i l0) (i := i) (k := k) ht
      (by rw [hl0]; exact hk) hsetup hb hst hne
    have hset := hset.of_setLine
    have hbeside := (heff.beside hset).updLine (Line.announceAhead (o.endedLines t))
    rw [haccept] at hexec
    refine ⟨fun hg => ?_, fun hx hg => ?_⟩
    · obtain ⟨hacc, hlines⟩ := hbeside.goesOn hg
      have hnew := (heff.goesOn hg).2 i hio
      rw [State.lineAfter_congr hset.texts hset.tariff, hset.own] at hnew
      obtain ⟨hstate, ⟨ses, hses, hname, hunits, hgrace, hflag⟩, hnotice⟩ := State.lineAfter_opened
        (l := (s.setLine i l0).openedLine i a k setup) budget ht hbs hne rfl rfl
        (by show ((s.setLine i l0).line i).unit.speed ≠ none; rw [hl0]; exact hsp) rfl rfl
      have hti : (t.updLine i (Line.announceAhead (o.endedLines t))).line i
          = (t.line i).announceAhead (o.endedLines t) := (State.line_updLine ..).trans (if_pos rfl)
      rw [← hnew] at hstate hses hnotice
      refine ⟨_, hexec, hacc, hbeside.others, fun j hj => ?_, hti ▸ hstate,
        ⟨ses, hti ▸ hses, hname, hunits, hgrace, hflag⟩, hti ▸ hnotice⟩
      split
      next hjs => exact hlines j hjs hj
      next hjs => exact hbeside.kept j hj hjs
    · have hall := heff.ends hx hg
      obtain ⟨b, hb, hspent⟩ := hall.spent
      obtain ⟨hsignon, hends⟩ := hall.heldBack hio (congrArg (·.reports.signon) hset.own) rfl
      obtain ⟨-, -, -, e, hended, -, htag⟩ := hends i hio
      rw [hset.own] at htag
      refine ⟨_, _, hexec, ⟨b, hb, hspent.exhausted, hspent.notice⟩, hbeside.others, hsignon, ?_, rfl, ?_,
        fun j hj => ?_, hbeside.kept⟩
      · rw [hl0]; rfl
      · rw [hended, Option.map_some, htag]; rfl
      · have hjo : j ∈ o.sessionsOf a.name := by
          by_cases hji : j = i
          · exact hji ▸ hio
          · exact (hset.mem_sessionsOf _ hji).2 (hj.resolve_left hji)
        obtain ⟨hs, hm, hheld, e, hend, hr, -⟩ := hends j hjo
        exact ⟨hs, hm, hheld, e, hend, hr⟩

end Sys2Proof.Machine
end


section
/-! The seats of lines and the accounts' books: what a debit and the end of a session make of an account, and what
each operation on a line makes of its seat (O7, O8). -/

namespace Sys2Proof.Machine

/-! ### The account after a debit -/

/-- The account `a` debited by `z` and re-evaluated (R80, R81, R85). -/
def State.paid (s : State) (z : Int) (a : Account) : Account :=
  let budget := clampBudget (a.budget - z)
  let st := s.stateOfBudget budget a.overdraft a.cls
  if st = a.bstate then { a with budget := budget } else a.turned budget st

/-- The table after a debit: the account paid, the others as they were (R80, R81). -/
theorem State.account?_debit (s : State) (n : Name) (z : Int) (m : Name) :
    (s.debit n z).1.account? m = if m = n then (s.account? n).map (s.paid z) else s.account? m := by
  cases ha : s.account? n with
  | none =>
    have hd : s.debit n z = (s, none) := by rw [State.debit, ha]
    rw [hd]
    split
    next hm => rw [hm, ha]; rfl
    next => rfl
  | some a =>
    obtain rfl : a.name = n := State.account?_name ha
    by_cases hq : s.stateOfBudget (clampBudget (a.budget - z)) a.overdraft a.cls = a.bstate
    · rw [State.debit_quiet ha rfl hq, State.account?_putAccount, Option.map_some, State.paid, if_pos hq]
    · rw [State.debit_turned ha rfl rfl hq, State.account?_turned, Option.map_some, State.paid, if_neg hq]

/-- A re-evaluation writes accounts and the BUDGET order alone (R81). -/
theorem State.reevaluate_tariff (s : State) (n : Name) : (s.reevaluate n).1.tariff = s.tariff := by
  unfold State.reevaluate
  split
  · rfl
  · dsimp only; split <;> rfl

theorem State.debit_tariff (s : State) (n : Name) (z : Int) : (s.debit n z).1.tariff = s.tariff := by
  unfold State.debit
  split
  · rfl
  · exact State.reevaluate_tariff ..

theorem State.warnLevel_congr {s t : State} (h : t.tariff = s.tariff) (c : Cls) : t.warnLevel c = s.warnLevel c := by
  rw [State.warnLevel, State.warnLevel, h]

/-! ### Accounts and tariff after an end of session -/

/-- The place of an account given back (R131). -/
def State.giveBack (s : State) (n : Name) : State :=
  match s.account? n with
  | some a => s.putAccount { a with active := a.active - 1 }
  | none => s

theorem State.account?_giveBack (s : State) (n m : Name) : (s.giveBack n).account? m
    = if m = n then (s.account? n).map (fun a => { a with active := a.active - 1 }) else s.account? m := by
  cases ha : s.account? n with
  | none =>
    rw [State.giveBack, ha]
    by_cases hm : m = n
    · rw [if_pos hm, hm, ha]; rfl
    · rw [if_neg hm]
  | some a =>
    obtain rfl : a.name = n := State.account?_name ha
    rw [State.giveBack, ha]
    exact State.account?_putAccount ..

section
variable (s : State) {i : LineId} {ses : Session} (r : EndReason) (keep : Bool)

/-- The state after steps 1 to 3 of the end sequence of the session `ses` of line `i`: the closing debit made, the
charge appended, the place given back (R131). -/
def State.closing (s : State) (i : LineId) (ses : Session) (r : EndReason) : State :=
  let ru := s.roundingUnit ses.meter.residue
  let charge := s.closedCharge i ses.meter (satAdd max32 ses.meter.units ru)
    (ses.meter.saturated || decide (max32 < ses.meter.units + ru))
  let paid := (s.debit ses.meter.account ru).1
  (State.testChargeLevel { paid with store := paid.store.append i charge r false }).giveBack ses.meter.account

/-- The steps of the end sequence that follow write line `i` alone (R131). -/
theorem State.endSession_eq_closing (hs : (s.line i).session = some ses) :
    ∃ l, (s.endSession i r keep).1 = (s.closing i ses r).setLine i l := by
  unfold State.endSession
  rw [hs]
  cases r.text with
  | none => exact ⟨_, State.setLine_setLine (s.closing i ses r) i _ _⟩
  | some k =>
    exact ⟨_, (congrArg (State.setLine · i _) (State.setLine_setLine (s.closing i ses r) i _ _)).trans
      (State.setLine_setLine ..)⟩

theorem State.paid_active (s : State) (z : Int) (a : Account) : (s.paid z a).active = a.active := by
  unfold State.paid; dsimp only; split <;> rfl

/-- The table after the end sequence: the closing debit paid and the place given back (R120, R131). -/
theorem State.account?_closing (m : Name) : (s.closing i ses r).account? m
    = if m = ses.meter.account then (s.account? ses.meter.account).map (fun a =>
      { s.paid (s.roundingUnit ses.meter.residue) a with active := a.active - 1 }) else s.account? m := by
  have hpaid (m : Name) (st : Store) := (State.account?_congr (State.testChargeLevel_accounts
    { (s.debit ses.meter.account (s.roundingUnit ses.meter.residue)).1 with store := st }) m).trans
      (s.account?_debit ses.meter.account (s.roundingUnit ses.meter.residue) m)
  rw [State.closing, State.account?_giveBack, hpaid, hpaid, if_pos rfl]
  split
  · rw [Option.map_map]
    exact congrArg (Option.map · _) (funext fun a => by simp only [Function.comp, State.paid_active])
  · rfl

theorem State.giveBack_tariff (s : State) (n : Name) : (s.giveBack n).tariff = s.tariff := by
  unfold State.giveBack; split <;> rfl

theorem State.closing_tariff : (s.closing i ses r).tariff = s.tariff := by
  rw [State.closing, State.giveBack_tariff, State.testChargeLevel_tariff]
  exact State.debit_tariff ..

end

/-! ### Seats: which lines count as sessions of which account -/

/-- What an account's active count sees of a line: whether it is metered, and its session's account (R86). -/
def Line.seat (l : Line) : Bool × Option Name := (l.state.metered, l.account?)

section
variable {l l' : Line}

theorem Line.seat_eq (hs : l'.state = l.state) (ha : l'.account? = l.account?) : l'.seat = l.seat := by
  rw [Line.seat, Line.seat, hs, ha]

/-- A line moved between states out of a session (R109). -/
theorem Line.seat_moved (h : l.state.metered = false) (h' : l'.state.metered = false)
    (hs : l'.session = l.session) : l'.seat = l.seat := by
  rw [Line.seat, Line.seat, h, h', Line.account?, hs]; rfl

theorem Line.seat_kept (hs : l'.state = l.state) (he : l'.session = l.session) : l'.seat = l.seat :=
  Line.seat_eq hs (congrArg (Option.map fun ses : Session => ses.meter.account) he)

@[simp] theorem Line.drive_seat (l : Line) : l.drive.seat = l.seat := rfl
@[simp] theorem Line.pass_seat (l : Line) (ri : Bool) : (l.pass ri).seat = l.seat :=
  Line.seat_eq rfl (by cases h : l.session <;> simp [Line.pass, Line.account?, h])
@[simp] theorem Line.place_seat (l : Line) (chars : List Byte) : (l.place chars).seat = l.seat :=
  Line.seat_kept (by simp) (by simp)
@[simp] theorem Line.placeDue_seat (l : Line) (texts : Vector (List Byte) 16) : (l.placeDue texts).seat = l.seat :=
  Line.seat_kept (by simp) (by simp)
@[simp] theorem Line.dialogEcho_seat (l : Line) (chars : List Byte) : (l.dialogEcho chars).seat = l.seat :=
  Line.seat_kept (by simp) (by simp)
@[simp] theorem Line.raiseEvent_seat (l : Line) (k : LineEventKind) (d : Byte) : (l.raiseEvent k d).seat = l.seat := rfl
@[simp] theorem Line.takeNext_seat (l : Line) (i : LineId) (texts : Vector (List Byte) 16) :
    (l.takeNext i texts).seat = l.seat := Line.seat_kept (by simp) (by simp)
@[simp] theorem Line.nameChar_seat (l : Line) (texts : Vector (List Byte) 16) (c : Byte) :
    (l.nameChar texts c).seat = l.seat := Line.seat_kept (by simp) (by simp)
@[simp] theorem Line.settle_seat (l : Line) : l.settle.seat = l.seat := by
  rcases l.settle_cases with e | ⟨e, hs⟩
  · rw [e]
  · rw [e]; exact Line.seat_moved (by rcases hs with hs | hs <;> rw [hs] <;> rfl) rfl rfl

theorem Line.updMeter_seat {f : Meter → Meter} (hf : ∀ m, (f m).account = m.account) (l : Line) :
    (l.updMeter f).seat = l.seat := Line.seat_eq rfl (Line.account?_updMeter hf l)

theorem Line.hangup_seat (h : l.state.metered = false) : l.hangup.seat = l.seat := Line.seat_moved h rfl rfl
theorem Line.toRejecting_seat (h : l.state.metered = false) : l.toRejecting.seat = l.seat :=
  Line.seat_moved h (LineState.metered_of_left ((Line.toRejecting_state _).imp_right .inr)) (by simp)
theorem Line.toDialog_seat (h : l.state.metered = false) (texts : Vector (List Byte) 16) :
    (l.toDialog texts).seat = l.seat := Line.seat_moved h (by simp [LineState.metered]) (by simp)
theorem Line.invalidAttempt_seat (h : l.state.metered = false) (texts : Vector (List Byte) 16) :
    (l.invalidAttempt texts).seat = l.seat := by
  rcases Line.invalidAttempt_state l texts with e | e
  · exact Line.seat_kept e (by simp)
  · exact Line.seat_moved h (LineState.metered_of_left (e.imp_right .inr)) (by simp)
theorem Line.leaveHangup_seat (h : l.state.metered = false) : l.leaveHangup.seat = l.seat := by
  unfold Line.leaveHangup
  (repeat' split) <;> exact Line.seat_moved h rfl rfl
theorem Line.detectFail_seat (h : l.state.metered = false) (r : DetResult) : (l.detectFail r).seat = l.seat := by
  unfold Line.detectFail
  dsimp only
  split
  · exact Line.seat_moved h rfl rfl
  · rfl
theorem Line.enterGrace_seat (h : l.state.metered = true) (g : Nat) : (l.enterGrace g).seat = l.seat := by
  rw [Line.seat, Line.seat, h]
  exact congrArg (Prod.mk true) (Line.account?_updMeter (f := fun m => { m with grace := some g, graceFlag := true })
    (fun _ => rfl) (l.goto .grace))
theorem Line.leaveGrace_seat (h : l.state.metered = true) : l.leaveGrace.seat = l.seat := by
  rw [Line.seat, Line.seat, h]
  exact congrArg (Prod.mk true) (Line.account?_leaveGrace l)

/-- The session's account is not changed with its input, its copies or its inactivity count. -/
theorem Line.account?_of_session {ses ses' : Session} (h : l.session = some ses) (h' : l'.session = some ses')
    (hm : ses'.meter.account = ses.meter.account) : l'.account? = l.account? := by
  simp [Line.account?, h, h', hm]

@[simp] theorem Line.arrival_seat (l : Line) : l.arrival.seat = l.seat := by
  unfold Line.arrival
  split
  · exact Line.updMeter_seat (f := fun m => { m with inactCount := 0 }) (fun _ => rfl) l
  · rfl
@[simp] theorem Line.attention_seat (l : Line) (i : LineId) : (l.attention i).seat = l.seat := by
  refine Line.seat_eq (by simp) ?_
  unfold Line.attention
  split
  · rfl
  next ses h =>
    exact Line.account?_of_session h ((Line.checkReady_session ..).trans (Line.releaseInput_session _)) rfl
@[simp] theorem Line.receive_seat (l : Line) (i : LineId) (bits : Byte) : (l.receive i bits).seat = l.seat := by
  unfold Line.receive
  dsimp only
  generalize hl : (if parityWrong l.unit.format bits = true then _ else l) = l1
  have h1 : l1.seat = l.seat := by rw [← hl]; split <;> rfl
  rw [← h1, ← Line.arrival_seat l1]
  (repeat' split) <;> first | rfl | exact Line.attention_seat .. | exact Line.seat_kept (by simp) (by simp)
@[simp] theorem Line.storeInput_seat {ses : Session} (h : l.session = some ses) (c : Byte) (rest : List Byte) :
    (l.storeInput c rest ses).seat = l.seat := by
  refine Line.seat_eq (by simp) (Line.account?_of_session h rfl ?_)
  unfold Session.testForward Session.complete
  (repeat' split) <;> rfl
theorem Line.complete_seat (l : Line) (cause : Cause) :
    Line.seat { l with session := l.session.map (Session.complete cause) } = l.seat := by
  refine Line.seat_eq rfl ?_
  cases h : l.session with
  | none => simp [Line.account?, h]
  | some ses =>
    refine Line.account?_of_session h rfl ?_
    unfold Session.complete; split <;> rfl
theorem Line.freeHeld_seat {ses : Session} (h : l.session = some ses) :
    Line.seat { l with session := some ses.freeHeld } = l.seat := by
  refine Line.seat_eq rfl (Line.account?_of_session h rfl ?_)
  unfold Session.freeHeld; split <;> rfl
@[simp] theorem Line.setCopies_seat (l : Line) (c : Copies) : (l.setCopies c).seat = l.seat := by
  refine Line.seat_eq (by simp) ?_
  have hs : (l.setCopies c).session = l.session.map fun ses =>
      { ses with copies := c, fwdTimer := if c.fwdTimer = 0 then none else ses.fwdTimer } := by
    unfold Line.setCopies; dsimp only; split <;> simp
  rw [Line.account?, hs]
  cases h : l.session <;> simp [Line.account?, h]

/-- A line whose session has ended is nobody's (R131). -/
theorem Line.endMove_seat (h : l.session = none) (hangUp : Bool) : (l.endMove hangUp).seat = (false, none) := by
  rw [Line.seat, Line.account?, Line.endMove_session, h, LineState.metered_of_left (.inr (Line.endMove_state ..))]
  rfl

/-- The end of a session empties its line's seat and no other (R131). -/
theorem State.endSession_seat {s : State} {i : LineId} {ses : Session} (hs : (s.line i).session = some ses)
    (r : EndReason) (keep : Bool) (j : LineId) :
    ((s.endSession i r keep).1.line j).seat = if j = i then (false, none) else (s.line j).seat := by
  obtain ⟨flag, chars, -, hi, hj⟩ := State.endSession_line hs r keep
  by_cases h : j = i
  · rw [if_pos h, h, hi]
    refine Line.endMove_seat ?_ _
    cases r.text <;> simp
  · rw [if_neg h, hj j h]

/-- A line with a session just opened is the account's (R72). -/
theorem Line.accept_seat (i : LineId) (m : Meter) (sp : SpeedCode) : (l.accept i m sp).seat = (true, some m.account) :=
  rfl

end

end Sys2Proof.Machine
end


section
/-! The elementary moves that everything a command does to accounts and sessions is made of, and that every command but
LOAD TARIFF makes such moves alone (O7, O8). -/

namespace Sys2Proof.Machine

/-! ### Moves -/

/-- `t` has the table, the tariff and the seats of `s`. -/
structure State.SameBooks (s t : State) : Prop where
  accounts : ∀ m, t.account? m = s.account? m
  tariff : t.tariff = s.tariff
  seats : ∀ j, (t.line j).seat = (s.line j).seat

/-- The budget state of `b` is the one of R81, or neither it nor what it is computed from differs from `a`. -/
def Account.Judged (s : State) (a b : Account) : Prop :=
  b.bstate = budgetStateOf b.budget b.overdraft (s.warnLevel b.cls)
  ∨ b.bstate = a.bstate ∧ b.budget = a.budget ∧ b.overdraft = a.overdraft ∧ b.cls = a.cls

/-- `t` is `s` with the entry of `n`, where there is one, rewritten by `f`, which judges its budget anew or keeps it. -/
structure State.Rewritten (s t : State) (n : Name) (f : Account → Account) : Prop where
  accounts : ∀ m, t.account? m = if m = n then (s.account? n).map f else s.account? m
  tariff : t.tariff = s.tariff
  judged : ∀ a, s.account? n = some a → a.Judged s (f a)

/-- An elementary move on accounts and seats, the tariff staying as it is but at a start-up. -/
inductive State.Move (s t : State) : Prop
  | quiet (h : s.SameBooks t)
  | account {n f} (h : s.Rewritten t n f) (active : ∀ a, (f a).active = a.active)
    (limit : ∀ a, (f a).limit = a.limit ∨ (f a).limit ≤ 4) (seats : ∀ j, (t.line j).seat = (s.line j).seat)
  | added {n b} (new : s.account? n = none) (accounts : ∀ m, t.account? m = if m = n then some b else s.account? m)
    (tariff : t.tariff = s.tariff) (judged : b.bstate = budgetStateOf b.budget b.overdraft (s.warnLevel b.cls))
    (active : b.active = 0) (limit : b.limit ≤ 4) (seats : ∀ j, (t.line j).seat = (s.line j).seat)
  | deleted {n a} (old : s.account? n = some a) (active : a.active = 0)
    (accounts : ∀ m, t.account? m = if m = n then none else s.account? m)
    (tariff : t.tariff = s.tariff) (seats : ∀ j, (t.line j).seat = (s.line j).seat)
  | vacated {i n f} (session : (s.line i).account? = some n) (h : s.Rewritten t n f)
    (active : ∀ a, (f a).active = a.active - 1) (limit : ∀ a, (f a).limit = a.limit)
    (seats : ∀ j, (t.line j).seat = if j = i then (false, none) else (s.line j).seat)
  | seated {i n f} (unmetered : (s.line i).state.metered = false)
    (room : ∃ a, s.account? n = some a ∧ a.active < a.limit) (h : s.Rewritten t n f)
    (active : ∀ a, (f a).active = a.active + 1) (limit : ∀ a, (f a).limit = a.limit)
    (seats : ∀ j, (t.line j).seat = if j = i then (true, some n) else (s.line j).seat)
  | fresh (accounts : ∀ m, t.account? m = none) (seats : ∀ j, (t.line j).seat = (false, none))

/-- Any number of elementary moves. -/
def State.Moves : State → State → Prop := Relation.ReflTransGen State.Move

section
variable {s t u : State}

theorem State.Moves.refl (s : State) : s.Moves s := Relation.ReflTransGen.refl
theorem State.Moves.trans (h : s.Moves t) (h' : t.Moves u) : s.Moves u := Relation.ReflTransGen.trans h h'
theorem State.Move.moves (h : s.Move t) : s.Moves t := Relation.ReflTransGen.single h
theorem State.SameBooks.moves (h : s.SameBooks t) : s.Moves t := (State.Move.quiet h).moves

/-- Whatever is not accounts, tariff or lines does not matter. -/
theorem State.Moves.of_eq (ha : t.accounts = s.accounts) (ht : t.tariff = s.tariff) (hl : t.lines = s.lines) :
    s.Moves t :=
  State.SameBooks.moves ⟨State.account?_congr ha, ht, fun j => congrArg _ (State.line_congr hl j)⟩

theorem State.Moves.setLine (i : LineId) {l : Line} (h : l.seat = (s.line i).seat) : s.Moves (s.setLine i l) := by
  refine State.SameBooks.moves ⟨fun _ => rfl, rfl, fun j => ?_⟩
  rw [State.line_setLine]
  split
  next e => rw [e, h]
  next => rfl

theorem State.Moves.updLine (i : LineId) {f : Line → Line} (h : (f (s.line i)).seat = (s.line i).seat) :
    s.Moves (s.updLine i f) := State.Moves.setLine i h

theorem State.Moves.foldl {α : Type} {g : State → α → State} (hg : ∀ (s : State) (a : α), s.Moves (g s a))
    (as : List α) : s.Moves (as.foldl g s) := by
  induction as generalizing s with
  | nil => exact .refl s
  | cons a as ih => exact (hg s a).trans ih

theorem State.Moves.updLines {is : List LineId} (hn : is.Nodup) {f : LineId → Line → Line}
    (h : ∀ i ∈ is, (f i (s.line i)).seat = (s.line i).seat) : s.Moves (s.updLines is f) := by
  refine State.SameBooks.moves ⟨fun m => ?_, ?_, fun j => ?_⟩
  · rw [State.updLines_eq]; rfl
  · rw [State.updLines_eq]
  · rw [State.line_updLines s hn]
    split
    next hj => exact h j hj
    next => rfl

theorem State.Moves.takeOrder {α : Type} [DecidableEq α] (s : State) (key : α → Nat) (xs : List α) :
    s.Moves (s.takeOrder key xs).2 := .of_eq rfl rfl rfl

theorem State.Moves.scan (s : State) : s.Moves s.scan :=
  State.SameBooks.moves ⟨fun _ => rfl, rfl, fun j => by rw [State.line_scan]; rfl⟩

end

/-! ### Accounts and sessions -/

section
variable (s : State)

theorem State.judged_paid (z : Int) (a : Account) : a.Judged s (s.paid z a) := by
  refine .inl ?_
  rw [State.budgetStateOf_eq]
  unfold State.paid
  dsimp only
  split
  next h => exact h.symm
  next => rfl

theorem State.paid_limit (z : Int) (a : Account) : (s.paid z a).limit = a.limit := by
  unfold State.paid; dsimp only; split <;> rfl

theorem State.Moves.debit (n : Name) (z : Int) : s.Moves (s.debit n z).1 :=
  (State.Move.account (f := s.paid z) ⟨s.account?_debit n z, s.debit_tariff n z, fun a _ => s.judged_paid z a⟩
    (s.paid_active z) (fun a => .inl (s.paid_limit z a))
    fun j => congrArg _ (State.line_congr (s.debit_lines n z) j)).moves

theorem State.Moves.endSession (i : LineId) (r : EndReason) (keep : Bool) : s.Moves (s.endSession i r keep).1 := by
  cases hs : (s.line i).session with
  | none => rw [State.endSession_none hs]; exact .refl s
  | some ses =>
    obtain ⟨l, hl⟩ := s.endSession_eq_closing r keep hs
    refine (State.Move.vacated (i := i) (n := ses.meter.account) (f := fun a =>
      { s.paid (s.roundingUnit ses.meter.residue) a with active := a.active - 1 }) (by rw [Line.account?, hs]; rfl)
      ⟨fun m => ?_, ?_, fun a _ => ?_⟩ (fun _ => rfl) (fun a => ?_)
      (State.endSession_seat hs r keep)).moves
    · rw [hl]; exact s.account?_closing r m
    · rw [hl]; exact s.closing_tariff r
    · exact s.judged_paid _ a
    · exact s.paid_limit _ a

theorem State.Moves.endEach (r : EndReason) (is : List LineId) : s.Moves (s.endEach r is) :=
  .foldl (fun s i => .endSession s i r false) is

theorem State.Moves.massEnd (r : EndReason) : s.Moves (s.massEnd r) :=
  (State.Moves.takeOrder s _ _).trans (.endEach _ r _)

theorem State.Moves.noticeSessions (n : Name) (k : Fin 16) : s.Moves (s.noticeSessions n k) :=
  .updLines (s.nodup_sessionsOf n) fun _ _ => Line.place_seat ..

theorem State.Moves.beginGrace (n : Name) : s.Moves (s.beginGrace n) := by
  unfold State.beginGrace
  split
  · exact (State.Moves.takeOrder s _ _).trans (.endEach _ .budget _)
  · exact .updLines (s.nodup_sessionsOf n) fun _ hi => Line.enterGrace_seat ((State.mem_sessionsOf ..).1 hi).1 _

theorem State.Moves.endGrace (n : Name) : s.Moves (s.endGrace n) :=
  .updLines (s.nodup_sessionsOf n) fun _ hi => Line.leaveGrace_seat ((State.mem_sessionsOf ..).1 hi).1

theorem State.Moves.applyTransition (tr : Transition) : s.Moves (s.applyTransition tr) := by
  unfold State.applyTransition
  split
  · exact .noticeSessions s _ _
  · exact (State.Moves.noticeSessions s _ _).trans (.beginGrace _ _)
  · exact (State.Moves.noticeSessions s _ _).trans (.beginGrace _ _)
  · exact (State.Moves.endGrace s _).trans (.noticeSessions _ _ _)
  · exact (State.Moves.endGrace s _).trans (.noticeSessions _ _ _)
  all_goals exact .refl s

theorem State.Moves.applyEffects (p : State × Option Transition) : p.1.Moves (State.applyEffects p) := by
  unfold State.applyEffects
  split
  · exact .applyTransition p.1 _
  · exact .refl p.1

theorem State.Moves.endOne (i : LineId) (r : EndReason) (keep : Bool) : s.Moves (s.endOne i r keep) :=
  (State.Moves.endSession s i r keep).trans (.applyEffects _)

theorem State.Moves.creditAccount (n : Name) (z : Int) : s.Moves (s.creditAccount n z) :=
  (State.Moves.debit s n (-z)).trans (.applyEffects _)

theorem State.Moves.hangupAnswered : s.Moves s.hangupAnswered := by
  refine .updLines nodup_allLines fun i _ => ?_
  split
  next h => exact Line.hangup_seat (by simpa using h.2)
  next => rfl

/-- An entry rewritten in place, its budget, its seats and its limit left. -/
theorem State.Moves.putAccount {a b : Account} (ha : s.account? a.name = some a) (hn : b.name = a.name)
    (hbudget : b.bstate = a.bstate ∧ b.budget = a.budget ∧ b.overdraft = a.overdraft ∧ b.cls = a.cls)
    (hactive : b.active = a.active) (hlimit : b.limit = a.limit) : s.Moves (s.putAccount b) := by
  refine (State.Move.account (s := s) (t := s.putAccount b) (n := a.name) (f := fun c => if c = a then b else c)
    ⟨fun m => ?_, rfl, fun c hc => ?_⟩ (fun c => ?_) (fun c => .inl ?_) fun _ => rfl).moves
  · rw [State.account?_putAccount, hn, ha, Option.map_some, if_pos rfl]
  · obtain rfl := Option.some.inj (ha.symm.trans hc)
    rw [if_pos rfl]; exact .inr hbudget
  · split
    next h => rw [h, hactive]
    next => rfl
  · split
    next h => rw [h, hlimit]
    next => rfl

/-! ### Sign-on -/

theorem State.account?_clearFailures (n m : Name) : (s.clearFailures n).account? m
    = if m = n then (s.account? n).map (fun b => { b with failures := 0 }) else s.account? m := by
  cases ha : s.account? n with
  | none =>
    rw [State.clearFailures, ha]
    by_cases hm : m = n
    · rw [if_pos hm, hm, ha]; rfl
    · rw [if_neg hm]
  | some a =>
    obtain rfl : a.name = n := State.account?_name ha
    rw [State.clearFailures, ha]
    exact State.account?_putAccount ..

theorem State.clearFailures_tariff (n : Name) : (s.clearFailures n).tariff = s.tariff := by
  unfold State.clearFailures; split <;> rfl

theorem State.clearFailures_lines (n : Name) : (s.clearFailures n).lines = s.lines := by
  unfold State.clearFailures; split <;> rfl

/-- The line on which a session has been opened, its checkpoint entry apart (R72). -/
theorem State.line_withSession (i : LineId) (m : Meter) (k : SpeedCode) (j : LineId) :
    (s.withSession i m k).line j = if j = i then (s.line i).accept i m k else s.line j := State.line_updLine ..

theorem State.Moves.effectsAhead (i : LineId) (p : State × Option Transition) : p.1.Moves (State.effectsAhead i p) :=
  (State.Moves.applyEffects p).trans (.updLine i rfl)

variable {s} in
/-- An acceptance takes a seat of the account and pays its setup charge in one move; its transition's effects follow
(R72, R86, R119). -/
theorem State.Moves.accept {i : LineId} {a : Account} (ha : s.account? a.name = some a)
    (hm : (s.line i).state.metered = false) (hroom : a.active < a.limit) : s.Moves (s.accept i a) := by
  let setup := s.setupCharge a.cls
  let k := (s.line i).unit.speed.getD 0
  let d := ((s.placeTaken i a).debit a.name setup).1
  let o := (d.withSession i (d.newMeter i a k setup) k).clearFailures a.name
  have haccept : s.accept i a = State.effectsAhead i (o, ((s.placeTaken i a).debit a.name setup).2) := rfl
  have hd (m : Name) : d.account? m = if m = a.name then some (s.paid setup { a with active := a.active + 1 })
      else s.account? m := by
    refine (State.account?_debit ..).trans ?_
    rw [State.account?_placeTaken, State.account?_placeTaken, if_pos rfl]
    split <;> rfl
  have hdline (j : LineId) : d.line j = (s.placeTaken i a).line j := State.line_congr (State.debit_lines ..) j
  have hseats (j : LineId) : (o.line j).seat = if j = i then (true, some a.name) else (s.line j).seat := by
    rw [State.line_congr (State.clearFailures_lines ..) j, State.line_withSession]
    split
    next => exact Line.accept_seat ..
    next hj => rw [hdline, State.line_placeTaken, if_neg hj]
  have hseated : s.Move o := .seated (n := a.name)
    (f := fun b => { s.paid setup { b with active := b.active + 1 } with failures := 0 }) hm ⟨a, ha, hroom⟩
    ⟨fun m => by
      refine (State.account?_clearFailures ..).trans ?_
      rw [ha]
      split
      · exact congrArg _ ((hd a.name).trans (if_pos rfl))
      next hne => exact (hd m).trans (if_neg hne),
    (State.clearFailures_tariff ..).trans (State.debit_tariff ..),
    fun b _ => s.judged_paid setup { b with active := b.active + 1 }⟩
    (fun b => s.paid_active setup _) (fun b => s.paid_limit setup _) hseats
  rw [haccept]
  exact hseated.moves.trans (.effectsAhead i (o, _))

variable {s} in
/-- What the sign-on check decides it decides of an entry of the table (R68). -/
theorem State.checkOutcome_account {i : LineId} {o : CheckOutcome} (h : s.checkOutcome i = o) :
    (∀ a r k, o = .refused a r k → s.account? a.name = some a)
    ∧ ∀ a, o = .accepted a → s.account? a.name = some a ∧ a.active < a.limit := by
  have entry {a : Account} (ha : s.account? (s.line i).dialog.name = some a) : s.account? a.name = some a := by
    rw [State.account?_name ha]; exact ha
  unfold State.checkOutcome at h
  dsimp only at h
  split at h
  · subst h; exact ⟨nofun, nofun⟩
  next a ha =>
    split at h
    · subst h; exact ⟨nofun, nofun⟩
    iterate 4
      split at h
      · subst h
        refine ⟨fun b r k e => ?_, nofun⟩
        cases e
        exact entry ha
    split at h
    · subst h; exact ⟨nofun, nofun⟩
    · subst h
      refine ⟨nofun, fun b e => ?_⟩
      cases e
      exact ⟨entry ha, by omega⟩

variable {s} in
theorem State.Moves.invalidAttempt {i : LineId} (hm : (s.line i).state.metered = false) :
    s.Moves (s.invalidAttempt i) := by
  unfold State.invalidAttempt
  dsimp only
  split
  next a ha =>
    have hfail : a.fail.name = a.name
        ∧ (a.fail.bstate = a.bstate ∧ a.fail.budget = a.budget ∧ a.fail.overdraft = a.overdraft
          ∧ a.fail.cls = a.cls)
        ∧ a.fail.active = a.active ∧ a.fail.limit = a.limit := by
      unfold Account.fail
      dsimp only
      split <;> exact ⟨rfl, ⟨rfl, rfl, rfl, rfl⟩, rfl, rfl⟩
    obtain ⟨hn, hbudget, hactive, hlimit⟩ := hfail
    exact (State.Moves.putAccount s (by rw [State.account?_name ha]; exact ha) hn hbudget hactive hlimit).trans
      (.updLine i (Line.invalidAttempt_seat hm _))
  next => exact .updLine i (Line.invalidAttempt_seat hm _)

variable {s} in
theorem State.Moves.signOn {i : LineId} (hm : (s.line i).state.metered = false) : s.Moves (s.signOn i) := by
  unfold State.signOn
  dsimp only
  set s1 := s.updLine i fun l => { l with dialog := { l.dialog with matched := s.matchedName i } } with h1
  have hs1 : s.Moves s1 := .updLine i rfl
  have hm1 : (s1.line i).state.metered = false := by rw [h1, State.line_updLine, if_pos rfl]; exact hm
  refine hs1.trans ?_
  cases ho : s.checkOutcome i with
  | invalid => exact .invalidAttempt hm1
  | refused a r k =>
    have ha := (State.checkOutcome_account ho).1 a r k rfl
    refine (State.Moves.putAccount s1 (b := { a with failures := 0 }) (a := a) ha rfl ⟨rfl, rfl, rfl, rfl⟩ rfl
      rfl).trans (.updLine i ?_)
    refine (Line.toRejecting_seat ?_).trans ?_
    · rw [Line.raiseEvent_state, Line.place_state]; exact hm1
    · rw [Line.raiseEvent_seat, Line.place_seat]
  | waits => exact .updLine i rfl
  | accepted a =>
    obtain ⟨ha, hroom⟩ := (State.checkOutcome_account ho).2 a rfl
    exact .accept ha hm1 hroom

end

end Sys2Proof.Machine
end


section
/-! Every command but LOAD TARIFF makes elementary moves on accounts and seats alone (O7, O8). -/

namespace Sys2Proof.Machine

/-! ### The operations that commands are made of -/

section
variable {s : State}

theorem LineState.metered_of_dialog {st : LineState} (h : st = .dialog ∨ st = .detecting) : st.metered = false := by
  rcases h with rfl | rfl <;> rfl

theorem State.Moves.admitLine {i : LineId} (h : (s.line i).state.metered = false) : s.Moves (s.admitLine i) := by
  unfold State.admitLine State.refuseLine
  split
  · exact .updLine i (Line.toDialog_seat h _)
  · exact .updLine i ((Line.toRejecting_seat (by rw [Line.place_state]; exact h)).trans (Line.place_seat ..))

/-- Each of the lines refused has no session (R15). -/
theorem State.Moves.refuseLines {is : List LineId} (hn : is.Nodup)
    (h : ∀ i ∈ is, (s.line i).state.metered = false) : s.Moves (is.foldl State.refuseLine s) := by
  induction is generalizing s with
  | nil => exact .refl s
  | cons i is ih =>
    obtain ⟨hi, hn⟩ := List.nodup_cons.1 hn
    have hrefuse : s.Moves (s.refuseLine i) := .updLine i ((Line.toRejecting_seat (by
      rw [Line.place_state]; exact h i (List.mem_cons_self ..))).trans (Line.place_seat ..))
    refine hrefuse.trans (ih hn fun j hj => ?_)
    rw [State.refuseLine, State.line_updLine, if_neg (fun e : j = i => hi (e ▸ hj))]
    exact h j (List.mem_cons_of_mem _ hj)

theorem State.Moves.refuseDialogs (s : State) : s.Moves s.refuseDialogs :=
  .refuseLines (nodup_allLines.filter _) fun _ hi => LineState.metered_of_dialog ((State.mem_dialogLines ..).1 hi)

theorem State.Moves.disableLine (s : State) (i : LineId) : s.Moves (s.disableLine i) := by
  unfold State.disableLine
  split <;> rename_i e
  · exact .refl s
  · exact .updLine i (Line.seat_moved (by rw [e]; rfl) rfl rfl)
  · exact .updLine i (Line.seat_moved (by rw [e]; rfl) rfl rfl)
  iterate 5 exact .updLine i (Line.seat_moved (by rw [e]; rfl) rfl rfl)
  · exact (State.Moves.updLine i (by rfl)).trans (.endOne _ i _ _)
  · exact (State.Moves.updLine i (by rfl)).trans (.endOne _ i _ _)
  · exact .updLine i rfl

theorem State.Moves.broadcastTo (k : Fin 16) (s : State) (i : LineId) : s.Moves (s.broadcastTo k i) := by
  unfold State.broadcastTo
  dsimp only
  split
  · exact .setLine i ((Line.placeDue_seat ..).trans (Line.place_seat ..))
  · exact .setLine i (Line.place_seat ..)

theorem State.Moves.evaluateCharacter {i : LineId} (h : (s.line i).state.metered = false) :
    s.Moves (s.evaluateCharacter i) := by
  unfold State.evaluateCharacter
  dsimp only
  split
  · exact .setLine i ((Line.detectFail_seat (by exact h) _).trans rfl)
  · split
    · refine (State.Moves.setLine i ?_).trans (.admitLine ?_)
      · rfl
      · simpa using h
    · exact .setLine i ((Line.detectFail_seat (by exact h) _).trans rfl)

theorem State.Moves.atLimit {i : LineId} (len : Nat) {go : State} (h : (s.line i).state.metered = false)
    (hg : s.Moves go) : s.Moves (s.atLimit i len go) := by
  unfold State.atLimit
  split <;> split
  · exact .evaluateCharacter h
  · exact hg
  · exact .updLine i (Line.detectFail_seat h _)
  · exact hg

theorem State.Moves.runEnds {i : LineId} (len : Nat) (h : (s.line i).state.metered = false) :
    s.Moves (s.runEnds i len) := by
  unfold State.runEnds
  refine .atLimit len h ?_
  dsimp only
  split
  · split
    · exact .updLine i (Line.detectFail_seat h _)
    · exact .updLine i rfl
  · split
    · exact .updLine i rfl
    · refine (State.Moves.updLine i ?_).trans (.atLimit _ ?_ (.refl _))
      · rfl
      · simpa using h

theorem Line.measuring_metered {l : Line} (h : l.measuring = true) : l.state.metered = false :=
  (Line.measuring_inCall h).unmetered

theorem State.Moves.refresh (s : State) (i : LineId) (m : Meter) : s.Moves (s.refresh i m) := by
  unfold State.refresh
  split
  · exact .refl s
  · exact .of_eq rfl rfl rfl

/-- A countdown of a session leaves the session with its account (R117, R118). -/
theorem Meter.countGrace_account (was : Bool) (m : Meter) : (m.countGrace was).1.account = m.account := by
  unfold Meter.countGrace; split <;> rfl

theorem Meter.countSilence_account (m : Meter) : m.countSilence.1.account = m.account := by
  unfold Meter.countSilence; split <;> rfl

theorem State.Moves.setMeter {i : LineId} {ses : Session} (hs : (s.line i).session = some ses) {m : Meter}
    (hm : m.account = ses.meter.account) : s.Moves (s.updLine i (Line.updMeter fun _ => m)) :=
  .updLine i (Line.seat_eq rfl (by simp [Line.account?, Line.updMeter, hs, hm]))

theorem State.Moves.afterCharge (was : List LineId) (s : State) (i : LineId) : s.Moves (s.afterCharge was i) := by
  unfold State.afterCharge
  split
  · exact .refl s
  next ses hs =>
    dsimp only
    set s1 := if ses.meter.seconds % 60 = 0 then s.refresh i ses.meter else s with h1
    have hmoved : s.Moves s1 := by
      rw [h1]; split
      exacts [.refresh s i _, .refl s]
    have hs1 : (s1.line i).session = some ses := by
      rw [h1]; unfold State.refresh
      (repeat' split) <;> exact hs
    have hgrace := Meter.countGrace_account (was.contains i) ses.meter
    refine hmoved.trans ?_
    split
    · exact (State.Moves.setMeter hs1 hgrace).trans (.endOne _ i _ _)
    · have hset := State.Moves.setMeter hs1 ((Meter.countSilence_account _).trans hgrace)
      split
      · exact hset.trans (.endOne _ i _ _)
      · exact hset

theorem State.Moves.debitAccount (before : State) (is : List LineId) (s : State) (n : Name) :
    s.Moves (State.debitAccount before is s n) :=
  (State.Moves.debit s n _).trans (.applyEffects _)

theorem State.Moves.chargeAll (s : State) {is : List LineId} (hn : is.Nodup) : s.Moves (s.chargeAll is) :=
  .updLines hn fun _ _ => Line.updMeter_seat (f := fun m => m.charge (s.addend m)) (fun _ => rfl) _

theorem State.Moves.tick (s : State) : s.Moves s.tick := by
  unfold State.tick
  refine State.Moves.trans (State.Moves.trans ?_ (.foldl (State.Moves.debitAccount _ _) _))
    (.foldl (State.Moves.afterCharge _) _)
  have h0 : s.Moves { s.scan with clock := s.clock.advance } := (State.Moves.scan s).trans (.of_eq rfl rfl rfl)
  generalize ({ s.scan with clock := s.clock.advance } : State) = s0 at h0 ⊢
  have horder := State.takeOrder_spec (fun i : LineId => i.val) s0.nodup_meteredLines s0
  exact h0.trans ((State.Moves.takeOrder s0 _ _).trans (.chargeAll _ (horder.1.nodup_iff.2 s0.nodup_meteredLines)))

/-- A start-up leaves no account and no session (R170). -/
theorem State.Moves.fresh {t : State} {pins : Pins} (ha : t.accounts = []) (hl : t.lines = linesAtStart pins) :
    s.Moves t := by
  refine (State.Move.fresh (fun m => ?_) fun j => ?_).moves
  · rw [State.account?, ha]; rfl
  · simp only [State.line, hl, linesAtStart, Vector.get_eq_getElem, Vector.getElem_ofFn]; rfl

theorem State.Moves.enterPowerdown (s : State) (n : Nat) : s.Moves (s.enterPowerdown n) := .of_eq rfl rfl rfl

theorem State.Moves.powerFail (s : State) : s.Moves s.powerFail := by
  have hdown (n : Nat) : s.Moves ((s.massEnd .power).hangupAnswered.enterPowerdown n) :=
    (State.Moves.massEnd s .power).trans ((State.Moves.hangupAnswered _).trans (.enterPowerdown _ n))
  unfold State.powerFail
  split
  · exact .of_eq rfl rfl rfl
  all_goals exact hdown _

theorem State.Moves.startUpSeeing (s : State) (k : StartKind) (pins : Pins) (pfw : Bool) :
    s.Moves (s.startUpSeeing k pins pfw) := by
  have hstart : s.Moves (s.startUp k pins) := .fresh (pins := pins) rfl rfl
  unfold State.startUpSeeing
  split
  · exact hstart.trans (.powerFail _)
  · exact hstart

end

end Sys2Proof.Machine
end


section
/-! Every command but LOAD TARIFF, one by one, and with LOAD TARIFF the step (O7, O8). -/

namespace Sys2Proof.Machine

/-! ### Requests -/

section
variable {s t : State}

theorem State.Moves.dropFrame (s : State) : s.Moves s.dropFrame := .of_eq rfl rfl rfl

theorem State.Moves.pushReply (s : State) (r : Reply) : s.Moves (s.pushReply r) := .of_eq rfl rfl rfl

theorem State.Moves.takeRequest {kind : Byte} {handle : Handler} (h : ∀ f (s : State), s.Moves (handle f s).1) :
    s.Moves (s.takeRequest kind handle) := by
  unfold State.takeRequest
  split
  · split
    · exact (State.Moves.dropFrame s).trans ((h _ s.dropFrame).trans (.pushReply _ _))
    · exact .refl s
  · exact .refl s

theorem withFields_moves {α : Type} {read : Option α} {act : α → State × Answer} (h : ∀ a, s.Moves (act a).1) :
    s.Moves (withFields read s act).1 := by
  unfold withFields
  split
  exacts [h _, .refl s]

theorem onLine_moves {f : List Byte} {act : LineId → State × Answer} (h : ∀ i, s.Moves (act i).1) :
    s.Moves (onLine f s act).1 := by
  refine withFields_moves fun a => ?_
  dsimp only
  split
  exacts [.refl s, h _]

theorem onAccount_moves {name : Option Name} {bad : Option Nat} {act : Account → State × Answer}
    (h : ∀ a, s.account? a.name = some a → s.Moves (act a).1) : s.Moves (onAccount name bad s act).1 := by
  unfold onAccount
  split
  · exact .refl s
  · exact .refl s
  · split
    next => exact .refl s
    next a ha => exact h a (by rw [State.account?_name ha]; exact ha)

theorem onSession_moves {tag : Nat} {act : LineId → State × Answer} (h : ∀ i, s.Moves (act i).1) :
    s.Moves (onSession tag s act).1 := by
  unfold onSession
  split
  exacts [h _, .refl s]

end

section
variable (f : List Byte) (s : State)

theorem openServiceReq_moves : s.Moves (openServiceReq f s).1 := by
  unfold openServiceReq
  split
  · split <;> exact .of_eq rfl rfl rfl
  all_goals exact .refl s

theorem closeServiceReq_moves : s.Moves (closeServiceReq f s).1 := by
  refine withFields_moves fun a => ?_
  dsimp only
  split
  · exact .refl s
  · have hs : s.Moves (if a.1 = 1 then s.massEnd .serviceClosed else s) := by
      split
      exacts [.massEnd s _, .refl s]
    split
    · exact hs
    · exact hs.trans ((State.Moves.refuseDialogs _).trans (.of_eq rfl rfl rfl))

theorem setClockReq_moves : s.Moves (setClockReq f s).1 := by
  refine withFields_moves fun a => ?_
  dsimp only
  split
  · exact .refl s
  · have hset : s.Moves (s.updLines s.meteredLines fun _ l => l.updMeter fun m => { m with clockSet := true }) :=
      .updLines s.nodup_meteredLines fun i _ =>
        Line.updMeter_seat (f := fun m => { m with clockSet := true }) (fun _ => rfl) _
    exact hset.trans (.of_eq rfl rfl rfl)

theorem adjustClockReq_moves : s.Moves (adjustClockReq f s).1 := by
  refine withFields_moves fun a => ?_
  dsimp only
  split
  exacts [.of_eq rfl rfl rfl, .refl s]

theorem loadTextReq_moves : s.Moves (loadTextReq f s).1 := by
  refine withFields_moves fun a => ?_
  dsimp only
  (repeat' split) <;> exact .of_eq rfl rfl rfl

theorem setMonitorReq_moves : s.Moves (setMonitorReq f s).1 := by
  refine withFields_moves fun a => ?_
  dsimp only
  split
  exacts [.refl s, .of_eq rfl rfl rfl]

theorem configureLineReq_moves : s.Moves (configureLineReq f s).1 := by
  refine withFields_moves fun a => ?_
  dsimp only
  split
  · exact .refl s
  next i _ =>
    split
    · split
      next => exact .refl s
      next c _ => exact .updLine (f := fun l => { l with config := c }) i rfl
    · exact .refl s

theorem enableLineReq_moves : s.Moves (enableLineReq f s).1 := by
  refine onLine_moves fun i => .updLine i ?_
  split
  next h => exact Line.hangup_seat (by rw [h]; rfl)
  next => rfl

theorem broadcastReq_moves : s.Moves (broadcastReq f s).1 := by
  refine withFields_moves fun a => ?_
  dsimp only
  split
  · exact .foldl (State.Moves.broadcastTo 14) _
  · split
    exacts [.foldl (State.Moves.broadcastTo 15) _, .refl s]

/-- Fields that pass their checks give a new entry with no session, its limit within R79's range. -/
theorem RawAccount.check?_ok {raw : RawAccount} {a : Account} (h : raw.check? = .ok a) :
    a.active = 0 ∧ a.limit ≤ 4 := by
  have hlimit {l : Nat}
      (h : (if 1 ≤ raw.limit.toNat ∧ raw.limit.toNat ≤ 4 then some raw.limit.toNat else none) = some l) : l ≤ 4 := by
    split at h
    next hl => exact Option.some.inj h ▸ hl.2
    next => cases h
  have field {α β : Type} {o : Option α} {n : Nat} {g : α → Except Nat β} {b : β}
      (h : (orField n o >>= g) = .ok b) : ∃ x, o = some x ∧ g x = .ok b := by
    cases o with
    | none => cases h
    | some x => exact ⟨x, rfl, h⟩
  obtain ⟨name, -, h⟩ := field h
  obtain ⟨cls, -, h⟩ := field h
  obtain ⟨overdraft, -, h⟩ := field h
  obtain ⟨limit, hl, h⟩ := field h
  obtain ⟨state, -, h⟩ := field h
  obtain ⟨failLimit, -, h⟩ := field h
  cases h
  exact ⟨rfl, hlimit hl⟩

/-- The entry `a` re-evaluated (R81, R85). -/
def State.rejudged (a : Account) : Account :=
  let st := s.stateOfBudget a.budget a.overdraft a.cls
  { a with bstate := st, notice := if st = a.bstate then a.notice else some (raiseBudget a.notice a.budget st) }

/-- The table after a re-evaluation (R81, R85). -/
theorem State.account?_reevaluate (n m : Name) : (s.reevaluate n).1.account? m
    = if m = n then (s.account? n).map s.rejudged else s.account? m := by
  cases ha : s.account? n with
  | none =>
    rw [State.reevaluate, ha]
    by_cases hm : m = n
    · rw [if_pos hm, hm, ha]; rfl
    · rw [if_neg hm]
  | some a =>
    obtain rfl : a.name = n := State.account?_name ha
    by_cases hq : s.stateOfBudget a.budget a.overdraft a.cls = a.bstate
    · rw [State.reevaluate_quiet ha hq, Option.map_some, State.rejudged, if_pos hq, hq]
      by_cases hm : m = a.name
      · rw [if_pos hm, hm, ha]
      · rw [if_neg hm]
    · rw [State.reevaluate, ha]
      dsimp only
      rw [State.budgetStateOf_eq, if_neg hq, Option.map_some, State.rejudged, if_neg hq]
      exact State.account?_putAccount ..

/-- A re-evaluation is an elementary move, and its transition's effects are more of them (R81, R82). -/
theorem State.Moves.reevaluateAct (n : Name) : s.Moves (s.reevaluateAct n) :=
  (State.Move.account (f := s.rejudged) ⟨s.account?_reevaluate n, s.reevaluate_tariff n,
    fun _ _ => .inl (s.budgetStateOf_eq ..).symm⟩ (fun _ => rfl) (fun _ => .inl rfl)
    fun j => congrArg _ (State.line_congr (s.reevaluate_lines n) j)).moves.trans (.applyEffects _)

/-- The host fields of `a` put into the entry `old` and the entry re-evaluated: one move (R88). -/
theorem State.Moves.replaceAccount {a old : Account} (hold : s.account? a.name = some old) (hlimit : a.limit ≤ 4) :
    s.Moves (State.reevaluateAct (s.putAccount { a with
      failures := old.failures, bstate := old.bstate, active := old.active, notice := old.notice }) a.name) := by
  let b : Account := { a with
    failures := old.failures, bstate := old.bstate, active := old.active, notice := old.notice }
  have hput : s.Move ((s.putAccount b).reevaluate a.name).1 :=
    .account (n := a.name) (f := fun x => { s.rejudged b with active := x.active }) ⟨fun m => by
        rw [State.account?_reevaluate, State.account?_putAccount, State.account?_putAccount, hold, if_pos rfl]
        split
        next => rfl
        next => rfl,
      (State.reevaluate_tariff ..).trans rfl, fun _ _ => .inl (s.budgetStateOf_eq ..).symm⟩
      (fun _ => rfl) (fun _ => .inr hlimit)
      fun j => congrArg Line.seat (State.line_congr (State.reevaluate_lines (s.putAccount b) a.name) j)
  exact hput.moves.trans (.applyEffects _)

theorem State.Moves.loadAccount {a : Account} (hactive : a.active = 0) (hlimit : a.limit ≤ 4) :
    s.Moves (s.loadAccount a) := by
  unfold State.loadAccount
  split
  next hnew =>
    let b : Account := { a with bstate := budgetStateOf a.budget a.overdraft (s.warnLevel a.cls) }
    exact (State.Move.added (s := s) (t := s.putAccount b) (b := b) hnew (s.account?_putAccount b) rfl rfl hactive
      hlimit fun _ => rfl).moves
  next old hold => exact .replaceAccount s hold hlimit

theorem loadAccountReq_moves : s.Moves (loadAccountReq f s).1 := by
  refine withFields_moves fun raw => ?_
  split
  · exact .refl s
  next a ha =>
    obtain ⟨hactive, hlimit⟩ := RawAccount.check?_ok ha
    split
    exacts [.refl s, .loadAccount s hactive hlimit]

theorem find?_filter_name (n m : Name) (xs : List Account) :
    (xs.filter fun b => b.name ≠ n).find? (fun b => b.name = m)
      = if m = n then none else xs.find? fun b => b.name = m := by
  rw [List.find?_filter]
  split
  next h => exact List.find?_eq_none.2 fun b _ => by simp [h]
  next h =>
    congr 1
    funext b
    by_cases hb : b.name = m
    · simp [hb, h]
    · simp [hb]

theorem deleteAccountReq_moves : s.Moves (deleteAccountReq f s).1 := by
  refine withFields_moves fun raw => onAccount_moves fun a ha => ?_
  split
  · exact .refl s
  next h =>
    exact (State.Move.deleted (s := s) (t := { s with
      accounts := s.accounts.filter fun b => b.name ≠ a.name
      link := { s.link with budgetOrder := s.link.budgetOrder.filter (· ≠ a.name) } }) ha (Nat.eq_zero_of_not_pos h)
      (fun m => find?_filter_name a.name m s.accounts) rfl fun _ => rfl).moves

theorem creditAccountReq_moves : s.Moves (creditAccountReq f s).1 :=
  withFields_moves fun _ => onAccount_moves fun _ _ => .creditAccount s _ _

theorem setAccountStateReq_moves : s.Moves (setAccountStateReq f s).1 := by
  refine withFields_moves fun a => ?_
  dsimp only
  split
  · exact onAccount_moves fun _ _ => .refl s
  · exact onAccount_moves fun _ ha => .putAccount s ha rfl ⟨rfl, rfl, rfl, rfl⟩ rfl rfl

theorem outputReq_moves : s.Moves (outputReq f s).1 := by
  refine withFields_moves fun a => ?_
  dsimp only
  split
  exacts [.refl s, onSession_moves fun i => .updLine i rfl]

theorem setSessionReq_moves : s.Moves (setSessionReq f s).1 := by
  refine withFields_moves fun a => ?_
  dsimp only
  split
  exacts [.refl s, onSession_moves fun i => .updLine i (Line.setCopies_seat ..)]

theorem endSessionReq_moves : s.Moves (endSessionReq f s).1 := by
  refine withFields_moves fun a => ?_
  dsimp only
  split
  exacts [.refl s, onSession_moves fun i => .endOne s i _ _]

theorem releaseChargesReq_moves : s.Moves (releaseChargesReq f s).1 := by
  refine withFields_moves fun a => ?_
  dsimp only
  unfold State.release
  split
  exacts [.refl s, .of_eq rfl rfl rfl]

end

end Sys2Proof.Machine
end


section
/-! The commands that are no requests, and with them every command but LOAD TARIFF (O7, O8). -/

namespace Sys2Proof.Machine

/-! ### The link -/

section
variable (s : State)

theorem State.receiveByte_moves (b : Byte) : s.Moves (s.receiveByte b) := by
  unfold State.receiveByte State.validFrame State.offer State.setReceiver
  repeat' split
  all_goals try dsimp only
  repeat' split
  all_goals exact .of_eq rfl rfl rfl

/-- What the arbiter takes is no seat and no budget (R162). -/
theorem State.choose_moves {c : Choice} (e : s.choose = some c) : s.Moves c.state := by
  unfold State.choose at e
  rcases orElse_some e with e | e
  · obtain ⟨r, -, rfl⟩ := Option.map_eq_some_iff.1 e
    exact .of_eq rfl rfl rfl
  rcases orElse_some e with e | e
  · unfold State.chooseReply at e
    split at e
    next => obtain rfl := Option.some.inj e; exact .of_eq rfl rfl rfl
    next => cases e
  rcases orElse_some e with e | e
  · unfold State.chooseService at e
    rcases orElse_some e with e | e
    · obtain ⟨r, -, rfl⟩ := Option.map_eq_some_iff.1 e; exact .of_eq rfl rfl rfl
    rcases orElse_some e with e | e
    · obtain ⟨r, -, rfl⟩ := Option.map_eq_some_iff.1 e; exact .of_eq rfl rfl rfl
    rcases orElse_some e with e | e
    · obtain ⟨r, -, rfl⟩ := Option.map_eq_some_iff.1 e; exact .of_eq rfl rfl rfl
    split at e
    · cases e
    · obtain ⟨r, -, rfl⟩ := Option.map_eq_some_iff.1 e; exact .of_eq rfl rfl rfl
  rcases orElse_some e with e | e
  · obtain ⟨i, -, hi⟩ := List.exists_of_findSome?_eq_some e
    obtain ⟨r, -, rfl⟩ := Option.map_eq_some_iff.1 hi
    have hptr : s.Moves { s with link := { s.link with linePtr := i } } := .of_eq rfl rfl rfl
    exact hptr.trans (.updLine (f := fun l => { l with reports := r.2.1 }) i rfl)
  rcases orElse_some e with e | e
  · unfold State.chooseBudget at e
    split at e
    · cases e
    · obtain ⟨n, -, hn⟩ := List.exists_of_findSome?_eq_some e
      obtain ⟨a, ha, hr⟩ := Option.bind_eq_some_iff.1 hn
      obtain ⟨r, -, rfl⟩ := Option.map_eq_some_iff.1 hr
      have hput : s.Moves (s.putAccount { a with notice := none }) :=
        .putAccount s (a := a) (by rw [State.account?_name ha]; exact ha) rfl ⟨rfl, rfl, rfl, rfl⟩ rfl rfl
      exact State.Moves.trans (t := s.putAccount { a with notice := none }) hput (.of_eq rfl rfl rfl)
  · obtain ⟨i, -, hi⟩ := List.exists_of_findSome?_eq_some e
    obtain ⟨ses, hs, hi⟩ := Option.bind_eq_some_iff.1 hi
    obtain ⟨b, -, rfl⟩ := Option.map_eq_some_iff.1 hi
    have hptr : s.Moves { s with link := { s.link with dataPtr := i } } := .of_eq rfl rfl rfl
    exact hptr.trans (.updLine (f := fun l => { l with session := some ses.freeHeld }) i (Line.freeHeld_seat hs))

theorem State.Moves.recheck (i : LineId) : s.Moves (s.recheck i) := by
  unfold State.recheck
  split
  next h => exact .signOn (by rw [h.1]; rfl)
  next => exact .refl s

theorem State.Moves.send (body : List Byte) : s.Moves (s.send body) := .of_eq rfl rfl rfl

theorem State.Moves.loseLink (n : Nat) : s.Moves (s.loseLink n) := .of_eq rfl rfl rfl

end

/-! ### Every command but LOAD TARIFF -/

section
variable {s t : State} {i : LineId}

theorem State.Moves.run {f : State → State} (e : s.whenRunning f = .next t) (hf : s.Moves (f s)) : s.Moves t := by
  unfold State.whenRunning at e
  injection e with e
  subst e
  split
  exacts [hf, .refl s]

theorem State.Moves.request {kind : Byte} {handle : Handler}
    (e : s.whenRunning (State.takeRequest kind handle) = .next t) (h : ∀ f (s : State), s.Moves (handle f s).1) :
    s.Moves t := .run e (.takeRequest h)

/-- A command that writes one line, its seat left, at a scan. -/
theorem State.Moves.scanned {f : Line → Line} (h : ∀ l : Line, (f l).seat = l.seat) :
    s.Moves (s.scan.updLine i f) :=
  (State.Moves.scan s).trans (.updLine i (h _))

theorem State.Moves.expiry {due : Line → Bool} {act : Line → Line} (e : s.lineExpiry i due act = .next t)
    (h : ∀ l : Line, due l = true → (act l.drive).seat = l.seat) : s.Moves t := by
  refine .run e ?_
  split
  next hd =>
    refine (State.Moves.scan s).trans (.updLine i ?_)
    rw [State.line_scan]
    exact h _ hd
  next => exact .refl s

theorem execReset_moves {pins : Pins} (e : execReset pins s = .next t) : s.Moves t := by
  refine .run e ?_
  split
  · split
    · exact ((State.Moves.massEnd s .reset).trans (.hangupAnswered _)).trans (.fresh (pins := pins) rfl rfl)
    · exact .refl s
  · exact .refl s

theorem execLabelZeroFrame_moves (e : execLabelZeroFrame s = .next t) : s.Moves t := by
  refine .run e ?_
  split
  · split
    exacts [.dropFrame s, .refl s]
  · exact .refl s

theorem execUnknownKind_moves (e : execUnknownKind s = .next t) : s.Moves t := by
  refine .run e ?_
  split
  · split
    exacts [(State.Moves.dropFrame s).trans (.pushReply _ _), .refl s]
  · exact .refl s

theorem execArbiterChoice_moves (e : execArbiterChoice s = .next t) : s.Moves t := by
  refine .run e ?_
  dsimp only
  split
  · exact .of_eq rfl rfl rfl
  next c hc =>
    have hs : s.Moves (c.state.send c.body) := (s.choose_moves hc).trans (.send _ _)
    split
    exacts [hs.trans (.recheck _ _), hs]

theorem execHostSilenceExpiry_moves (e : execHostSilenceExpiry s = .next t) : s.Moves t := by
  refine .run e ?_
  have hlose (n : Nat) : s.Moves (s.scan.loseLink n) := (State.Moves.scan s).trans (.loseLink _ n)
  split
  · split
    · exact hlose 0
    · exact hlose 0
    · exact ((hlose _).trans (.massEnd _ _)).trans (.refuseDialogs _)
  · exact .refl s

theorem execPowerRecovery_moves {pins : Pins} (e : execPowerRecovery pins s = .next t) : s.Moves t := by
  refine .run e ?_
  split
  exacts [.fresh (pins := pins) rfl rfl, .refl s]

theorem execResetPinAsserted_moves (e : execResetPinAsserted s = .next t) : s.Moves t := by
  have held : s.Moves { s.volatileStart ⟨0, 0, 0⟩ none with mode := .inReset } :=
    .fresh (pins := ⟨0, 0, 0⟩) rfl rfl
  unfold execResetPinAsserted at e
  split at e <;> cases e
  exacts [held, held, .refl s]

theorem execResetPin_moves {pins : Pins} {pfw : Bool} (e : execResetPin pins pfw s = .next t) : s.Moves t := by
  have started := State.Moves.startUpSeeing s .resetPin pins pfw
  unfold execResetPin at e
  split at e <;> cases e
  exacts [started, started, .refl s]

theorem execPowerOn_moves {pins : Pins} {pfw : Bool} {ram : RamFound} (e : execPowerOn pins pfw ram s = .next t) :
    s.Moves t := by
  have hbad : s.Moves { s with store := Store.bad } := .of_eq rfl rfl rfl
  unfold execPowerOn at e
  split at e <;> cases e
  exacts [.startUpSeeing .., hbad.trans (.startUpSeeing ..)]

theorem execRing_moves (e : execRing i s = .next t) : s.Moves t := by
  refine .run e (.scanned fun l => ?_)
  split
  next h => exact Line.seat_moved (by rw [h.1]; rfl) rfl rfl
  next => rfl

theorem execCarrierDetect_moves (e : execCarrierDetect i s = .next t) : s.Moves t := by
  refine .run e ?_
  dsimp only
  refine (State.Moves.scan s).trans ?_
  split
  next h =>
    have hm : (s.scan.line i).state.metered = false := by rw [h.1]; rfl
    split
    · refine .setLine i ?_
      exact Line.seat_moved hm rfl rfl
    · refine State.Moves.trans ?_ (.admitLine ?_)
      · exact .setLine i rfl
      · rw [State.line_setLine, if_pos rfl]; exact hm
  next => exact .setLine i rfl

theorem execCarrierDrop_moves (e : execCarrierDrop i s = .next t) : s.Moves t := by
  refine .run e (.scanned fun l => ?_)
  split
  · rfl
  · split
    next h => exact Line.leaveHangup_seat (by show LineState.metered l.state = false; rw [h.1]; rfl)
    next => rfl

theorem execCarrierLoss_moves (e : execCarrierLoss i s = .next t) : s.Moves t := by
  refine .run e ?_
  dsimp only
  split
  · exact .refl s
  · split
    · exact (State.Moves.scan s).trans (.endOne _ i _ _)
    next hm =>
      split
      · refine (State.Moves.scan s).trans (.updLine i (Line.hangup_seat ?_))
        rw [State.line_scan]
        exact Bool.eq_false_iff.2 hm
      · exact .refl s

theorem execHangupGuardExpiry_moves (e : execHangupGuardExpiry i s = .next t) : s.Moves t := by
  refine .expiry e fun l hd => ?_
  have hm : l.state.metered = false := by rw [(of_decide_eq_true hd).1]; rfl
  split
  · rfl
  · exact Line.leaveHangup_seat hm

theorem execNameCharacter_moves (e : execNameCharacter i s = .next t) : s.Moves t := by
  refine .run e (.updLine i ?_)
  split
  · split
    · exact (Line.nameChar_seat ..).trans rfl
    · rfl
  · rfl

/-- The check made on a line in DIALOG just written (R65, R68). -/
theorem State.Moves.signOn_at {l : Line} (hl : l.seat = (s.line i).seat) (h : l.state = .dialog) :
    s.Moves ((s.setLine i l).signOn i) :=
  (State.Moves.setLine i hl).trans
    (.signOn (by rw [State.line_setLine, if_pos rfl]; exact LineState.metered_of_dialog (.inl h)))

theorem execPasswordCharacter_moves (e : execPasswordCharacter i s = .next t) : s.Moves t := by
  refine .run e ?_
  dsimp only
  split
  · split
    next h =>
      split
      next rest _ _ =>
        exact State.Moves.signOn_at
          (l := Line.dialogEcho crLf { s.line i with unit := { (s.line i).unit with fifo := rest } })
          ((Line.dialogEcho_seat ..).trans rfl) (by rw [Line.dialogEcho_state]; exact h.1)
      next => exact .setLine i rfl
    next => exact .refl s
  · exact .refl s

theorem execDialogTimerExpiry_moves (e : execDialogTimerExpiry i s = .next t) : s.Moves t := by
  refine .expiry e fun l hd => ?_
  have hm : l.state.metered = false := by rw [(of_decide_eq_true hd).1]; rfl
  refine (Line.toRejecting_seat ?_).trans ?_
  · rw [Line.raiseEvent_state, Line.place_state]; exact hm
  · rw [Line.raiseEvent_seat, Line.place_seat, Line.drive_seat]

theorem execTransition_moves {n : Nat} (e : execTransition i n s = .next t) : s.Moves t := by
  refine .run e ?_
  dsimp only
  split
  next h => exact .runEnds _ (Line.measuring_metered h)
  next => exact .refl s

theorem execEndOfCharacter_moves (e : execEndOfCharacter i s = .next t) : s.Moves t := by
  refine .run e ?_
  dsimp only
  split
  next h => exact .evaluateCharacter (Line.measuring_metered h.1)
  next => exact .refl s

theorem execNoEnd_moves (e : execNoEnd i s = .next t) : s.Moves t := by
  refine .run e ?_
  dsimp only
  split
  next h => exact .updLine i (Line.detectFail_seat (Line.measuring_metered h.1) _)
  next => exact .refl s

theorem execTooMany_moves {n : Nat} (e : execTooMany i n s = .next t) : s.Moves t := by
  refine .run e ?_
  dsimp only
  split
  next h => exact .runEnds _ (Line.measuring_metered h.1)
  next => exact .refl s

theorem execBreak_moves (e : execBreak i s = .next t) : s.Moves t := by
  refine .run e (.updLine i ?_)
  split
  · split
    next h =>
      split
      · exact Line.seat_moved (by rw [h]; rfl) rfl rfl
      · rfl
    next =>
      split
      · rw [Line.attention_seat, Line.arrival_seat]
      · rfl
  · rfl

theorem execInputStore_moves (e : execInputStore i s = .next t) : s.Moves t := by
  refine .run e (.updLine i ?_)
  split
  next hs _ =>
    split
    · exact Line.storeInput_seat hs ..
    · rfl
  next => rfl

theorem execTransmitCharacter_moves (e : execTransmitCharacter i s = .next t) : s.Moves t := by
  refine .run e (.updLine i ?_)
  dsimp only
  split
  · rw [Line.takeNext_seat, Line.settle_seat]; rfl
  · rw [Line.settle_seat]; rfl

theorem execInactivity_moves (e : execInactivity i s = .next t) : s.Moves t := by
  refine .run e ?_
  split
  · split
    exacts [.tick s, .refl s]
  · exact .refl s

theorem lineStatusReq_moves (f : List Byte) (s : State) : s.Moves (lineStatusReq f s).1 :=
  onLine_moves fun i => State.Moves.updLine (f := fun l => { l with tallies := Tallies.zero }) i rfl

/-- A state of no session left for another one. -/
theorem Line.seat_of_hangup_in {l : Line} {st : LineState} (h : l.state = st) (hst : st.metered = false)
    (f : Line → Line) (hf : ∀ l : Line, (f l).seat = l.seat) : (f l.drive.hangup).seat = l.seat := by
  rw [hf]
  exact Line.hangup_seat (l := l.drive) (by show l.state.metered = false; rw [h, hst])

/-- Every command but LOAD TARIFF makes elementary moves alone. -/
theorem exec_moves (c : Instr) (hc : c ≠ .loadTariff) (e : exec c s = .next t) : s.Moves t := by
  cases c with
  | keepalive => exact .request e fun _ s => .refl s
  | status => exact .request e fun _ _ => .of_eq rfl rfl rfl
  | openService => exact .request e openServiceReq_moves
  | closeService => exact .request e closeServiceReq_moves
  | setClock => exact .request e setClockReq_moves
  | adjustClock => exact .request e adjustClockReq_moves
  | loadTariff => exact absurd rfl hc
  | loadText => exact .request e loadTextReq_moves
  | setMonitor => exact .request e setMonitorReq_moves
  | reset pins => exact execReset_moves e
  | configureLine => exact .request e configureLineReq_moves
  | enableLine => exact .request e enableLineReq_moves
  | disableLine => exact .request e fun _ s => onLine_moves fun i => .disableLine s i
  | lineStatus => exact .request e lineStatusReq_moves
  | broadcast => exact .request e broadcastReq_moves
  | loadAccount => exact .request e loadAccountReq_moves
  | deleteAccount => exact .request e deleteAccountReq_moves
  | creditAccount => exact .request e creditAccountReq_moves
  | readAccount => exact .request e fun _ s => withFields_moves fun _ => onAccount_moves fun _ _ => .refl s
  | setAccountState => exact .request e setAccountStateReq_moves
  | output => exact .request e outputReq_moves
  | setSession => exact .request e setSessionReq_moves
  | endSession => exact .request e endSessionReq_moves
  | readCharges => exact .request e fun _ _ => withFields_moves fun _ => .of_eq rfl rfl rfl
  | releaseCharges => exact .request e releaseChargesReq_moves
  | labelZeroFrame => exact execLabelZeroFrame_moves e
  | unknownKind => exact execUnknownKind_moves e
  | frameReceived bytes => exact .run (show execFrameReceived bytes s = _ from e) (.foldl State.receiveByte_moves bytes)
  | frameTimeout => exact .run (show execFrameTimeout s = _ from e) (by split <;> exact .of_eq rfl rfl rfl)
  | arbiterChoice => exact execArbiterChoice_moves e
  | hostSilenceExpiry => exact execHostSilenceExpiry_moves e
  | powerFailWarning => exact .run (show execPowerFailWarning s = _ from e) (.powerFail s)
  | powerRecovery pins => exact execPowerRecovery_moves e
  | resetPinAsserted => exact execResetPinAsserted_moves e
  | resetPin pins pfw => exact execResetPin_moves e
  | powerOn pins pfw ram => exact execPowerOn_moves e
  | ringSeen i => exact execRing_moves e
  | carrierDetect i => exact execCarrierDetect_moves e
  | carrierDrop i => exact execCarrierDrop_moves e
  | carrierWaitExpiry i =>
    exact .expiry (show execCarrierWaitExpiry i s = _ from e) fun l hd =>
      Line.seat_of_hangup_in (of_decide_eq_true hd).1 rfl (Line.raiseEvent _ _) fun _ => rfl
  | carrierLoss i => exact execCarrierLoss_moves e
  | hangupGuardExpiry i => exact execHangupGuardExpiry_moves e
  | lockoutExpiry i =>
    exact .expiry (show execLockoutExpiry i s = _ from e) fun l hd =>
      Line.seat_moved (by rw [(of_decide_eq_true hd).1]; rfl) rfl rfl
  | drainTimerExpiry i =>
    exact .expiry (show execDrainTimerExpiry i s = _ from e) fun l hd =>
      Line.seat_of_hangup_in (of_decide_eq_true hd).1 rfl id fun _ => rfl
  | quietLine i =>
    exact .run (show execQuietLine i s = _ from e) (.updLine i (by split <;> rfl))
  | endOfCharacter i => exact execEndOfCharacter_moves e
  | noEnd i => exact execNoEnd_moves e
  | tooMany i samples => exact execTooMany_moves e
  | detectionTimerExpiry i =>
    exact .expiry (show execDetectionTimerExpiry i s = _ from e) fun l hd =>
      Line.seat_of_hangup_in (of_decide_eq_true hd).1 rfl (Line.raiseEvent _ _) fun _ => rfl
  | characterReceived i bits =>
    exact .run (show execCharacterReceived i bits s = _ from e)
      (.updLine i (by split; exacts [Line.receive_seat .., rfl]))
  | framingError i => exact .run (show execFramingError i s = _ from e) (.updLine i (by split <;> rfl))
  | breakReceived i => exact execBreak_moves e
  | inputStore i => exact execInputStore_moves e
  | forwardingTimerExpiry i =>
    exact .expiry (show execForwardingTimerExpiry i s = _ from e) fun l _ => Line.complete_seat l.drive .timer
  | transmitCharacter i => exact execTransmitCharacter_moves e
  | nameCharacter i => exact execNameCharacter_moves e
  | passwordCharacter i => exact execPasswordCharacter_moves e
  | dialogTimerExpiry i => exact execDialogTimerExpiry_moves e
  | rejectingTimerExpiry i =>
    exact .expiry (show execRejectingTimerExpiry i s = _ from e) fun l hd =>
      Line.seat_of_hangup_in (of_decide_eq_true hd).1 rfl id fun _ => rfl
  | meteringTick => exact .run (show execMeteringTick s = _ from e) (.tick s)
  | graceExpiry i =>
    exact .run (show execGraceExpiry i s = _ from e) (by split; exacts [.tick s, .refl s])
  | inactivity i => exact execInactivity_moves e
  | startEdge i => exact .run (show execStartEdge i s = _ from e) (.updLine i (by split <;> rfl))
  | transition i samples => exact execTransition_moves e
  | powerLoss =>
    cases e
    exact State.Moves.fresh (t := { s.volatileStart ⟨0, 0, 0⟩ none with mode := .unpowered }) (pins := ⟨0, 0, 0⟩) rfl
      rfl

end

end Sys2Proof.Machine
end


section
/-! What every step keeps of active counts and budget states (O7, O8). -/

namespace Sys2Proof.Machine

/-! ### What elementary moves keep -/

/-- The budget state of the account of `n` is the one that its budget gives (R81). -/
def State.RightAt (s : State) (n : Name) : Prop :=
  ∀ a, s.account? n = some a → a.bstate = budgetStateOf a.budget a.overdraft (s.warnLevel a.cls)

section
variable {s t : State} {n m : Name}

theorem State.RightAt.congr (h : s.RightAt m) (ha : t.account? m = s.account? m) (ht : t.tariff = s.tariff) :
    t.RightAt m := by
  intro b hb
  rw [State.warnLevel_congr ht]
  exact h b (ha ▸ hb)

theorem State.RightAt.rewritten {f : Account → Account} (h : s.RightAt m) (hr : s.Rewritten t n f) : t.RightAt m := by
  have hm := hr.accounts m
  by_cases hmn : m = n
  · subst hmn
    intro b hb
    rw [if_pos rfl, hb] at hm
    obtain ⟨a, ha, rfl⟩ := Option.map_eq_some_iff.1 hm.symm
    rw [State.warnLevel_congr hr.tariff]
    rcases hr.judged a ha with hj | ⟨hst, hbudget, hover, hcls⟩
    · exact hj
    · rw [hst, hbudget, hover, hcls]; exact h a ha
  · rw [if_neg hmn] at hm
    exact h.congr hm hr.tariff

/-- An elementary move keeps a budget state right, or makes it right (R81). -/
theorem State.RightAt.move (h : s.RightAt m) (hmove : s.Move t) : t.RightAt m := by
  cases hmove with
  | quiet hq => exact h.congr (hq.accounts m) hq.tariff
  | account hr => exact h.rewritten hr
  | @added n b _ accounts tariff judged =>
    have hm := accounts m
    split at hm
    next =>
      intro c hc
      obtain rfl := Option.some.inj (hm.symm.trans hc)
      rw [State.warnLevel_congr tariff]; exact judged
    next => exact h.congr hm tariff
  | deleted _ _ accounts tariff =>
    have hm := accounts m
    split at hm
    next => intro c hc; rw [hm] at hc; cases hc
    next => exact h.congr hm tariff
  | vacated _ hr => exact h.rewritten hr
  | seated _ _ hr => exact h.rewritten hr
  | fresh accounts => intro a ha; rw [accounts] at ha; cases ha

theorem State.RightAt.moves (h : s.RightAt m) (hm : s.Moves t) : t.RightAt m := by
  induction hm with
  | refl => exact h
  | tail _ hmove ih => exact ih.move hmove

/-- The sessions of each account, seen from the seats. -/
theorem State.mem_sessionsOf_seat {i : LineId} : i ∈ s.sessionsOf n ↔ (s.line i).seat = (true, some n) := by
  rw [State.mem_sessionsOf, Line.seat, Prod.mk.injEq]

theorem State.sessionsOf_seats (h : ∀ j, (t.line j).seat = (s.line j).seat) (n : Name) :
    t.sessionsOf n = s.sessionsOf n :=
  State.sessionsOf_congr (fun j => Prod.mk.inj (h j)) n

theorem Line.sessionRight_iff (l : Line) : l.SessionRight ↔ l.seat.2.isSome = l.seat.1 := by
  rw [Line.SessionRight, Line.seat, Line.account?, Option.isSome_map]

/-- Sessions and counts agree (R86, R109). -/
structure State.Seated (s : State) : Prop where
  sessions : s.AllLines Line.SessionRight
  counts : s.CountsRight

theorem State.Seated.mem (h : s.Seated) {i : LineId} (ha : (s.line i).account? = some n) : i ∈ s.sessionsOf n := by
  refine State.mem_sessionsOf_seat.2 (Prod.ext ?_ ha)
  rw [← (Line.sessionRight_iff _).1 (h.sessions i)]
  exact congrArg Option.isSome ha

theorem State.Seated.sessions_of_seats (h : s.Seated) (hseats : ∀ j, (t.line j).seat = (s.line j).seat) :
    t.AllLines Line.SessionRight := fun j => by
  rw [Line.sessionRight_iff, hseats, ← Line.sessionRight_iff]; exact h.sessions j

theorem account?_of_seat {l l' : Line} (h : l'.seat = l.seat) : l'.account? = l.account? := congrArg Prod.snd h

/-- Entries rewritten one for one, no seat taken or left, keep counts and sessions equal. -/
theorem State.Seated.rewrite (h : s.Seated) (f : Name → Account → Account)
    (ha : ∀ m, t.account? m = (s.account? m).map (f m)) (hactive : ∀ m a, (f m a).active = a.active)
    (hlimit : ∀ m a, (f m a).limit = a.limit ∨ (f m a).limit ≤ 4)
    (hseats : ∀ j, (t.line j).seat = (s.line j).seat) : t.Seated := by
  refine ⟨h.sessions_of_seats hseats, fun m b hb => ?_, fun i m hi => ?_⟩
  · rw [ha] at hb
    obtain ⟨a, has, rfl⟩ := Option.map_eq_some_iff.1 hb
    obtain ⟨hcount, hfour, hlim⟩ := h.counts.counts m a has
    rw [State.sessionsOf_seats hseats, hactive]
    exact ⟨hcount, hfour, (hlimit m a).elim (fun e => e ▸ hlim) id⟩
  · rw [ha, Option.isSome_map]
    exact h.counts.present i m (account?_of_seat (hseats i) ▸ hi)

theorem map_at {f : Account → Account} (hm : t.account? m = if m = n then (s.account? n).map f else s.account? m) :
    t.account? m = (s.account? m).map (if m = n then f else id) := by
  rw [hm]
  split
  next h => rw [h]
  next => rw [Option.map_id]; rfl

/-- A new entry has no session, since every session's account was in the table (R86). -/
theorem State.Seated.added {b : Account} (h : s.Seated) (new : s.account? n = none)
    (accounts : ∀ m, t.account? m = if m = n then some b else s.account? m) (active : b.active = 0)
    (limit : b.limit ≤ 4) (seats : ∀ j, (t.line j).seat = (s.line j).seat) : t.Seated := by
  have hnone : s.sessionsOf n = [] := List.eq_nil_iff_forall_not_mem.2 fun j hj => by
    have hpresent := h.counts.present j n ((State.mem_sessionsOf ..).1 hj).2
    rw [new] at hpresent; cases hpresent
  refine ⟨h.sessions_of_seats seats, fun m c hc => ?_, fun i m hi => ?_⟩
  · rw [State.sessionsOf_seats seats]
    rw [accounts] at hc
    split at hc
    next e =>
      obtain rfl := Option.some.inj hc
      rw [e, hnone, active]
      exact ⟨rfl, Nat.zero_le 4, limit⟩
    next => exact h.counts.counts m c hc
  · rw [accounts]
    split
    · rfl
    · exact h.counts.present i m (account?_of_seat (seats i) ▸ hi)

/-- An entry of active count 0 is no session's (R86, R90). -/
theorem State.Seated.deleted {a : Account} (h : s.Seated) (old : s.account? n = some a) (active : a.active = 0)
    (accounts : ∀ m, t.account? m = if m = n then none else s.account? m)
    (seats : ∀ j, (t.line j).seat = (s.line j).seat) : t.Seated := by
  refine ⟨h.sessions_of_seats seats, fun m c hc => ?_, fun i m hi => ?_⟩
  · rw [State.sessionsOf_seats seats]
    rw [accounts] at hc
    split at hc
    · cases hc
    · exact h.counts.counts m c hc
  · have hi' : (s.line i).account? = some m := account?_of_seat (seats i) ▸ hi
    rw [accounts]
    split
    next e =>
      subst e
      have hnone : s.sessionsOf m = [] :=
        List.eq_nil_of_length_eq_zero ((h.counts.counts m a old).1.symm.trans active)
      exact absurd (hnone ▸ h.mem hi') List.not_mem_nil
    next => exact h.counts.present i m hi'

/-- A seat left lowers one account's count and its list of sessions by one (R86, R131). -/
theorem State.Seated.vacated {i : LineId} {f : Account → Account} (h : s.Seated)
    (session : (s.line i).account? = some n) (hr : s.Rewritten t n f) (active : ∀ a, (f a).active = a.active - 1)
    (limit : ∀ a, (f a).limit = a.limit)
    (seats : ∀ j, (t.line j).seat = if j = i then (false, none) else (s.line j).seat) : t.Seated := by
  have hmem (m : Name) (j : LineId) : j ∈ t.sessionsOf m ↔ j ∈ (s.sessionsOf m).erase i := by
    rw [(s.nodup_sessionsOf m).mem_erase_iff, State.mem_sessionsOf_seat, State.mem_sessionsOf_seat, seats]
    split
    next e => simp [e]
    next e => simp [e]
  have hperm (m : Name) : (t.sessionsOf m).length = ((s.sessionsOf m).erase i).length :=
    ((List.perm_ext_iff_of_nodup (t.nodup_sessionsOf m) ((s.nodup_sessionsOf m).erase i)).2 (hmem m)).length_eq
  refine ⟨fun j => ?_, fun m c hc => ?_, fun j m hj => ?_⟩
  · rw [Line.sessionRight_iff, seats]
    split
    · rfl
    · exact (Line.sessionRight_iff _).1 (h.sessions j)
  · rw [hr.accounts] at hc
    rw [hperm]
    split at hc
    next e =>
      subst e
      obtain ⟨a, ha, rfl⟩ := Option.map_eq_some_iff.1 hc
      obtain ⟨hcount, hfour, hlim⟩ := h.counts.counts m a ha
      rw [active, limit, List.length_erase_of_mem (h.mem session), hcount]
      exact ⟨rfl, by omega, hlim⟩
    next e =>
      have hout : i ∉ s.sessionsOf m := fun hi =>
        e (Option.some.inj (((State.mem_sessionsOf ..).1 hi).2.symm.trans session))
      rw [List.erase_of_not_mem hout]
      exact h.counts.counts m c hc
  · have hj' : (s.line j).account? = some m := by
      have hseat := seats j
      split at hseat
      · exact absurd ((congrArg Prod.snd hseat).symm.trans hj) (by simp)
      · exact (account?_of_seat hseat).symm.trans hj
    rw [hr.accounts]
    split
    next e => rw [Option.isSome_map, ← e]; exact h.counts.present j m hj'
    next => exact h.counts.present j m hj'

/-- A seat is taken only below the limit, which is at most 4 (R68, R86). -/
theorem State.Seated.seated {i : LineId} {f : Account → Account} (h : s.Seated)
    (unmetered : (s.line i).state.metered = false) (room : ∃ a, s.account? n = some a ∧ a.active < a.limit)
    (hr : s.Rewritten t n f) (active : ∀ a, (f a).active = a.active + 1) (limit : ∀ a, (f a).limit = a.limit)
    (seats : ∀ j, (t.line j).seat = if j = i then (true, some n) else (s.line j).seat) : t.Seated := by
  have hout (m : Name) : i ∉ s.sessionsOf m := fun hi => by
    rw [State.mem_sessionsOf, unmetered] at hi
    exact absurd hi.1 Bool.false_ne_true
  have hmem (m : Name) (j : LineId) : j ∈ t.sessionsOf m ↔ if j = i then m = n else j ∈ s.sessionsOf m := by
    rw [State.mem_sessionsOf_seat, seats]
    split
    · simp [eq_comm]
    · exact State.mem_sessionsOf_seat.symm
  obtain ⟨a, ha, hroom⟩ := room
  refine ⟨fun j => ?_, fun m c hc => ?_, fun j m hj => ?_⟩
  · rw [Line.sessionRight_iff, seats]
    split
    · rfl
    · exact (Line.sessionRight_iff _).1 (h.sessions j)
  · rw [hr.accounts] at hc
    split at hc
    next e =>
      subst e
      rw [ha] at hc
      obtain rfl := Option.some.inj hc
      obtain ⟨hcount, -, hlim⟩ := h.counts.counts m a ha
      have hperm : (t.sessionsOf m).Perm (i :: s.sessionsOf m) :=
        (List.perm_ext_iff_of_nodup (t.nodup_sessionsOf m)
          (List.nodup_cons.2 ⟨hout m, s.nodup_sessionsOf m⟩)).2 fun j => by
            rw [hmem, List.mem_cons]
            by_cases hj : j = i
            · simp [hj]
            · simp [hj]
      rw [active, limit, hperm.length_eq, List.length_cons, hcount]
      exact ⟨rfl, by omega, hlim⟩
    next e =>
      have hperm : (t.sessionsOf m).Perm (s.sessionsOf m) :=
        (List.perm_ext_iff_of_nodup (t.nodup_sessionsOf m) (s.nodup_sessionsOf m)).2 fun j => by
          rw [hmem]
          split
          next hj => simp [hj, e, hout m]
          next => rfl
      rw [hperm.length_eq]
      exact h.counts.counts m c hc
  · rw [hr.accounts]
    split
    next e => rw [ha]; rfl
    next e =>
      have hseat := seats j
      split at hseat
      · exact absurd (Option.some.inj ((congrArg Prod.snd hseat).symm.trans hj)).symm e
      · exact h.counts.present j m ((account?_of_seat hseat).symm.trans hj)

theorem State.Seated.move (h : s.Seated) (hmove : s.Move t) : t.Seated := by
  cases hmove with
  | quiet hq =>
    exact h.rewrite (fun _ => id) (fun m => by rw [hq.accounts, Option.map_id]; rfl) (fun _ _ => rfl)
      (fun _ _ => .inl rfl) hq.seats
  | @account n f hr active limit seats =>
    refine h.rewrite (fun m => if m = n then f else id) (fun m => map_at (hr.accounts m)) (fun m a => ?_)
      (fun m a => ?_) seats
    · split; exacts [active a, rfl]
    · split; exacts [limit a, .inl rfl]
  | added new accounts _ _ active limit seats => exact h.added new accounts active limit seats
  | deleted old active accounts _ seats => exact h.deleted old active accounts seats
  | vacated session hr active limit seats => exact h.vacated session hr active limit seats
  | seated unmetered room hr active limit seats => exact h.seated unmetered room hr active limit seats
  | fresh accounts seats =>
    refine ⟨fun j => ?_, fun m c hc => ?_, fun j m hj => ?_⟩
    · rw [Line.sessionRight_iff, seats]; rfl
    · rw [accounts] at hc; cases hc
    · exact absurd ((congrArg Prod.snd (seats j)).symm.trans hj) (by simp)

theorem State.Seated.moves (h : s.Seated) (hm : s.Moves t) : t.Seated := by
  induction hm with
  | refl => exact h
  | tail _ hmove ih => exact ih.move hmove

end

/-! ### LOAD TARIFF and the step -/

section
variable {s t : State}

/-- A free order leaves out nothing of its list. -/
theorem mem_arrange {α : Type} [DecidableEq α] (key : α → Nat) (prio : List Nat) {xs : List α} {x : α} (h : x ∈ xs) :
    x ∈ arrange key prio xs := by
  unfold arrange
  dsimp only
  rw [List.mem_append, List.mem_filter]
  by_cases hx : x ∈ (prio.filterMap fun k => xs.find? fun x => key x = k).dedup
  · exact .inl hx
  · exact .inr ⟨h, by simpa using hx⟩

theorem State.Moves.reevaluateAll (s : State) : s.Moves s.reevaluateAll :=
  (State.Moves.takeOrder s _ _).trans (.foldl State.Moves.reevaluateAct _)

theorem State.mem_names {n : Name} {a : Account} (h : s.account? n = some a) : n ∈ s.accounts.map Account.name :=
  List.mem_map.2 ⟨a, List.mem_of_find?_eq_some h, State.account?_name h⟩

/-- An account re-evaluated has the state that its budget gives, and its transition's effects keep it so (R81). -/
theorem State.rightAt_reevaluateAct (s : State) (n : Name) : (s.reevaluateAct n).RightAt n := by
  have hjudged : (s.reevaluate n).1.RightAt n := fun b hb => by
    rw [State.account?_reevaluate, if_pos rfl] at hb
    obtain ⟨a, -, rfl⟩ := Option.map_eq_some_iff.1 hb
    rw [State.warnLevel_congr (State.reevaluate_tariff ..)]
    exact (State.budgetStateOf_eq ..).symm
  exact hjudged.moves (.applyEffects _)

theorem State.rightAt_foldl {ns : List Name} {n : Name} (h : n ∈ ns) (s : State) :
    (ns.foldl State.reevaluateAct s).RightAt n := by
  induction ns generalizing s with
  | nil => cases h
  | cons k ns ih =>
    rcases List.mem_cons.1 h with rfl | h
    · exact (s.rightAt_reevaluateAct n).moves (.foldl State.Moves.reevaluateAct ns)
    · exact ih h _

/-- After the re-evaluation of every account every budget state is right, whatever the tariff was before (R106). -/
theorem State.budgetsRight_reevaluateAll (s : State) : s.reevaluateAll.BudgetsRight := by
  intro n
  show s.reevaluateAll.RightAt n
  cases ha : s.account? n with
  | some a => exact State.rightAt_foldl (mem_arrange _ _ (State.mem_names ha)) _
  | none =>
    refine State.RightAt.moves (s := s) (fun a h => ?_) (.reevaluateAll s)
    rw [ha] at h; cases h

theorem State.BudgetsRight.moves (h : s.BudgetsRight) (hm : s.Moves t) : t.BudgetsRight :=
  fun n => State.RightAt.moves (h n) hm

/-- LOAD TARIFF leaves the state as it is, or re-evaluates every account under a new tariff (R104, R106). -/
theorem loadTariffReq_cases (f : List Byte) (s : State) : (loadTariffReq f s).1 = s
    ∨ ∃ tariff, (loadTariffReq f s).1 = State.reevaluateAll { s with tariff := some tariff } := by
  unfold loadTariffReq withFields
  split
  · dsimp only
    split
    exacts [.inl rfl, .inr ⟨_, rfl⟩]
  · exact .inl rfl

/-- A taken LOAD TARIFF with what stands before and after it. -/
theorem execLoadTariff_cases (e : exec .loadTariff s = .next t) : s.Moves t
    ∨ ∃ s' tariff, s.Moves s' ∧ (State.reevaluateAll { s' with tariff := some tariff }).Moves t := by
  have hrun : s.whenRunning (State.takeRequest kLoadTariff loadTariffReq) = .next t := e
  unfold State.whenRunning at hrun
  injection hrun with hrun
  subst hrun
  split
  · unfold State.takeRequest
    split
    next kind label fields _ =>
      split
      · rcases loadTariffReq_cases fields s.dropFrame with hsame | ⟨tariff, hload⟩
        · refine .inl ((State.Moves.dropFrame s).trans ?_)
          dsimp only
          rw [hsame]
          exact .pushReply _ _
        · refine .inr ⟨s.dropFrame, tariff, .dropFrame s, ?_⟩
          dsimp only
          rw [hload]
          exact .pushReply _ _
      · exact .inl (.refl s)
    · exact .inl (.refl s)
  · exact .inl (.refl s)

theorem exec_keeps_budgetsRight (c : Instr) (h : s.BudgetsRight) (e : exec c s = .next t) : t.BudgetsRight := by
  by_cases hc : c = .loadTariff
  · subst hc
    rcases execLoadTariff_cases e with hm | ⟨s', tariff, -, hm⟩
    · exact h.moves hm
    · exact (State.budgetsRight_reevaluateAll _).moves hm
  · exact h.moves (exec_moves c hc e)

theorem exec_keeps_seated (c : Instr) (h : s.Seated) (e : exec c s = .next t) : t.Seated := by
  by_cases hc : c = .loadTariff
  · subst hc
    rcases execLoadTariff_cases e with hm | ⟨s', tariff, hm, hm'⟩
    · exact h.moves hm
    · have hs' := h.moves hm
      have hloaded : State.Seated { s' with tariff := some tariff } :=
        ⟨hs'.sessions, hs'.counts.counts, hs'.counts.present⟩
      exact (hloaded.moves (.reevaluateAll _)).moves hm'
  · exact h.moves (exec_moves c hc e)

theorem State.Moves.idle (e : s.idle = .next t) : s.Moves t := by
  injection e with e
  subst e
  split
  · refine State.SameBooks.moves ⟨fun _ => rfl, rfl, fun j => ?_⟩
    rw [State.line, Vector.get_ofFn]
    exact Line.pass_seat ..
  · exact .refl s

end

/-- Settles O7: each step is a series of elementary moves, and each of these keeps every active count the number of
sessions (`State.Seated.move`). -/
theorem stepKeepsActiveCounts : Obligations.StepKeepsActiveCounts := by
  intro s t hsessions hcounts e
  have h : s.Seated := ⟨hsessions, hcounts⟩
  unfold step at e
  split at e
  · exact (h.moves (.idle e)).counts
  next c rest _ =>
    have hrest : State.Seated { s with pending := rest } := ⟨h.sessions, h.counts.counts, h.counts.present⟩
    exact (exec_keeps_seated c hrest e).counts

/-- Settles O8: each elementary move keeps every budget state right, and LOAD TARIFF re-evaluates every account. -/
theorem stepKeepsBudgetStates : Obligations.StepKeepsBudgetStates := by
  intro s t h e
  unfold step at e
  split at e
  · exact h.moves (.idle e)
  next c rest _ => exact exec_keeps_budgetsRight (s := { s with pending := rest }) c h e

end Sys2Proof.Machine
end


section
/-! The requests that name an account: their fields, DELETE, READ and SET ACCOUNT STATE (O24, O25). -/

namespace Sys2Proof.Machine

/-! ### The fields of account requests -/

theorem padName_length (n : Name) : (padName n).length = 8 := by
  rw [padName, List.length_take, List.length_append, List.length_replicate]; omega

/-- A well-formed name holds no space. -/
theorem NameGood.ne_space {n : Name} (hn : NameGood n) : ∀ c ∈ n, decide (c ≠ chSP) = true := fun c hc => by
  refine decide_eq_true ?_
  rintro rfl
  exact absurd (hn.chars _ hc) (by decide)

/-- The field of a well-formed name names it (R79, R171). -/
theorem nameOf_padName {n : Name} (hn : NameGood n) : nameOf (padName n) = some n := by
  have hspaces (k : Nat) : (List.replicate k chSP).takeWhile (fun c => decide (c ≠ chSP)) = [] := by
    cases k <;> simp [List.replicate_succ]
  have htake : (padName n).takeWhile (fun c => decide (c ≠ chSP)) = n := by
    rw [padName_eq hn.short, List.takeWhile_append_of_pos hn.ne_space]
    exact (congrArg (n ++ ·) (hspaces _)).trans (List.append_nil n)
  unfold nameOf
  simp only [htake]
  refine if_pos ⟨hn.nonempty, List.all_eq_true.2 hn.chars, ?_⟩
  rw [padName_eq hn.short, List.drop_left]
  exact List.all_eq_true.2 fun c hc => by rw [List.eq_of_mem_replicate hc]; rfl

/-- What an 8-byte field names is well formed, and the field is that name's (R79, R171). -/
theorem eq_padName_of_nameOf {field : List Byte} {n : Name} (hlen : field.length = 8) (h : nameOf field = some n) :
    NameGood n ∧ field = padName n := by
  unfold nameOf at h
  dsimp only at h
  split at h
  next hgood =>
    obtain ⟨hne, hchars, hrest⟩ := hgood
    have hn := Option.some.inj h
    have hfield : n ++ field.dropWhile (fun c => decide (c ≠ chSP)) = field := by
      rw [← hn]; exact List.takeWhile_append_dropWhile
    rw [hn] at hne hchars hrest
    generalize field.dropWhile (fun c => decide (c ≠ chSP)) = spaces at hfield
    subst hfield
    rw [List.length_append] at hlen
    rw [List.drop_left, List.all_eq_true] at hrest
    have hspaces : spaces = List.replicate (8 - n.length) chSP := by
      rw [List.eq_replicate_of_mem (a := chSP) fun c hc => of_decide_eq_true (hrest c hc),
        show spaces.length = 8 - n.length by omega]
    have hshort : n.length ≤ 8 := by omega
    refine ⟨⟨hne, hshort, List.all_eq_true.1 hchars⟩, ?_⟩
    rw [padName_eq hshort, hspaces]; rfl
  next => cases h

theorem readName_padName {n : Name} (hn : NameGood n) (rest : List Byte) :
    readName (padName n ++ rest) = some (some n, rest) := by
  have htake := takeBytes_append (padName n) rest
  rw [padName_length] at htake
  rw [readName, htake, Option.map_some, nameOf_padName hn]

theorem readName_bad {field : List Byte} (hlen : field.length = 8) (hbad : ∀ n, NameGood n → field ≠ padName n)
    (more : List Byte) : readName (field ++ more) = some (none, more) := by
  have htake := takeBytes_append field more
  rw [hlen] at htake
  have hnone : nameOf field = none := by
    refine Option.eq_none_iff_forall_not_mem.2 fun n h => ?_
    obtain ⟨hn, hfield⟩ := eq_padName_of_nameOf hlen h
    exact hbad n hn hfield
  rw [readName, htake, Option.map_some, hnone]

/-- A four-byte field is read as it was written (R171). -/
theorem u32_be32 {n : Nat} (h : n < 4294967296) (rest : List Byte) : u32 (be32 n ++ rest) = some (n, rest) := by
  have hn : (BitVec.ofNat 8 (n / 16777216)).toNat * 16777216 + (BitVec.ofNat 8 (n / 65536)).toNat * 65536
      + (BitVec.ofNat 8 (n / 256)).toNat * 256 + (BitVec.ofNat 8 n).toNat = n := by
    rw [byteOf_toNat, byteOf_toNat, byteOf_toNat, byteOf_toNat]; omega
  exact congrArg (fun m => some (m, rest)) hn

theorem s32_be32 (z : BitVec 32) (rest : List Byte) : s32 (be32 z.toNat ++ rest) = some (z.toInt, rest) := by
  rw [s32, u32_be32 z.isLt, Option.map_some, BitVec.ofNat_toNat, BitVec.setWidth_eq]

/-- The fields of LOAD ACCOUNT read in the order of their layout (section 11.2). -/
theorem readAccountFields_eq {n : Name} (hn : NameGood n) (check budget : BitVec 32) {overdraft : Nat}
    (ho : overdraft < 4294967296) (cls limit st failLimit : Byte) (rest : List Byte) :
    readAccountFields (padName n ++ be32 check.toNat ++ [cls] ++ be32 budget.toNat ++ be32 overdraft
      ++ [limit, st, failLimit] ++ rest)
      = some ⟨some n, check.toNat, cls, budget.toInt, overdraft, limit, st, failLimit⟩ := by
  simp only [readAccountFields, List.append_assoc, readName_padName hn, u32_be32 check.isLt, s32_be32, u32_be32 ho,
    List.cons_append, List.nil_append, u8, Option.bind_eq_bind, Option.bind_some]

theorem readCredit_eq {n : Name} (hn : NameGood n) (amount : BitVec 32) (rest : List Byte) :
    readCredit (padName n ++ be32 amount.toNat ++ rest) = some (some n, amount.toInt) := by
  simp only [readCredit, List.append_assoc, readName_padName hn, s32_be32, Option.bind_eq_bind, Option.bind_some]

theorem readSetState_eq {n : Name} (hn : NameGood n) (b : Byte) (rest : List Byte) :
    readSetState (padName n ++ [b] ++ rest) = some (some n, b) := by
  simp only [readSetState, List.append_assoc, readName_padName hn, List.cons_append, u8, Option.bind_eq_bind,
    Option.bind_some]

/-- The bytes after a malformed name are read, whatever they are, where there are enough of them (R171). -/
theorem readAccountFields_bad {field : List Byte} (hlen : field.length = 8)
    (hbad : ∀ n, NameGood n → field ≠ padName n) {more : List Byte} (h : 16 ≤ more.length) :
    ∃ raw, readAccountFields (field ++ more) = some raw ∧ raw.name = none := by
  match more, h with
  | a :: b :: c :: d :: e :: f :: g :: i :: j :: k :: l :: m :: n :: o :: p :: q :: rest, _ =>
    simp only [readAccountFields, readName_bad hlen hbad, u32, u8, s32, Option.map_some, Option.bind_eq_bind,
      Option.bind_some]
    exact ⟨_, rfl, rfl⟩

theorem readCredit_bad {field : List Byte} (hlen : field.length = 8)
    (hbad : ∀ n, NameGood n → field ≠ padName n) {more : List Byte} (h : 16 ≤ more.length) :
    ∃ amount, readCredit (field ++ more) = some (none, amount) := by
  match more, h with
  | a :: b :: c :: d :: rest, _ =>
    simp only [readCredit, readName_bad hlen hbad, u32, s32, Option.map_some, Option.bind_eq_bind, Option.bind_some]
    exact ⟨_, rfl⟩

theorem readSetState_bad {field : List Byte} (hlen : field.length = 8) (hbad : ∀ n, NameGood n → field ≠ padName n)
    {more : List Byte} (h : 16 ≤ more.length) : ∃ b, readSetState (field ++ more) = some (none, b) := by
  match more, h with
  | b :: rest, _ =>
    simp only [readSetState, readName_bad hlen hbad, u8, Option.bind_eq_bind, Option.bind_some]
    exact ⟨_, rfl⟩

/-! ### Requests as they are taken -/

section
variable {s t : State} {kind label : Byte} {fields bytes : List Byte} {r : Result} {handle : Handler}

/-- A handler that makes `t` of the state, the frame apart, answers in `t` (R161, R172). -/
theorem State.request_answered (h : s.Asked kind label fields)
    (hr : handle fields s.dropFrame = (t.dropFrame, r, bytes)) :
    s.whenRunning (State.takeRequest kind handle) = .next (t.answered kind label r bytes) := by
  rw [State.request_asked h, hr]; rfl

end

section
variable {s : State} {act : Account → State × Answer} {n : Name}

theorem onAccount_absent (h : s.account? n = none) : onAccount (some n) none s act = (s, answerOf .noSuch) := by
  simp only [onAccount, h]

theorem onAccount_present {a : Account} (h : s.account? n = some a) : onAccount (some n) none s act = act a := by
  simp only [onAccount, h]

end

/-! ### The checks of LOAD ACCOUNT -/

theorem AcctState.ofCode_code (st : AcctState) : AcctState.ofCode st.code = some st := by cases st <;> rfl

theorem AcctState.ofCode_eq_none {b : Byte} (h : 2 < b.toNat) : AcctState.ofCode b = none := by
  have ne (k : Byte) (hk : k.toNat ≤ 2) : b ≠ k := by rintro rfl; omega
  rw [AcctState.ofCode, if_neg (ne 0 (by decide)), if_neg (ne 1 (by decide)), if_neg (ne 2 (by decide))]

theorem AcctState.ofCode_eq_some {b : Byte} (h : ¬ 2 < b.toNat) : ∃ st : AcctState, AcctState.ofCode b = some st := by
  have hcases : b = 0 ∨ b = 1 ∨ b = 2 := by
    have h3 : b.toNat = 0 ∨ b.toNat = 1 ∨ b.toNat = 2 := by omega
    rcases h3 with e | e | e
    · exact .inl (BitVec.eq_of_toNat_eq e)
    · exact .inr (.inl (BitVec.eq_of_toNat_eq e))
    · exact .inr (.inr (BitVec.eq_of_toNat_eq e))
  rcases hcases with rfl | rfl | rfl
  exacts [⟨.opened, rfl⟩, ⟨.locked, rfl⟩, ⟨.suspended, rfl⟩]

/-- The checks of LOAD ACCOUNT on its fields after the name, in their order, with their numbers (R88). -/
def RawAccount.checks (raw : RawAccount) : List (Bool × Byte) :=
  [(decide (3 < raw.cls.toNat), 3), (decide (1000000 < raw.overdraft), 5),
    (decide (raw.limit = 0 ∨ 4 < raw.limit.toNat), 6), (decide (2 < raw.state.toNat), 7),
    (decide (15 < raw.failLimit.toNat), 8)]

/-- The first failing check names its field (R88). -/
theorem RawAccount.check?_error {raw : RawAccount} {n : Name} (hn : raw.name = some n) (c : Bool × Byte)
    (hc : raw.checks.find? (·.1) = some c) : raw.check? = .error c.2.toNat := by
  have hlimit : (raw.limit = 0 ∨ 4 < raw.limit.toNat) ↔ ¬ (1 ≤ raw.limit.toNat ∧ raw.limit.toNat ≤ 4) := by
    have hzero : raw.limit = 0 ↔ raw.limit.toNat = 0 := ⟨fun e => by rw [e]; rfl, fun e => BitVec.eq_of_toNat_eq e⟩
    rw [hzero]; omega
  unfold RawAccount.check?
  rw [hn]
  refine check_step 3 (fun h => ?_) (fun _ _ => check_step 5 (fun h => ?_) (fun _ _ => check_step 6 (fun h => ?_)
    (fun _ _ => check_step 7 (fun h => ?_) (fun _ _ => check_step 8 (fun h => ?_) (fun _ _ _ h => by simp at h)
    fun h => ?_) fun h => ?_) fun h => ?_) fun h => ?_) (fun h => ?_) c hc
  · rw [clsOf, dif_neg (by have := of_decide_eq_true h; omega)]
  · exact if_neg (by have := of_decide_eq_true h; omega)
  · exact if_neg (hlimit.1 (of_decide_eq_true h))
  · exact AcctState.ofCode_eq_none (of_decide_eq_true h)
  · exact if_neg (by have := of_decide_eq_true h; omega)
  · exact ⟨_, if_pos (by have := of_decide_eq_false h; omega)⟩
  · exact AcctState.ofCode_eq_some (of_decide_eq_false h)
  · exact ⟨_, if_pos (not_not.1 fun hno => of_decide_eq_false h (hlimit.2 hno))⟩
  · exact ⟨_, if_pos (by have := of_decide_eq_false h; omega)⟩
  · exact ⟨_, dif_pos (by have := of_decide_eq_false h; omega)⟩

section
variable {s : State} {label : Byte} {fields : List Byte}

/-- A malformed name is refused by each request that names an account (R79, R171). -/
theorem exec_malformed {field more : List Byte} (hlen : field.length = 8)
    (hbad : ∀ n, NameGood n → field ≠ padName n) (hmore : 16 ≤ more.length) (p : Instr × Byte)
    (hp : p ∈ ([(.loadAccount, 0x18), (.deleteAccount, 0x19), (.creditAccount, 0x1A), (.readAccount, 0x1B),
      (.setAccountState, 0x1C)] : List (Instr × Byte))) (h : s.Asked p.2 label (field ++ more)) :
    exec p.1 s = .next (s.answered p.2 label .badField [1, 0]) := by
  have hname := readName_bad hlen hbad more
  simp only [List.mem_cons, List.not_mem_nil, or_false] at hp
  rcases hp with rfl | rfl | rfl | rfl | rfl
  · obtain ⟨raw, hread, hraw⟩ := readAccountFields_bad hlen hbad hmore
    have hcheck : raw.check? = .error 1 := by rw [RawAccount.check?, hraw]; rfl
    exact State.request_answered (handle := loadAccountReq) h
      (by simp only [loadAccountReq, hread, withFields, hcheck]; rfl)
  · exact State.request_answered (handle := deleteAccountReq) h (by rw [deleteAccountReq, hname]; rfl)
  · obtain ⟨amount, hread⟩ := readCredit_bad hlen hbad hmore
    exact State.request_answered (handle := creditAccountReq) h (by rw [creditAccountReq, hread]; rfl)
  · exact State.request_answered (handle := readAccountReq) h (by rw [readAccountReq, hname]; rfl)
  · obtain ⟨b, hread⟩ := readSetState_bad hlen hbad hmore
    refine State.request_answered (handle := setAccountStateReq) h ?_
    rw [setAccountStateReq, hread]
    dsimp only [withFields]
    split <;> rfl

/-- Settles O24: what each reader makes of a malformed name, of a name not in the table, and of the fields of LOAD
ACCOUNT, whose checks fail one after another (R79, R88, R171). -/
theorem accountFieldsAreChecked : Obligations.AccountFieldsAreChecked := by
  intro s label
  refine ⟨fun field more hlen hbad hmore p hp h => exec_malformed hlen hbad hmore p hp h,
    fun n rest hn => ⟨fun hnone p hp h => ?_, fun hnone amount hamount h => ?_, fun hnone st h => ?_,
    fun check budget overdraft cls limit st failLimit checks ho hchecks h c hc => ?_⟩⟩
  · have hname := readName_padName hn rest
    have hnone' : s.dropFrame.account? n = none := hnone
    simp only [List.mem_cons, List.not_mem_nil, or_false] at hp
    rcases hp with rfl | rfl
    · exact State.request_answered (handle := deleteAccountReq) h
        (by simp only [deleteAccountReq, hname, withFields, onAccount_absent hnone']; rfl)
    · exact State.request_answered (handle := readAccountReq) h
        (by simp only [readAccountReq, hname, withFields, onAccount_absent hnone']; rfl)
  · have hnone' : s.dropFrame.account? n = none := hnone
    have hrange : ¬ (amount.toInt < -1000000 ∨ 1000000 < amount.toInt) := by omega
    exact State.request_answered (handle := creditAccountReq) h
      (by simp only [creditAccountReq, readCredit_eq hn, withFields, if_neg hrange, onAccount_absent hnone']; rfl)
  · have hnone' : s.dropFrame.account? n = none := hnone
    exact State.request_answered (handle := setAccountStateReq) h
      (by simp only [setAccountStateReq, readSetState_eq hn, withFields, AcctState.ofCode_code,
            onAccount_absent hnone']; rfl)
  · have hcheck := RawAccount.check?_error
      (raw := ⟨some n, check.toNat, cls, budget.toInt, overdraft, limit, st, failLimit⟩) rfl c
      (by rw [hchecks] at hc; exact hc)
    refine State.request_answered (handle := loadAccountReq) h ?_
    simp only [loadAccountReq, readAccountFields_eq hn check budget ho, withFields, hcheck, answerBad, byteOf,
      BitVec.ofNat_toNat, BitVec.setWidth_eq]

end

/-! ### DELETE, READ and SET ACCOUNT STATE -/

theorem State.warnLevel_eq (s : State) (c : Cls) :
    s.warnLevel c = (s.tariff.map fun t : Tariff => t.warn.get c).getD 0 := by
  unfold State.warnLevel; cases s.tariff <;> rfl

/-- The eight tag bytes of READ ACCOUNT (R93, section 11.2). -/
def State.tagBytes (s : State) (n : Name) : List Byte :=
  (((s.sessionsOf n).map fun i => tagOf i (s.line i).generation).flatMap (fun t : BitVec 16 => be16 t.toNat)
    ++ List.replicate 8 0).take 8

theorem State.tagBytes_length (s : State) (n : Name) : (s.tagBytes n).length = 8 := by
  rw [State.tagBytes, List.length_take, List.length_append, List.length_replicate]; omega

/-- Up to four tags all stand in the field, the rest of it zeros (R93). -/
theorem State.tagBytes_eq {s : State} {n : Name} (h : (s.sessionsOf n).length ≤ 4) :
    s.tagBytes n = (s.sessionsOf n).flatMap (fun i => be16 (i.val * 256 + (s.line i).generation.toNat))
      ++ List.replicate (8 - 2 * (s.sessionsOf n).length) 0 := by
  have htags : ((s.sessionsOf n).map fun i => tagOf i (s.line i).generation).flatMap (fun t : BitVec 16 => be16 t.toNat)
      = (s.sessionsOf n).flatMap fun i => be16 (i.val * 256 + (s.line i).generation.toNat) := by
    simp only [List.flatMap_map, tagOf_toNat]
  have hlen : ((s.sessionsOf n).flatMap fun i => be16 (i.val * 256 + (s.line i).generation.toNat)).length
      = 2 * (s.sessionsOf n).length := by
    simp [List.length_flatMap, be16, Nat.mul_comm]
  rw [State.tagBytes, htags, List.take_append, List.take_of_length_le (by omega), hlen, List.take_replicate,
    Nat.min_eq_left (Nat.sub_le ..)]

/-- Settles O25: each of the three requests on an entry of the table (R90, R93, R94). -/
theorem deleteReadAndSetStateOfAccount : Obligations.DeleteReadAndSetStateOfAccount := by
  intro s label n a rest hn ha
  have ha' : s.dropFrame.account? n = some a := ha
  have hname : a.name = n := State.account?_name ha
  have hread := readName_padName hn rest
  refine ⟨fun h => ⟨fun hactive => ?_, fun hactive => ?_⟩, fun h => ?_, fun b h => ⟨fun hb => ?_, fun st hst => ?_⟩⟩
  · exact State.request_answered (handle := deleteAccountReq) h
      (by simp only [deleteAccountReq, hread, withFields, onAccount_present ha', if_pos hactive]; rfl)
  · have hnot : ¬ 0 < a.active := by omega
    let t : State := { s with
      accounts := s.accounts.filter fun b => b.name ≠ n
      link := { s.link with budgetOrder := s.link.budgetOrder.filter (· ≠ n) } }
    have haccount (m : Name) : t.account? m = if m = n then none else s.account? m := find?_filter_name n m s.accounts
    exact ⟨t.answered 0x19 label .done [], State.request_answered (t := t) (handle := deleteAccountReq) h
      (by simp only [deleteAccountReq, hread, withFields, onAccount_present ha', if_neg hnot, hname]; rfl),
      (haccount n).trans (if_pos rfl), fun m hm => (haccount m).trans (if_neg hm), rfl⟩
  · refine ⟨s.tagBytes n, ?_, s.tagBytes_length n, State.tagBytes_eq⟩
    rw [← State.warnLevel_eq]
    refine State.request_answered (handle := readAccountReq) h ?_
    simp only [readAccountReq, hread, withFields, onAccount_present ha', State.readAccountFields, hname,
      List.length_map]
    rfl
  · have hcode := AcctState.ofCode_eq_none hb
    exact State.request_answered (handle := setAccountStateReq) h
      (by simp only [setAccountStateReq, readSetState_eq hn, withFields, hcode]; rfl)
  · subst hst
    let b : Account := { a with state := st, failures := if st = .opened then 0 else a.failures }
    have haccount (m : Name) : (s.putAccount b).account? m = if m = n then some b else s.account? m :=
      hname ▸ s.account?_putAccount b m
    exact ⟨(s.putAccount b).answered 0x1C label .done [st.code, byteOf b.failures], b.failures,
      State.request_answered (t := s.putAccount b) (handle := setAccountStateReq) h
        (by simp only [setAccountStateReq, readSetState_eq hn, withFields, AcctState.ofCode_code,
              onAccount_present ha']; rfl),
      rfl, (haccount n).trans (if_pos rfl), fun m hm => (haccount m).trans (if_neg hm), rfl⟩

end Sys2Proof.Machine
end


section
/-! The re-evaluation of an account with its effects on the account's sessions, none of which it ends: CREDIT ACCOUNT
and LOAD ACCOUNT (O23, O26). -/

namespace Sys2Proof.Machine

/-! ### A transition that ends no session writes lines alone -/

section
variable {s t u : State} {n : Name} {budget : Int} {old new : BudgetState}

/-- `t` is `s` but for the lines. -/
def State.LinesAlone (s t : State) : Prop := t = { s with lines := t.lines }

theorem State.LinesAlone.trans (h : s.LinesAlone t) (h' : t.LinesAlone u) : s.LinesAlone u := by
  unfold State.LinesAlone at *; rw [h', h]

theorem State.LinesAlone.updLines (s : State) (is : List LineId) (f : LineId → Line → Line) :
    s.LinesAlone (s.updLines is f) := s.updLines_eq is f

/-- A transition into EXHAUSTED with a grace time, and every other, writes lines alone (R82 to R84). -/
theorem State.applyTransition_linesAlone (hg : new = .exhausted → s.GraceGiven) :
    s.LinesAlone (s.applyTransition ⟨n, old, new⟩) := by
  have notice (s : State) (k : Fin 16) : s.LinesAlone (s.noticeSessions n k) := .updLines ..
  have grace (hnew : new = .exhausted) : s.LinesAlone ((s.noticeSessions n 8).beginGrace n) := by
    obtain ⟨tariff, ht, hgrace⟩ := hg hnew
    refine (notice s 8).trans ?_
    rw [State.beginGrace, State.graceTime_eq ((s.noticeSessions_tariff n 8).trans ht), if_neg hgrace]
    exact .updLines ..
  have restored : s.LinesAlone ((s.endGrace n).noticeSessions n 13) :=
    State.LinesAlone.trans (.updLines ..) (notice (s.endGrace n) 13)
  cases old <;> cases new
  case normal.warned => exact notice s 7
  case normal.exhausted | warned.exhausted => exact grace rfl
  case exhausted.normal | exhausted.warned => exact restored
  all_goals rfl

/-- What such a transition does to each line, a tariff needed for the grace time alone (R82 to R84). -/
theorem State.line_transition (hb : (s.account? n).map Account.budget = some budget)
    (hg : new = .exhausted → s.GraceGiven) (j : LineId) : (s.applyTransition ⟨n, old, new⟩).line j
      = if j ∈ s.sessionsOf n then s.lineAfter old new budget (s.line j) else s.line j := by
  by_cases hnew : new = .exhausted
  · obtain ⟨tariff, ht, hgrace⟩ := hg hnew
    exact State.line_applyTransition hb ht (fun _ => hgrace) j
  have warned : (s.noticeSessions n 7).line j
      = if j ∈ s.sessionsOf n then s.lineAfter .normal .warned budget (s.line j) else s.line j := by
    rw [State.line_noticeSessions, hb, State.noticed, Line.place_eq]; rfl
  have restored : ((s.endGrace n).noticeSessions n 13).line j
      = if j ∈ s.sessionsOf n then s.lineAfter .exhausted .normal budget (s.line j) else s.line j := by
    rw [State.line_noticeSessions, State.sessionsOf_endGrace, State.account?_endGrace, hb, State.line_endGrace]
    split
    · rw [State.noticed, Line.place_eq, State.textFor, State.endGrace_texts]; rfl
    · rfl
  cases old <;> cases new
  case normal.warned => exact warned
  case exhausted.normal | exhausted.warned => exact restored
  case normal.exhausted | warned.exhausted | exhausted.exhausted => exact absurd rfl hnew
  all_goals exact (ite_self _).symm

end

/-! ### An account re-evaluated, with its effects -/

/-- The BUDGET order with `n` put at its end where a transition sets the account's flag (R85, R163). -/
def State.orderAfter (s : State) (a : Account) (st : BudgetState) : List Name :=
  s.link.budgetOrder ++ (if st ≠ a.bstate ∧ a.notice = none then [a.name] else [])

/-- `t` is `s` with the account `a` re-evaluated to `st` and the transition's effects on its sessions, if it makes one
(R81 to R85). -/
structure State.Acted (s t : State) (a : Account) (st : BudgetState) : Prop where
  accounts : ∀ m, t.account? m = if m = a.name then some { a with
    bstate := st
    notice := if st = a.bstate then a.notice else some (a.flagAfter a.budget st) } else s.account? m
  length : t.accounts.length = s.accounts.length
  frame : { t with accounts := s.accounts, lines := s.lines }
    = { s with link := { s.link with budgetOrder := s.orderAfter a st } }
  lines : ∀ i, t.line i
    = if i ∈ s.sessionsOf a.name then s.lineAfter a.bstate st a.budget (s.line i) else s.line i

section
variable {s t : State} {a : Account} {st : BudgetState}

theorem State.Acted.store (h : s.Acted t a st) : t.store = s.store := (congrArg State.store h.frame :)
theorem State.Acted.clock (h : s.Acted t a st) : t.clock = s.clock := (congrArg State.clock h.frame :)
theorem State.Acted.tariff (h : s.Acted t a st) : t.tariff = s.tariff := (congrArg State.tariff h.frame :)
theorem State.Acted.service (h : s.Acted t a st) : t.service = s.service := (congrArg State.service h.frame :)
theorem State.Acted.link (h : s.Acted t a st) : t.link = { s.link with budgetOrder := s.orderAfter a st } :=
  (congrArg State.link h.frame :)

end

theorem State.lineAfter_self (s : State) (st : BudgetState) (budget : Int) (l : Line) :
    s.lineAfter st st budget l = l := by
  cases st <;> rfl

theorem storeAccount_length {b : Account} {xs : List Account} (h : ∃ a ∈ xs, a.name = b.name) :
    (storeAccount b xs).length = xs.length := by
  obtain ⟨a, ha, hn⟩ := h
  rw [storeAccount, if_pos (List.any_eq_true.2 ⟨a, ha, decide_eq_true hn⟩), List.length_map]

theorem State.putAccount_length {s : State} {a b : Account} (h : s.account? b.name = some a) :
    (s.putAccount b).accounts.length = s.accounts.length :=
  storeAccount_length ⟨a, List.mem_of_find?_eq_some h, State.account?_name h⟩

theorem insertAccount_length (b : Account) (xs : List Account) : (insertAccount b xs).length = xs.length + 1 := by
  have hsplit := congrArg List.length
    (List.takeWhile_append_dropWhile (p := fun c : Account => decide (nameKey c.name < nameKey b.name)) (l := xs))
  rw [List.length_append] at hsplit
  rw [insertAccount, List.length_append, List.length_cons]
  omega

theorem State.putAccount_length_new {s : State} {b : Account} (h : s.account? b.name = none) :
    (s.putAccount b).accounts.length = s.accounts.length + 1 := by
  have hany : ¬ (s.accounts.any fun c => decide (c.name = b.name)) = true := fun hany => by
    obtain ⟨a, ha, hn⟩ := List.any_eq_true.1 hany
    exact absurd hn (List.find?_eq_none.1 h a ha)
  show (storeAccount b s.accounts).length = _
  rw [storeAccount, if_neg hany, insertAccount_length]

section
variable {s : State} {a : Account} {st : BudgetState}

/-- A re-evaluation that changes the budget state is a debit of nothing that does (R81). -/
theorem State.reevaluate_turned (ha : s.account? a.name = some a)
    (hst : st = s.stateOfBudget a.budget a.overdraft a.cls) (hne : st ≠ a.bstate) :
    s.reevaluate a.name = ({ s.putAccount (a.turned a.budget st) with
      link := { s.link with budgetOrder := s.orderAfter a st } }, some ⟨a.name, a.bstate, st⟩) := by
  have hst' : budgetStateOf a.budget a.overdraft (s.warnLevel a.cls) = st := (s.budgetStateOf_eq ..).trans hst.symm
  have hflag : raiseBudget a.notice a.budget st = a.flagAfter a.budget st := by
    cases hn : a.notice <;> simp [raiseBudget, Account.flagAfter, hn, satAdd, max8]
  have horder : (if a.notice.isNone then s.link.budgetOrder ++ [a.name] else s.link.budgetOrder)
      = s.orderAfter a st := by
    unfold State.orderAfter
    cases hn : a.notice <;> simp [hne]
  rw [State.reevaluate, ha]
  dsimp only
  rw [hst', if_neg hne, hflag, horder]
  rfl

/-- A re-evaluation and its effects where no session ends (R81 to R85). -/
theorem State.reevaluateAct_acted (ha : s.account? a.name = some a)
    (hst : st = s.stateOfBudget a.budget a.overdraft a.cls)
    (hg : st = .exhausted → a.bstate = .exhausted ∨ s.GraceGiven) : s.Acted (s.reevaluateAct a.name) a st := by
  by_cases hq : st = a.bstate
  · have hquiet : s.reevaluateAct a.name = s := by
      rw [State.reevaluateAct, State.reevaluate_quiet ha (hst.symm.trans hq)]; rfl
    rw [hquiet]
    refine ⟨fun m => ?_, rfl, ?_, fun i => ?_⟩
    · rw [if_pos hq, hq]
      split
      next e => rw [e, ha]
      next => rfl
    · rw [State.orderAfter, if_neg fun h => h.1 hq, List.append_nil]
    · rw [← hq, State.lineAfter_self, ite_self]
  · set p : State := { s.putAccount (a.turned a.budget st) with
      link := { s.link with budgetOrder := s.orderAfter a st } } with hp
    have hact : s.reevaluateAct a.name = p.applyTransition ⟨a.name, a.bstate, st⟩ := by
      rw [State.reevaluateAct, State.reevaluate_turned ha hst hq]; rfl
    have hg' : st = .exhausted → p.GraceGiven := fun e => (hg e).resolve_left fun h => hq (e.trans h.symm)
    have hput (m : Name) : p.account? m = if m = a.name then some (a.turned a.budget st) else s.account? m :=
      s.account?_putAccount (a.turned a.budget st) m
    have hframe : p.LinesAlone (p.applyTransition ⟨a.name, a.bstate, st⟩) := State.applyTransition_linesAlone hg'
    have haccounts : (p.applyTransition ⟨a.name, a.bstate, st⟩).accounts = p.accounts := by rw [hframe]
    rw [hact]
    refine ⟨fun m => ?_, ?_, ?_, fun i => ?_⟩
    · rw [State.account?_congr haccounts, hput, if_neg hq]; rfl
    · rw [haccounts]; exact State.putAccount_length (b := a.turned a.budget st) ha
    · rw [hframe]; rfl
    · rw [State.line_transition (budget := a.budget) (by rw [hput, if_pos rfl]; rfl) hg']
      rfl

/-- A debit and its effects where no session ends (R80 to R85). -/
theorem State.applyEffects_debit_acted {z budget : Int} (ha : s.account? a.name = some a)
    (hb : budget = clampBudget (a.budget - z)) (hst : st = s.stateOfBudget budget a.overdraft a.cls)
    (hg : st = .exhausted → a.bstate = .exhausted ∨ s.GraceGiven) :
    (s.putAccount { a with budget := budget }).Acted (State.applyEffects (s.debit a.name z)) { a with budget := budget }
      st := by
  have hdebit : State.applyEffects (s.debit a.name z)
      = (s.putAccount { a with budget := budget }).reevaluateAct a.name := by
    rw [State.debit, ha]
    dsimp only
    rw [satBudget_eq_clampBudget, ← hb]
    rfl
  rw [hdebit]
  exact State.reevaluateAct_acted (s := s.putAccount { a with budget := budget }) (a := { a with budget := budget })
    ((s.account?_putAccount ..).trans (if_pos rfl)) hst hg

end

/-! ### CREDIT ACCOUNT -/

section
variable {s : State} {a : Account} {st : BudgetState} {budget : Int}

/-- The lines after a credit, told apart by the transition it makes (R82 to R84). -/
theorem State.lineAfter_cases {l : Line} {ses : Session} (hs : l.session = some ses) (hspeed : l.unit.speed ≠ none)
    (old : BudgetState) :
    (old = .normal → st = .warned → s.lineAfter old st budget l = { l with out := { l.out with
      noticeWait := s.textFor 7 (some budget) (some ses.meter.units), waitPrompt := none } })
    ∧ (old = .exhausted → st ≠ .exhausted → s.lineAfter old st budget l = { l with
      state := .active
      session := some { ses with meter := { ses.meter with grace := none } }
      out := { l.out with noticeWait := s.textFor 13 (some budget) (some ses.meter.units), waitPrompt := none } })
    ∧ (old ≠ .exhausted → st = .exhausted → s.lineAfter old st budget l = { l with
      state := .grace
      session := some { ses with meter := { ses.meter with grace := s.tariff.map Tariff.grace, graceFlag := true } }
      out := { l.out with noticeWait := s.textFor 8 (some budget) (some ses.meter.units), waitPrompt := none } }) := by
  refine ⟨?_, ?_, ?_⟩
  · rintro rfl rfl
    simp only [State.lineAfter, if_neg hspeed, hs, Option.map_some]
  · rintro rfl hne
    cases st with
    | exhausted => exact absurd rfl hne
    | normal | warned => simp only [State.lineAfter, if_neg hspeed, hs, Option.map_some]
  · rintro hne rfl
    cases old with
    | exhausted => exact absurd rfl hne
    | normal | warned => simp only [State.lineAfter, if_neg hspeed, hs, Option.map_some]

end

/-- Settles O26: the amount checked, and then a debit of its negative with the effects of the transition it makes
(R80 to R85, R91). -/
theorem creditAccountActsOnBudgetAndSessions : Obligations.CreditAccountActsOnBudgetAndSessions := by
  intro s label n a amount rest budget st hn ha h hbudget hst
  obtain rfl : a.name = n := State.account?_name ha
  have ha' : s.dropFrame.account? a.name = some a := ha
  refine ⟨fun hbig => ?_, fun hsmall hg => ?_⟩
  · have hrange : amount.toInt < -1000000 ∨ 1000000 < amount.toInt := by omega
    exact State.request_answered (handle := creditAccountReq) h
      (by simp only [creditAccountReq, readCredit_eq hn, withFields, if_pos hrange]; rfl)
  · have hrange : ¬ (amount.toInt < -1000000 ∨ 1000000 < amount.toInt) := by omega
    have hacted := State.applyEffects_debit_acted (z := -amount.toInt) ha' (by rw [hbudget, sub_neg_eq_add]) hst
      fun e => .inr (hg e)
    set u := s.dropFrame.creditAccount a.name amount.toInt with hu
    have haccounts := hacted.accounts
    have hown := (haccounts a.name).trans (if_pos rfl)
    have hreply : u.creditReply a.name = beInt32 budget ++ [st.code] := by
      rw [State.creditReply, show u.account? a.name = _ from hown]
    refine ⟨u.pushReply ⟨0x1A + 0x80, label, .done, beInt32 budget ++ [st.code]⟩, ?_, ?_, fun m hm => ?_, ?_, ?_, ?_,
      ?_, ?_, ?_, fun i => ?_⟩
    · refine (State.request_asked h creditAccountReq).trans ?_
      simp only [creditAccountReq, readCredit_eq hn, withFields, if_neg hrange, onAccount_present ha', ← hu, hreply]
      rfl
    · refine hown.trans (congrArg some ?_)
      split
      next hq => rw [hq]
      next => rfl
    · exact (haccounts m).trans ((if_neg hm).trans ((State.account?_putAccount ..).trans (if_neg hm)))
    · exact hacted.store
    · exact hacted.clock
    · exact hacted.tariff
    · exact hacted.service
    · exact congrArg (fun k : Link => k.replies ++ [⟨0x9A, label, .done, beInt32 budget ++ [st.code]⟩]) hacted.link
    · exact congrArg Link.budgetOrder hacted.link
    · have hline : (u.pushReply ⟨0x1A + 0x80, label, .done, beInt32 budget ++ [st.code]⟩).line i
        = if i ∈ s.sessionsOf a.name then s.lineAfter a.bstate st budget (s.line i) else s.line i := hacted.lines i
      rw [hline]
      refine ⟨?_, fun hi ses hs hspeed => ?_⟩
      · rintro (hi | hq | ⟨hold, hnew⟩)
        · exact if_neg hi
        · rw [← hq, State.lineAfter_self, ite_self]
        · rw [hold, hnew]; exact ite_self _
      · rw [if_pos hi]
        exact State.lineAfter_cases hs hspeed a.bstate

/-! ### LOAD ACCOUNT -/

/-- The fields of LOAD ACCOUNT, each in its range, make the entry they carry (R79, R88). -/
theorem RawAccount.check?_good {n : Name} {check : BitVec 32} {cls : Cls} {budget : Int}
    {overdraft limit failLimit : Nat} {state : AcctState} (ho : overdraft ≤ 1000000) (hpos : 1 ≤ limit)
    (hlimit : limit ≤ 4) (hfail : failLimit ≤ 15) :
    RawAccount.check? ⟨some n, check.toNat, byteOf cls.val, budget, overdraft, byteOf limit, state.code,
        byteOf failLimit⟩
      = .ok ⟨n, check, cls, budget, overdraft, limit, state, 0, failLimit, .normal, 0, none⟩ := by
  have small {k : Nat} (hk : k < 256) : (byteOf k).toNat = k := (byteOf_toNat k).trans (Nat.mod_eq_of_lt hk)
  have hcls : clsOf (byteOf cls.val) = some cls := by
    have hk := small (k := cls.val) (by omega)
    unfold clsOf
    rw [dif_pos (by omega)]
    exact congrArg some (Fin.ext hk)
  unfold RawAccount.check?
  simp only [hcls, AcctState.ofCode_code, small (show limit < 256 by omega), small (show failLimit < 256 by omega),
    if_pos ho, if_pos (And.intro hpos hlimit), if_pos hfail, BitVec.ofNat_toNat, BitVec.setWidth_eq]
  rfl

section
variable {f : List Byte} {s : State} {raw : RawAccount} {a : Account}

theorem loadAccountReq_full (hr : readAccountFields f = some raw) (hc : raw.check? = .ok a)
    (hnew : s.account? a.name = none) (hfull : 1024 ≤ s.accounts.length) :
    loadAccountReq f s = (s, answerOf .tableFull) := by
  simp only [loadAccountReq, hr, withFields, hc, hnew]
  exact if_pos ⟨rfl, hfull⟩

theorem loadAccountReq_taken (hr : readAccountFields f = some raw) (hc : raw.check? = .ok a)
    (hroom : s.account? a.name = none → s.accounts.length < 1024) :
    loadAccountReq f s = (s.loadAccount a, answerDone ((s.loadAccount a).loadReply a.name)) := by
  simp only [loadAccountReq, hr, withFields, hc]
  exact if_neg fun h => absurd h.2 (Nat.not_le.2 (hroom (Option.isNone_iff_eq_none.1 h.1)))

/-- A new entry is evaluated without a transition (R89). -/
theorem State.loadAccount_new (hnew : s.account? a.name = none) : s.loadAccount a
    = s.putAccount { a with bstate := s.stateOfBudget a.budget a.overdraft a.cls } := by
  rw [State.loadAccount, hnew]
  dsimp only
  rw [State.budgetStateOf_eq]

/-- The controller's fields of `old` kept under the host fields of `a` (R88). -/
def Account.replacing (a old : Account) : Account :=
  { a with failures := old.failures, bstate := old.bstate, active := old.active, notice := old.notice }

theorem State.loadAccount_existing {old : Account} (hold : s.account? a.name = some old) :
    s.loadAccount a = (s.putAccount (a.replacing old)).reevaluateAct a.name := by
  rw [State.loadAccount, hold]
  rfl

/-- The LOAD ACCOUNT reply's fields, from the entry as it is in the end (R88). -/
theorem State.loadReply_eq {n : Name} {budget : BitVec 32} (ha : s.account? n = some a) (hb : a.budget = budget.toInt) :
    s.loadReply n = padName n ++ be32 budget.toNat ++ [a.bstate.code, byteOf a.active] := by
  rw [State.loadReply, ha]
  dsimp only
  rw [hb, beInt32, BitVec.ofInt_toInt]

variable {label : Byte} {budget : BitVec 32} {st : BudgetState}

/-- LOAD ACCOUNT of a name that is not in the table (R88, R89). -/
theorem exec_loadAccount_new (h : s.Asked 0x18 label f) (hr : readAccountFields f = some raw)
    (hc : raw.check? = .ok a) (hb : a.budget = budget.toInt) (hnew : s.account? a.name = none)
    (hroom : s.accounts.length < 1024) (hst : st = s.stateOfBudget a.budget a.overdraft a.cls) :
    exec .loadAccount s = .next ((s.putAccount { a with bstate := st }).answered 0x18 label .done
      (padName a.name ++ be32 budget.toNat ++ [st.code, byteOf a.active])) := by
  have hload : s.dropFrame.loadAccount a = (s.putAccount { a with bstate := st }).dropFrame := by
    rw [State.loadAccount_new (s := s.dropFrame) hnew, hst]; rfl
  have hreply := State.loadReply_eq (s := (s.putAccount { a with bstate := st }).dropFrame)
    ((s.account?_putAccount { a with bstate := st } a.name).trans (if_pos rfl)) hb
  refine State.request_answered (t := s.putAccount { a with bstate := st }) (handle := loadAccountReq) h ?_
  rw [loadAccountReq_taken (s := s.dropFrame) hr hc fun _ => hroom, hload]
  exact congrArg (fun x => (_, answerDone x)) hreply

/-- LOAD ACCOUNT of the entry `old` (R88). -/
theorem exec_loadAccount_existing {old : Account} (h : s.Asked 0x18 label f) (hr : readAccountFields f = some raw)
    (hc : raw.check? = .ok a) (hb : a.budget = budget.toInt) (hold : s.account? a.name = some old)
    (hst : st = s.stateOfBudget a.budget a.overdraft a.cls)
    (hg : st = .exhausted → old.bstate = .exhausted ∨ s.GraceGiven) :
    ∃ u, (s.dropFrame.putAccount (a.replacing old)).Acted u (a.replacing old) st
      ∧ exec .loadAccount s = .next (u.pushReply ⟨0x18 + 0x80, label, .done,
        padName a.name ++ be32 budget.toNat ++ [st.code, byteOf old.active]⟩) := by
  have hput : (s.dropFrame.putAccount (a.replacing old)).account? a.name = some (a.replacing old) :=
    (State.account?_putAccount ..).trans (if_pos rfl)
  have hacted : (s.dropFrame.putAccount (a.replacing old)).Acted (s.dropFrame.loadAccount a) (a.replacing old) st := by
    rw [State.loadAccount_existing (s := s.dropFrame) hold]
    exact State.reevaluateAct_acted (a := a.replacing old) hput hst hg
  have hreply : (s.dropFrame.loadAccount a).loadReply a.name
      = padName a.name ++ be32 budget.toNat ++ [st.code, byteOf old.active] :=
    State.loadReply_eq ((hacted.accounts a.name).trans (if_pos rfl)) hb
  refine ⟨s.dropFrame.loadAccount a, hacted, (State.request_asked h loadAccountReq).trans ?_⟩
  rw [loadAccountReq_taken (s := s.dropFrame) hr hc (fun hnone => nomatch hold.symm.trans hnone), ← hreply]
  rfl

end

/-- Settles O23: a new entry is put into the table, and in an existing one the host fields are replaced and the budget
re-evaluated, with the effects of the transition it makes (R79 to R85, R88, R89). -/
theorem loadAccountAddsOrReplaces : Obligations.LoadAccountAddsOrReplaces := by
  intro s label n check cls budget overdraft limit failLimit state rest st hn ho hpos hlimit hfail h hst
  have hread := readAccountFields_eq hn check budget (show overdraft < 4294967296 by omega) (byteOf cls.val)
    (byteOf limit) state.code (byteOf failLimit) rest
  have hcheck := RawAccount.check?_good (n := n) (check := check) (cls := cls) (budget := budget.toInt) (state := state)
    ho hpos hlimit hfail
  refine ⟨fun hnew hfull => ?_, fun hnew hroom => ?_, fun a ha hg => ?_⟩
  · exact State.request_answered (handle := loadAccountReq) h
      (loadAccountReq_full (s := s.dropFrame) hread hcheck hnew hfull)
  · have haccount := s.account?_putAccount
      ⟨n, check, cls, budget.toInt, overdraft, limit, state, 0, failLimit, st, 0, none⟩
    exact ⟨_, exec_loadAccount_new h hread hcheck rfl hnew hroom hst, (haccount n).trans (if_pos rfl),
      fun m hm => (haccount m).trans (if_neg hm), State.putAccount_length_new hnew, rfl⟩
  · obtain ⟨u, hacted, hexec⟩ := exec_loadAccount_existing h hread hcheck rfl ha hst hg
    refine ⟨_, hexec, (hacted.accounts n).trans ((if_pos rfl).trans ?_), fun m hm => ?_, ?_, ?_, hacted.lines⟩
    · rw [← State.account?_name ha]; rfl
    · exact (hacted.accounts m).trans ((if_neg hm).trans ((State.account?_putAccount ..).trans (if_neg hm)))
    · exact hacted.length.trans (State.putAccount_length (s := s.dropFrame) ha)
    · exact congrArg (fun t : State => State.pushReply { t with accounts := s.accounts } ⟨0x18 + 0x80, label, .done,
        padName n ++ be32 budget.toNat ++ [st.code, byteOf a.active]⟩) hacted.frame

end Sys2Proof.Machine
end


section
/-! What the other accounts' part of a metering tick leaves as it is: the account `n`, its sessions, and whatever was
recorded (O58). -/

namespace Sys2Proof.Machine

/-! ### What is done beside an account -/

/-- The session of line `j` is another account's than `n`. -/
def State.Foreign (s : State) (n : Name) (j : LineId) : Prop := ∃ m, m ≠ n ∧ (s.line j).account? = some m

/-- `t` comes of `s` by what is done to the sessions of other accounts than `n`. -/
structure State.Beside (s t : State) (n : Name) : Prop where
  account : t.account? n = s.account? n
  tariff : t.tariff = s.tariff
  texts : t.texts = s.texts
  clock : t.clock = s.clock
  records : s.store.records ⊆ t.store.records
  kept : ∀ j, ¬ s.Foreign n j → t.line j = s.line j ∧ t.store.checkpoints.get j = s.store.checkpoints.get j
  apart : ∀ j, s.Foreign n j → (t.line j).account? ≠ some n

section
variable {s t u : State} {n m : Name}

theorem State.Foreign.ne {j : LineId} (h : s.Foreign n j) : (s.line j).account? ≠ some n := by
  obtain ⟨m, hm, ha⟩ := h
  rw [ha]; exact fun e => hm (Option.some.inj e)

/-- A line whose session is not the account's has none or is another account's. -/
theorem State.foreign_or_none {j : LineId} (h : (s.line j).account? ≠ some n) :
    s.Foreign n j ∨ (s.line j).session = none := by
  cases hs : (s.line j).session with
  | none => exact .inr rfl
  | some ses =>
    have ha : (s.line j).account? = some ses.meter.account := by rw [Line.account?, hs]; rfl
    exact .inl ⟨_, fun e => h (e ▸ ha), ha⟩

theorem State.Beside.refl (s : State) (n : Name) : s.Beside s n :=
  ⟨rfl, rfl, rfl, rfl, fun _ h => h, fun _ _ => ⟨rfl, rfl⟩, fun _ h => h.ne⟩

/-- A line that is not the account's does not become it. -/
theorem State.Beside.ne (h : s.Beside t n) {j : LineId} (hj : (s.line j).account? ≠ some n) :
    (t.line j).account? ≠ some n := by
  by_cases hf : s.Foreign n j
  · exact h.apart j hf
  · rw [(h.kept j hf).1]; exact hj

theorem State.Beside.trans (h : s.Beside t n) (h' : t.Beside u n) : s.Beside u n where
  account := h'.account.trans h.account
  tariff := h'.tariff.trans h.tariff
  texts := h'.texts.trans h.texts
  clock := h'.clock.trans h.clock
  records := fun _ hr => h'.records (h.records hr)
  kept j hj := by
    obtain ⟨hline, hentry⟩ := h.kept j hj
    obtain ⟨hline', hentry'⟩ := h'.kept j fun ⟨m, hm, ha⟩ => hj ⟨m, hm, hline ▸ ha⟩
    exact ⟨hline'.trans hline, hentry'.trans hentry⟩
  apart j hj := h'.ne (h.apart j hj)

/-- The account's own line is left as it is. -/
theorem State.Beside.own (h : s.Beside t n) {j : LineId} (hj : (s.line j).account? = some n) : t.line j = s.line j :=
  (h.kept j fun hf => hf.ne hj).1

/-- A line of the account was the account's before. -/
theorem State.Beside.own_iff (h : s.Beside t n) (j : LineId) :
    (t.line j).account? = some n ↔ (s.line j).account? = some n :=
  ⟨fun ht => by_contra fun hs => h.ne hs ht, fun hs => by rw [h.own hs]; exact hs⟩

theorem account?_of_seat_eq {l : Line} {p : Bool × Option Name} (h : l.seat = p) : l.account? = p.2 :=
  congrArg Prod.snd h

/-- A line without a session, and its checkpoint entry, are left as they are. -/
theorem State.Beside.idle (h : s.Beside t n) {j : LineId} (hj : (s.line j).session = none) :
    t.line j = s.line j ∧ t.store.checkpoints.get j = s.store.checkpoints.get j :=
  h.kept j fun ⟨m, _, ha⟩ => by rw [Line.account?, hj] at ha; cases ha

theorem State.Beside.foldl {α : Type} {g : State → α → State} {as : List α} {P : State → α → Prop}
    (hkeep : ∀ (s t : State) a, s.Beside t n → P s a → P t a)
    (hg : ∀ (s : State), ∀ a ∈ as, P s a → s.Beside (g s a) n) (hs : ∀ a ∈ as, P s a) : s.Beside (as.foldl g s) n := by
  induction as generalizing s with
  | nil => exact .refl s n
  | cons a as ih =>
    have hone := hg s a (List.mem_cons_self ..) (hs a (List.mem_cons_self ..))
    exact hone.trans (ih (fun s b hb => hg s b (List.mem_cons_of_mem _ hb))
      fun b hb => hkeep _ _ b hone (hs b (List.mem_cons_of_mem _ hb)))

/-- Lines of other accounts written, their seats left. -/
theorem State.Beside.updLines {is : List LineId} (hn : is.Nodup) {f : LineId → Line → Line}
    (h : ∀ i ∈ is, s.Foreign n i ∧ (f i (s.line i)).seat = (s.line i).seat) : s.Beside (s.updLines is f) n := by
  have hline (j : LineId) := s.line_updLines hn f j
  have hframe := s.updLines_eq is f
  generalize s.updLines is f = t at hline hframe
  refine ⟨by rw [hframe]; rfl, by rw [hframe], by rw [hframe], by rw [hframe], by rw [hframe]; exact fun _ h => h,
    fun j hj => ⟨?_, by rw [hframe]⟩, fun j hj => ?_⟩
  · rw [hline, if_neg fun hi => hj (h j hi).1]
  · rw [hline]
    split
    next hi => rw [account?_of_seat (h j hi).2]; exact hj.ne
    next => exact hj.ne

theorem State.Beside.updLine {i : LineId} (hi : s.Foreign n i) {f : Line → Line}
    (h : (f (s.line i)).seat = (s.line i).seat) : s.Beside (s.updLine i f) n :=
  State.Beside.updLines (is := [i]) (List.nodup_singleton i) (f := fun _ => f) fun j hj => by
    rw [List.mem_singleton.1 hj]; exact ⟨hi, h⟩

/-! ### Debits and ends beside an account -/

/-- A debit writes accounts and the BUDGET order alone (R80, R81). -/
theorem State.debit_frame (s : State) (m : Name) (z : Int) :
    ∃ accounts link, (s.debit m z).1 = { s with accounts := accounts, link := link } := by
  unfold State.debit State.reevaluate
  split
  · exact ⟨s.accounts, s.link, rfl⟩
  · dsimp only
    split
    · exact ⟨_, s.link, rfl⟩
    · split
      · exact ⟨_, s.link, rfl⟩
      · exact ⟨_, _, rfl⟩

theorem State.Beside.debit (s : State) (hm : m ≠ n) (z : Int) : s.Beside (s.debit m z).1 n := by
  have haccount := (s.account?_debit m z n).trans (if_neg hm.symm)
  obtain ⟨accounts, link, hframe⟩ := s.debit_frame m z
  rw [hframe] at haccount ⊢
  exact ⟨haccount, rfl, rfl, rfl, fun _ h => h, fun _ _ => ⟨rfl, rfl⟩, fun _ h => h.ne⟩

theorem State.reevaluate_transition {tr : Transition} (h : (s.reevaluate m).2 = some tr) : tr.account = m := by
  unfold State.reevaluate at h
  split at h
  · cases h
  · dsimp only at h
    split at h <;> cases h
    rfl

theorem State.debit_transition {z : Int} {tr : Transition} (h : (s.debit m z).2 = some tr) : tr.account = m := by
  unfold State.debit at h
  split at h
  · cases h
  · exact State.reevaluate_transition h

theorem State.giveBack_frame (s : State) (m : Name) : ∃ accounts, s.giveBack m = { s with accounts := accounts } := by
  unfold State.giveBack
  split
  exacts [⟨_, rfl⟩, ⟨_, rfl⟩]

/-- Steps 1 to 3 of the end sequence write no line, and the store by the append alone (R131). -/
theorem State.closing_frame (s : State) (i : LineId) (ses : Session) (r : EndReason) :
    (s.closing i ses r).texts = s.texts ∧ (s.closing i ses r).clock = s.clock ∧ (s.closing i ses r).lines = s.lines
    ∧ ∃ charge, (s.closing i ses r).store = s.store.append i charge r false := by
  obtain ⟨accounts, link, hdebit⟩ := s.debit_frame ses.meter.account (s.roundingUnit ses.meter.residue)
  rw [State.closing, hdebit]
  dsimp only
  obtain ⟨accounts', hback⟩ := State.giveBack_frame (State.testChargeLevel { s with
    accounts := accounts, link := link, store := s.store.append i (s.closedCharge i ses.meter
      (satAdd max32 ses.meter.units (s.roundingUnit ses.meter.residue)) (ses.meter.saturated
        || decide (max32 < ses.meter.units + s.roundingUnit ses.meter.residue))) r false }) ses.meter.account
  rw [hback]
  dsimp only
  exact ⟨State.testChargeLevel_texts _, State.testChargeLevel_clock _, State.testChargeLevel_lines _, _,
    State.testChargeLevel_store _⟩

theorem State.Beside.endSession {i : LineId} (hi : s.Foreign n i) (r : EndReason) (keep : Bool) :
    s.Beside (s.endSession i r keep).1 n := by
  obtain ⟨m, hm, ha⟩ := id hi
  obtain ⟨ses, hs, rfl⟩ := Option.map_eq_some_iff.1 ha
  obtain ⟨l, hl⟩ := s.endSession_eq_closing r keep hs
  have hseat := State.endSession_seat hs r keep
  obtain ⟨htexts, hclock, hlines, charge, hstore⟩ := s.closing_frame i ses r
  have haccount := (s.account?_closing (i := i) (ses := ses) r n).trans (if_neg hm.symm)
  have htariff := s.closing_tariff (i := i) (ses := ses) r
  rw [hl] at hseat ⊢
  generalize s.closing i ses r = c at haccount htariff htexts hclock hlines hstore hseat
  refine ⟨haccount, htariff, htexts, hclock, ?_, fun j hj => ?_, fun j hj => ?_⟩
  · show _ ⊆ c.store.records
    rw [hstore, Store.append_records]
    exact List.subset_append_left ..
  · have hji : j ≠ i := fun e => hj (e ▸ hi)
    refine ⟨(State.line_setLine ..).trans ((if_neg hji).trans (State.line_congr hlines j)), ?_⟩
    show c.store.checkpoints.get j = _
    rw [hstore, Store.append_checkpoints, if_neg hji]
  · have hj' := account?_of_seat_eq (hseat j)
    split at hj'
    · rw [hj']; exact nofun
    · rw [hj']; exact hj.ne

theorem State.Beside.endSession_ne {i : LineId} (hi : (s.line i).account? ≠ some n) (r : EndReason) (keep : Bool) :
    s.Beside (s.endSession i r keep).1 n := by
  rcases State.foreign_or_none hi with hf | hs
  · exact .endSession hf r keep
  · rw [State.endSession_none hs]; exact .refl s n

/-! ### Transitions of other accounts -/

theorem State.foreign_of_mem {j : LineId} (hm : m ≠ n) (hj : j ∈ s.sessionsOf m) : s.Foreign n j :=
  ⟨m, hm, ((State.mem_sessionsOf ..).1 hj).2⟩

theorem State.Beside.noticeSessions (s : State) (hm : m ≠ n) (k : Fin 16) : s.Beside (s.noticeSessions m k) n :=
  .updLines (s.nodup_sessionsOf m) fun _ hi => ⟨State.foreign_of_mem hm hi, Line.place_seat ..⟩

theorem State.Beside.endGrace (s : State) (hm : m ≠ n) : s.Beside (s.endGrace m) n :=
  .updLines (s.nodup_sessionsOf m) fun _ hi =>
    ⟨State.foreign_of_mem hm hi, Line.leaveGrace_seat ((State.mem_sessionsOf ..).1 hi).1⟩

theorem State.Beside.takeOrder {α : Type} [DecidableEq α] (s : State) (n : Name) (key : α → Nat) (xs : List α) :
    s.Beside (s.takeOrder key xs).2 n :=
  ⟨rfl, rfl, rfl, rfl, fun _ h => h, fun _ _ => ⟨rfl, rfl⟩, fun _ h => h.ne⟩

theorem State.Beside.endEach (r : EndReason) {is : List LineId} (h : ∀ i ∈ is, (s.line i).account? ≠ some n) :
    s.Beside (s.endEach r is) n :=
  .foldl (P := fun s i => (s.line i).account? ≠ some n) (fun _ _ _ hb => hb.ne)
    (fun _ _ _ hi => .endSession_ne hi r false) h

theorem State.Beside.beginGrace (s : State) (hm : m ≠ n) : s.Beside (s.beginGrace m) n := by
  unfold State.beginGrace
  split
  · refine (State.Beside.takeOrder s n _ _).trans (.endEach _ fun i hi => ?_)
    have hperm := (State.takeOrder_spec (fun i : LineId => i.val) (s.nodup_sessionsOf m) s).1
    exact (State.foreign_of_mem hm (hperm.mem_iff.1 hi)).ne
  · exact .updLines (s.nodup_sessionsOf m) fun _ hi =>
      ⟨State.foreign_of_mem hm hi, Line.enterGrace_seat ((State.mem_sessionsOf ..).1 hi).1 _⟩

theorem State.Beside.applyTransition (s : State) {tr : Transition} (hm : tr.account ≠ n) :
    s.Beside (s.applyTransition tr) n := by
  unfold State.applyTransition
  split
  · exact .noticeSessions s hm _
  · exact (State.Beside.noticeSessions s hm _).trans (.beginGrace _ hm)
  · exact (State.Beside.noticeSessions s hm _).trans (.beginGrace _ hm)
  · exact (State.Beside.endGrace s hm).trans (.noticeSessions _ hm _)
  · exact (State.Beside.endGrace s hm).trans (.noticeSessions _ hm _)
  all_goals exact .refl s n

theorem State.Beside.applyEffects {p : State × Option Transition} (h : ∀ tr, p.2 = some tr → tr.account ≠ n) :
    p.1.Beside (State.applyEffects p) n := by
  unfold State.applyEffects
  split
  next tr htr => exact .applyTransition p.1 (h tr htr)
  next => exact .refl p.1 n

theorem State.Beside.debitAccount (before : State) (is : List LineId) (s : State) (hm : m ≠ n) :
    s.Beside (State.debitAccount before is s m) n :=
  (State.Beside.debit s hm _).trans (.applyEffects fun _ htr => by rw [State.debit_transition htr]; exact hm)

/-- The transition that an end hands back is its own account's (R120). -/
theorem State.endSession_transition {i : LineId} {ses : Session} (hs : (s.line i).session = some ses) (r : EndReason)
    (keep : Bool) {tr : Transition} (h : (s.endSession i r keep).2 = some tr) : tr.account = ses.meter.account := by
  have hdebit : (s.endSession i r keep).2 = (s.debit ses.meter.account (s.roundingUnit ses.meter.residue)).2 := by
    rw [State.endSession, hs]
  exact State.debit_transition (hdebit ▸ h)

theorem State.Beside.endOne {i : LineId} (hi : (s.line i).account? ≠ some n) (r : EndReason) (keep : Bool) :
    s.Beside (s.endOne i r keep) n := by
  refine (State.Beside.endSession_ne hi r keep).trans (.applyEffects fun tr htr => ?_)
  rcases State.foreign_or_none hi with ⟨m, hm, ha⟩ | hs
  · obtain ⟨ses, hs, rfl⟩ := Option.map_eq_some_iff.1 ha
    rw [State.endSession_transition hs r keep htr]; exact hm
  · rw [State.endSession_none hs] at htr; cases htr

/-! ### The countdowns of other accounts' sessions -/

theorem State.Beside.refresh {i : LineId} (hi : s.Foreign n i) (mt : Meter) : s.Beside (s.refresh i mt) n := by
  unfold State.refresh
  split
  · exact .refl s n
  · refine ⟨rfl, rfl, rfl, rfl, fun _ h => h, fun j hj => ⟨rfl, ?_⟩, fun _ h => h.ne⟩
    exact (Store.setCheckpoint_get ..).trans (if_neg fun e : j = i => hj (e ▸ hi))

theorem State.refresh_lines (s : State) (i : LineId) (mt : Meter) : (s.refresh i mt).lines = s.lines := by
  unfold State.refresh; split <;> rfl

theorem State.Beside.afterCharge (was : List LineId) {i : LineId} (hi : (s.line i).account? ≠ some n) :
    s.Beside (s.afterCharge was i) n := by
  rcases State.foreign_or_none hi with hf | hs
  · obtain ⟨m, hm, ha⟩ := id hf
    obtain ⟨ses, hs, rfl⟩ := Option.map_eq_some_iff.1 ha
    unfold State.afterCharge
    rw [hs]
    dsimp only
    have hrefresh : s.Beside (if ses.meter.seconds % 60 = 0 then s.refresh i ses.meter else s) n := by
      split
      exacts [.refresh hf _, .refl s n]
    have hlines : State.lines (if ses.meter.seconds % 60 = 0 then s.refresh i ses.meter else s) = s.lines := by
      split
      exacts [s.refresh_lines i _, rfl]
    generalize (if ses.meter.seconds % 60 = 0 then s.refresh i ses.meter else s) = s1 at hrefresh hlines
    have hs1 : (s1.line i).session = some ses := (congrArg Line.session (State.line_congr hlines i)).trans hs
    have hset {mt : Meter} (hmt : mt.account = ses.meter.account) :
        s.Beside (s1.updLine i (Line.updMeter fun _ => mt)) n :=
      hrefresh.trans (.updLine ⟨_, hm, by rw [Line.account?, hs1]; rfl⟩
        (Line.seat_eq rfl (by simp [Line.account?, Line.updMeter, hs1, hmt])))
    have hgrace := Meter.countGrace_account (was.contains i) ses.meter
    have hsilent := (Meter.countSilence_account (ses.meter.countGrace (was.contains i)).1).trans hgrace
    split
    · exact (hset hgrace).trans (.endOne ((hset hgrace).ne hi) _ _)
    · split
      · exact (hset hsilent).trans (.endOne ((hset hsilent).ne hi) _ _)
      · exact hset hsilent
  · unfold State.afterCharge
    rw [hs]
    exact .refl s n

end

end Sys2Proof.Machine
end


section
/-! The ends that an account exhausted without a grace time brings, each with its rounding unit and its record (O58). -/

namespace Sys2Proof.Machine

/-! ### Ends with what they record -/

/-- The session `ses` that line `i` has in `s` has ended in `t` with BUDGET, closed with the rounding unit `ru`: its
line, its checkpoint entry, its END and its record (R120, R121, R131, R133). -/
structure State.ClosedFor (s t : State) (i : LineId) (ses : Session) (ru : Nat) : Prop where
  session : (t.line i).session = none
  moved : (t.line i).state = .draining ∨ (t.line i).state = .hangup
  entry : t.store.checkpoints.get i = none
  report : ∃ e, (t.line i).reports.ended = some e ∧ e.reason = .budget ∧ e.tag = tagOf i (s.line i).generation
    ∧ e.units = min 4294967295 (ses.meter.units + ru) ∧ e.seconds = ses.meter.seconds
    ∧ ∃ r ∈ t.store.records, r.serial = e.serial ∧ r.reason = .budget ∧ r.recovered = false
      ∧ r.charge = s.closed i ses.meter ru

/-- The sessions of the lines `is`, all of the exhausted account `b` named `n`, have ended in `t`: the account has paid
their rounding units and has their places back (R83, R120, R131). -/
structure State.RoundedOff (s t : State) (n : Name) (b : Account) (ru : LineId → Nat) (is : List LineId) : Prop where
  account : t.account? n = some { b with
    budget := clampBudget (b.budget - ((is.map ru).sum : Nat)), active := b.active - is.length }
  tariff : t.tariff = s.tariff
  clock : t.clock = s.clock
  records : s.store.records ⊆ t.store.records
  kept : ∀ j, j ∉ is → t.line j = s.line j ∧ t.store.checkpoints.get j = s.store.checkpoints.get j
  closed : ∀ j ∈ is, ∀ ses, (s.line j).session = some ses → s.ClosedFor t j ses (ru j)

section
variable {s t u : State} {i : LineId} {ses : Session} {n : Name} {b : Account} {tariff : Tariff} {flag : BudgetFlag}
  {ru : LineId → Nat} {is : List LineId}

/-- What is done afterwards leaves the end as it is, where it leaves the line, its entry and the records. -/
theorem State.ClosedFor.later {k : Nat} (h : s.ClosedFor t i ses k) (hline : u.line i = t.line i)
    (hentry : u.store.checkpoints.get i = t.store.checkpoints.get i) (hrecords : t.store.records ⊆ u.store.records) :
    s.ClosedFor u i ses k := by
  obtain ⟨hsession, hmoved, hnone, e, he, hreason, htag, hunits, hseconds, r, hr, hrest⟩ := h
  exact ⟨by rw [hline, hsession], by rw [hline]; exact hmoved, hentry.trans hnone,
    e, by rw [hline, he], hreason, htag, hunits, hseconds, r, hrecords hr, hrest⟩

/-- The end does not depend on what was on the line but the session, its generation and its speed (R121, R133). -/
theorem State.ClosedFor.earlier {k : Nat} (h : t.ClosedFor u i ses k)
    (hgen : (t.line i).generation = (s.line i).generation) (hspeed : (t.line i).unit.speed = (s.line i).unit.speed)
    (hclock : t.clock = s.clock) : s.ClosedFor u i ses k := by
  obtain ⟨hsession, hmoved, hnone, e, he, hreason, htag, hunits, hseconds, r, hr, hserial, hbudget, hrec, hcharge⟩ := h
  refine ⟨hsession, hmoved, hnone, e, he, hreason, hgen ▸ htag, hunits, hseconds, r, hr, hserial, hbudget, hrec, ?_⟩
  rw [hcharge, State.closed, State.closed, hspeed, hclock]

/-- One such end, which makes no further transition (R81, R131). -/
theorem State.endSession_roundedOff (ht : s.tariff = some tariff) (hb : s.account? n = some b) (hspent : b.Spent flag)
    (hs : (s.line i).session = some ses) (hn : ses.meter.account = n)
    (hru : ru i = roundingUnitOf tariff.rounding ses.meter.residue) :
    s.RoundedOff (s.endSession i .budget false).1 n b ru [i] := by
  subst hn
  have hname : ses.meter.account = b.name := (State.account?_name hb).symm
  obtain ⟨paid, hpaid⟩ : ∃ paid, paid = clampBudget (b.budget - ru i) := ⟨_, rfl⟩
  have hspent' := hspent.pay (ru i)
  have hquiet : s.ClosesQuietly i ses b paid (s.closed i ses.meter (ru i)) :=
    ⟨hs, hb, ⟨tariff, ru i, ht, hru, hpaid, rfl⟩,
      (if_pos (hpaid ▸ hspent'.below)).trans hspent'.exhausted.symm⟩
  have hend := s.sessionEnded_quiet i ses b paid (s.closed i ses.meter (ru i)) .budget false
  have hended := congrArg LineReports.ended hend.reports
  rw [State.endSession_quiet hquiet]
  have haccount := (s.closedOut_account? i b paid .budget (s.closed i ses.meter (ru i)) ses.meter.account).trans
    (if_pos hname)
  refine ⟨haccount.trans ?_, State.closedOut_tariff .., State.closedOut_clock .., ?_, fun j hj => ⟨?_, ?_⟩,
    fun j hj other hother => ?_⟩
  · rw [hpaid]; rfl
  · rw [hend.record]; exact List.subset_append_left ..
  · simp [List.mem_singleton.not.1 hj]
  · rw [hend.entry, if_neg (List.mem_singleton.not.1 hj)]
  · obtain rfl := List.mem_singleton.1 hj
    obtain rfl := Option.some.inj (hs.symm.trans hother)
    refine ⟨hend.session, hend.moved, (hend.entry j).trans (if_pos rfl), _, hended, rfl, ?_, rfl, rfl, _,
      hend.record ▸ List.mem_append_right _ (List.mem_singleton_self _), rfl, rfl, rfl, rfl⟩
    exact BitVec.eq_of_toNat_eq (by rw [BitVec.toNat_ofNat, tagOf, BitVec.toNat_ofNat])

/-- Debits that stay in range add up (R80). -/
theorem clampBudget_sub_sub {z : Int} (h : z ≤ 2147483647) (p q : Nat) :
    clampBudget (clampBudget (z - p) - q) = clampBudget (z - (p + q : Nat)) := by
  unfold clampBudget; omega

theorem Account.Spent.clampBudget_eq (h : b.Spent flag) : clampBudget (b.budget - (0 : Nat)) = b.budget := by
  have := h.below
  have := h.bounded
  unfold clampBudget; omega

/-- The ends of several sessions of the account, one after another (R83). -/
theorem State.endEach_roundedOff (hnd : is.Nodup) (ht : s.tariff = some tariff) (hb : s.account? n = some b)
    (hspent : b.Spent flag) (hin : ∀ j ∈ is, ∃ ses, (s.line j).session = some ses ∧ ses.meter.account = n
      ∧ ru j = roundingUnitOf tariff.rounding ses.meter.residue) : s.RoundedOff (s.endEach .budget is) n b ru is := by
  induction is generalizing s b with
  | nil =>
    refine ⟨hb.trans ?_, rfl, rfl, fun _ h => h, fun _ _ => ⟨rfl, rfl⟩, nofun⟩
    show _ = some { b with budget := clampBudget (b.budget - (0 : Nat)), active := b.active - 0 }
    rw [hspent.clampBudget_eq]; rfl
  | cons i is ih =>
    obtain ⟨hni, hnd⟩ := List.nodup_cons.1 hnd
    obtain ⟨ses, hs, hn, hru⟩ := hin i (List.mem_cons_self ..)
    have hone := State.endSession_roundedOff ht hb hspent hs hn hru
    have hkept {j : LineId} (hj : j ∈ is) : (s.endSession i .budget false).1.line j = s.line j :=
      (hone.kept j fun e => hni (List.mem_singleton.1 e ▸ hj)).1
    have hrest := ih hnd (hone.tariff.trans ht) hone.account (hspent.pay (ru i)) fun j hj => by
      rw [hkept hj]; exact hin j (List.mem_cons_of_mem _ hj)
    refine ⟨hrest.account.trans ?_, hrest.tariff.trans hone.tariff, hrest.clock.trans hone.clock,
      fun _ hr => hrest.records (hone.records hr), fun j hj => ?_, fun j hj other hother => ?_⟩
    · have hbudget := clampBudget_sub_sub (z := b.budget) (by have := hspent.below; omega) (ru i) (is.map ru).sum
      simp only [List.map_cons, List.map_nil, List.sum_cons, List.sum_nil, Nat.add_zero, List.length_cons,
        List.length_nil, hbudget]
      congr 2
      omega
    · obtain ⟨hji, hjis⟩ := not_or.1 (mt List.mem_cons.2 hj)
      obtain ⟨hline, hentry⟩ := hrest.kept j hjis
      obtain ⟨hline', hentry'⟩ := hone.kept j (mt List.mem_singleton.1 hji)
      exact ⟨hline.trans hline', hentry.trans hentry'⟩
    · rcases List.mem_cons.1 hj with rfl | hjis
      · obtain ⟨hline, hentry⟩ := hrest.kept j hni
        exact (hone.closed j (List.mem_singleton_self j) other hother).later hline hentry hrest.records
      · have hline := hkept hjis
        exact (hrest.closed j hjis other (hline ▸ hother)).earlier (by rw [hline]) (by rw [hline]) hone.clock

theorem State.noticeSessions_clock (s : State) (n : Name) (k : Fin 16) : (s.noticeSessions n k).clock = s.clock := by
  rw [State.noticeSessions, State.updLines_eq]

theorem State.noticeSessions_store (s : State) (n : Name) (k : Fin 16) : (s.noticeSessions n k).store = s.store := by
  rw [State.noticeSessions, State.updLines_eq]

theorem Line.place_unit (l : Line) (chars : List Byte) : (l.place chars).unit = l.unit := by
  unfold Line.place; split <;> rfl

/-- The entry of an account into EXHAUSTED without a grace time, with what its ends record (R83). -/
theorem State.applyTransition_roundedOff {old : BudgetState} (hold : old ≠ .exhausted) (ht : s.tariff = some tariff)
    (hg : tariff.grace = 0) (hb : s.account? n = some b) (hspent : b.Spent flag)
    (hru : ∀ j ∈ s.sessionsOf n, ∀ ses, (s.line j).session = some ses →
      ru j = roundingUnitOf tariff.rounding ses.meter.residue) :
    s.RoundedOff (s.applyTransition ⟨n, old, .exhausted⟩) n b ru (s.sessionsOf n) := by
  have heff : s.applyTransition ⟨n, old, .exhausted⟩ = (s.noticeSessions n 8).beginGrace n := by
    cases old
    case exhausted => exact absurd rfl hold
    all_goals rfl
  have ht' := (s.noticeSessions_tariff n 8).trans ht
  have hclock := s.noticeSessions_clock n 8
  have hstore := s.noticeSessions_store n 8
  have hline (j : LineId) : ((s.noticeSessions n 8).takeOrder (fun i : LineId => i.val) (s.sessionsOf n)).2.line j
      = if j ∈ s.sessionsOf n then s.noticed 8 ((s.account? n).map Account.budget) (s.line j) else s.line j :=
    s.line_noticeSessions n 8 j
  have hown {j : LineId} (hj : j ∈ s.sessionsOf n) := (hline j).trans (if_pos hj)
  obtain ⟨hperm, -⟩ := State.takeOrder_spec (fun i : LineId => i.val) (s.nodup_sessionsOf n) (s.noticeSessions n 8)
  have hall := State.endEach_roundedOff (ru := ru)
    (s := ((s.noticeSessions n 8).takeOrder (fun i : LineId => i.val) (s.sessionsOf n)).2)
    (hperm.nodup_iff.2 (s.nodup_sessionsOf n)) ht' ((s.account?_noticeSessions n 8 n).trans hb) hspent
    fun j hj => by
      have hj := hperm.mem_iff.1 hj
      obtain ⟨ses, hs, hn⟩ := Option.map_eq_some_iff.1 ((State.mem_sessionsOf ..).1 hj).2
      exact ⟨ses, by rw [hown hj, State.noticed, Line.place_session, hs], hn, hru j hj ses hs⟩
  rw [heff, State.beginGrace, State.graceTime_eq ht', if_pos hg, State.sessionsOf_noticeSessions]
  obtain ⟨haccount, htariff, hclock', hrecords, hkept, hclosed⟩ := hall
  refine ⟨?_, htariff.trans (s.noticeSessions_tariff n 8), hclock'.trans hclock, fun r hr => hrecords ?_,
    fun j hj => ?_, fun j hj ses hs => ?_⟩
  · rw [(hperm.map ru).sum_eq, hperm.length_eq] at haccount
    exact haccount
  · show r ∈ (s.noticeSessions n 8).store.records
    rw [hstore]; exact hr
  · obtain ⟨hkline, hkentry⟩ := hkept j (mt hperm.mem_iff.1 hj)
    exact ⟨hkline.trans ((hline j).trans (if_neg hj)),
      hkentry.trans (congrArg (fun st : Store => st.checkpoints.get j) hstore)⟩
  · refine (hclosed j (hperm.mem_iff.2 hj) ses ?_).earlier ?_ ?_ hclock
    · rw [hown hj, State.noticed, Line.place_session, hs]
    · rw [hown hj, State.noticed, Line.place_generation]
    · rw [hown hj, State.noticed, Line.place_unit]

end

end Sys2Proof.Machine
end


section
/-! A tick's debit that makes a transition (O58). -/

namespace Sys2Proof.Machine

/-! ### The parts of a tick -/

/-- The tick's scan made and its clock advanced (R1, R96). -/
def State.tickStart (s : State) : State := { s.scan with clock := s.clock.advance }

/-- The lines of the sessions of a tick, in its free order (R111). -/
def State.tickLines (s : State) : List LineId :=
  (s.tickStart.takeOrder (fun i : LineId => i.val) s.tickStart.meteredLines).1

/-- The state with every session charged for the tick and no account debited (R111). -/
def State.charged (s : State) : State :=
  (s.tickStart.takeOrder (fun i : LineId => i.val) s.tickStart.meteredLines).2.chargeAll s.tickLines

/-- The accounts that a tick debits (R114). -/
def State.tickNames (s : State) : List Name := (s.tickLines.filterMap fun i => (s.tickStart.line i).account?).dedup

/-- The lines in GRACE before a tick (R117; log 30). -/
def State.tickGrace (s : State) : List LineId := s.tickLines.filter fun i => (s.tickStart.line i).state = .grace

section
variable (s : State)

theorem State.tick_eq : s.tick = s.tickLines.foldl (State.afterCharge s.tickGrace)
    (s.tickNames.foldl (State.debitAccount s.tickStart s.tickLines) s.charged) := rfl

theorem State.line_tickStart (j : LineId) : s.tickStart.line j = (s.line j).drive := s.line_scan j

theorem State.meteredLines_tickStart : s.tickStart.meteredLines = s.meteredLines :=
  List.filter_congr fun j _ => by rw [State.line_tickStart]; rfl

theorem State.tickLines_perm : s.tickLines.Perm s.meteredLines :=
  s.meteredLines_tickStart ▸
    (State.takeOrder_spec (fun i : LineId => i.val) s.tickStart.nodup_meteredLines s.tickStart).1

theorem State.nodup_tickLines : s.tickLines.Nodup := s.tickLines_perm.nodup_iff.2 s.nodup_meteredLines

theorem State.mem_tickGrace {j : LineId} (h : j ∈ s.tickGrace) : (s.line j).state = .grace := by
  have hgrace := of_decide_eq_true (List.mem_filter.1 h).2
  rw [State.line_tickStart] at hgrace
  exact hgrace

/-- The lines of an account in the tick's order are its sessions (R86, R114). -/
theorem State.tickLines_filter (n : Name) :
    (s.tickLines.filter fun i => (s.tickStart.line i).account? = some n).Perm (s.sessionsOf n) := by
  have heq : s.sessionsOf n = s.meteredLines.filter fun i => decide ((s.tickStart.line i).account? = some n) :=
    List.filter_congr fun j _ => by rw [State.line_tickStart]; rfl
  rw [heq]
  exact s.tickLines_perm.filter _

theorem State.carryOf_tickStart (i : LineId) : s.tickStart.carryOf i = s.tickCarry i := by
  rw [State.carryOf, State.line_tickStart, State.tickCarry, show (s.line i).drive.session = (s.line i).session from rfl]
  cases (s.line i).session <;> rfl

/-- What a tick debits from an account (R114). -/
theorem State.debitAccount_tick (x : State) (n : Name) :
    State.debitAccount s.tickStart s.tickLines x n = State.applyEffects (x.debit n (s.tickDebit n : Nat)) := by
  have hsum : ((s.tickLines.filter fun i => (s.tickStart.line i).account? = some n).map s.tickStart.carryOf).sum
      = s.tickDebit n := by
    rw [((s.tickLines_filter n).map s.tickStart.carryOf).sum_eq, State.tickDebit,
      List.map_congr_left fun i _ => s.carryOf_tickStart i]
  rw [State.debitAccount, hsum]

/-! ### The state with every session charged -/

theorem State.charged_frame : ∃ lines orders, s.charged = { s with
    clock := s.clock.advance, lines := lines, orders := orders } := by
  unfold State.charged State.chargeAll
  rw [State.updLines_eq]
  exact ⟨_, _, rfl⟩

theorem State.line_charged (j : LineId) : s.charged.line j = if j ∈ s.tickLines
    then (s.line j).drive.updMeter (fun m => m.charge (s.tickStart.addend m)) else (s.line j).drive := by
  refine (State.line_updLines _ s.nodup_tickLines _ j).trans ?_
  rw [← State.line_tickStart]
  rfl

theorem State.charged_seat (j : LineId) : (s.charged.line j).seat = (s.line j).seat := by
  rw [State.line_charged]
  split
  · exact Line.updMeter_seat (f := fun m => m.charge (s.tickStart.addend m)) (fun _ => rfl) _
  · rfl

theorem State.account?_charged (n : Name) : s.charged.account? n = s.account? n := by
  obtain ⟨lines, orders, h⟩ := s.charged_frame
  rw [h]; rfl

theorem State.tariff_charged : s.charged.tariff = s.tariff := by
  obtain ⟨lines, orders, h⟩ := s.charged_frame
  rw [h]

theorem State.texts_charged : s.charged.texts = s.texts := by
  obtain ⟨lines, orders, h⟩ := s.charged_frame
  rw [h]

theorem State.clock_charged : s.charged.clock = s.clock.advance := by
  obtain ⟨lines, orders, h⟩ := s.charged_frame
  rw [h]

/-- Line `i` after a tick's scan, its session `ses` charged (R1, R111, R113). -/
def State.chargedLine (i : LineId) (ses : Session) : Line :=
  { (s.line i).drive with session := some { ses with meter := s.tickMeter ses } }

variable {s} in
/-- The line of a session as the tick has charged it (R111, R113). -/
theorem State.line_charged_session {j : LineId} {ses : Session} (hm : (s.line j).state.metered = true)
    (hs : (s.line j).session = some ses) :
    s.charged.line j = s.chargedLine j ses := by
  have hj : j ∈ s.tickLines := s.tickLines_perm.mem_iff.2 ((State.mem_meteredLines ..).2 hm)
  rw [State.line_charged, if_pos hj, Line.updMeter]
  rw [show (s.line j).drive.session = some ses from hs]
  rfl

/-! ### The debits of a tick, seen from one account -/

theorem State.mem_tickNames {n : Name} (h : s.sessionsOf n ≠ []) : n ∈ s.tickNames := by
  obtain ⟨j, hj⟩ := List.exists_mem_of_ne_nil _ h
  have hline := (List.mem_filter.1 ((s.tickLines_filter n).mem_iff.2 hj))
  exact List.mem_dedup.2 (List.mem_filterMap.2 ⟨j, hline.1, of_decide_eq_true hline.2⟩)

/-- A tick debits the account once, with what it does to other accounts before and after (R114). -/
theorem State.tick_debits {n : Name} (h : s.sessionsOf n ≠ []) : ∃ x z, s.charged.Beside x n
    ∧ (State.applyEffects (x.debit n (s.tickDebit n : Nat))).Beside z n
    ∧ s.tick = s.tickLines.foldl (State.afterCharge s.tickGrace) z := by
  have hnd : s.tickNames.Nodup := List.nodup_dedup _
  obtain ⟨ahead, behind, hnames⟩ := List.append_of_mem (s.mem_tickNames h)
  rw [hnames, List.nodup_middle, List.nodup_cons, List.mem_append, not_or] at hnd
  obtain ⟨⟨hahead, hbehind⟩, -⟩ := hnd
  have others {ms : List Name} (hms : n ∉ ms) (x : State) :
      x.Beside (ms.foldl (State.debitAccount s.tickStart s.tickLines) x) n :=
    .foldl (P := fun _ m => m ≠ n) (fun _ _ _ _ hm => hm) (fun _ _ _ hm => .debitAccount _ _ _ hm)
      fun m hm e => hms (e ▸ hm)
  have hafter := others hbehind (State.applyEffects (State.debit
    (ahead.foldl (State.debitAccount s.tickStart s.tickLines) s.charged) n (s.tickDebit n : Nat)))
  refine ⟨_, _, others hahead s.charged, hafter, ?_⟩
  rw [State.tick_eq, hnames, List.foldl_append, List.foldl_cons, State.debitAccount_tick]

end

theorem State.Beside.sessionsOf {s t : State} {n : Name} (h : s.Beside t n) : t.sessionsOf n = s.sessionsOf n := by
  unfold State.sessionsOf State.meteredLines
  rw [List.filter_filter, List.filter_filter]
  refine List.filter_congr fun j _ => ?_
  by_cases ha : (s.line j).account? = some n
  · rw [h.own ha]
  · simp [ha, h.ne ha]

/-- `x` is the state in which a tick of `s` debits the account `n`: its entry is as it was before the tick, and each of
its sessions has been charged (R111, R114). -/
structure State.Due (s x : State) (n : Name) : Prop where
  account : x.account? n = s.account? n
  tariff : x.tariff = s.tariff
  texts : x.texts = s.texts
  clock : x.clock = s.clock.advance
  sessions : x.sessionsOf n = s.sessionsOf n
  own : ∀ j, (x.line j).account? = some n → j ∈ s.sessionsOf n
  line : ∀ j ∈ s.sessionsOf n, ∀ ses, (s.line j).session = some ses → x.line j = s.chargedLine j ses

theorem State.Beside.due {s x : State} {n : Name} (hr : s.AllLines Line.SessionRight) (h : s.charged.Beside x n) :
    s.Due x n where
  account := h.account.trans (s.account?_charged n)
  tariff := h.tariff.trans s.tariff_charged
  texts := h.texts.trans s.texts_charged
  clock := h.clock.trans s.clock_charged
  sessions := h.sessionsOf.trans (State.sessionsOf_seats s.charged_seat n)
  own j hj := by
    have ha := (account?_of_seat (s.charged_seat j)).symm.trans ((h.own_iff j).1 hj)
    refine (State.mem_sessionsOf ..).2 ⟨?_, ha⟩
    rw [← hr j, ← Option.isSome_map (f := fun ses : Session => ses.meter.account)]
    exact congrArg Option.isSome ha
  line j hj ses hs := by
    obtain ⟨hm, ha⟩ := (State.mem_sessionsOf ..).1 hj
    rw [h.own ((account?_of_seat (s.charged_seat j)).trans ha), State.line_charged_session hm hs]

/-! ### The countdowns of sessions that go on -/

/-- A tick ends no session of the line by its inactivity count (R118). -/
def Line.Uncut (l : Line) : Prop := ∀ ses, l.session = some ses → ses.meter.countSilence.2 = false

theorem Line.updMeter_const {l : Line} {ses : Session} (hs : l.session = some ses) {f : Meter → Meter} :
    l.updMeter (fun _ => f ses.meter) = l.updMeter f := by
  rw [Line.updMeter, Line.updMeter, hs]; rfl

/-- The line with its session's inactivity count raised (R118). -/
def Line.counted (l : Line) : Line := l.updMeter fun m => m.countSilence.1

theorem Meter.countSilence_eq (m : Meter) : ∃ k, m.countSilence.1 = { m with inactCount := k } := by
  unfold Meter.countSilence
  split
  exacts [⟨_, rfl⟩, ⟨_, rfl⟩]

theorem Line.counted_session {l : Line} {ses : Session} (hs : l.session = some ses) :
    ∃ k, l.counted.session = some { ses with meter := { ses.meter with inactCount := k } } := by
  obtain ⟨k, hk⟩ := ses.meter.countSilence_eq
  refine ⟨k, ?_⟩
  rw [Line.counted, Line.updMeter, hs, ← hk]
  rfl

theorem Line.counted_seat (l : Line) : l.counted.seat = l.seat := Line.updMeter_seat Meter.countSilence_account l

section
variable {s : State} {n : Name} {was is : List LineId}

/-- What follows the charge of a session that goes on, in ACTIVE before the tick, is its inactivity count (R118). -/
theorem State.afterCharge_uncut {i : LineId} (hwas : i ∉ was) (hq : (s.line i).Uncut) :
    (∀ m, (s.afterCharge was i).account? m = s.account? m) ∧ (s.afterCharge was i).clock = s.clock
    ∧ ∀ j, (s.afterCharge was i).line j = if j = i then (s.line i).counted else s.line j := by
  unfold State.afterCharge
  cases hs : (s.line i).session with
  | none =>
    refine ⟨fun _ => rfl, rfl, fun j => ?_⟩
    dsimp only
    split
    next e =>
      rw [e, Line.counted, Line.updMeter, hs, Option.map_none, ← hs]
    next => rfl
  | some ses =>
    have hgrace : ses.meter.countGrace (was.contains i) = (ses.meter, false) := by
      rw [List.contains_eq_mem, decide_eq_false hwas]; rfl
    dsimp only
    rw [hgrace]
    dsimp only
    rw [hq ses hs, if_neg Bool.false_ne_true, if_neg Bool.false_ne_true]
    have hrefresh : ∃ store, (if ses.meter.seconds % 60 = 0 then s.refresh i ses.meter else s)
        = { s with store := store } := by
      unfold State.refresh
      (repeat' split) <;> exact ⟨_, rfl⟩
    obtain ⟨store, hstore⟩ := hrefresh
    rw [hstore]
    refine ⟨fun _ => rfl, rfl, fun j => (State.line_updLine ..).trans ?_⟩
    split
    next => exact Line.updMeter_const (f := fun m => m.countSilence.1) hs
    next => rfl

/-- What follows the charges leaves the account whose sessions go on as it is, and counts their silence (R118). -/
theorem State.foldl_afterCharge (hnd : is.Nodup)
    (hown : ∀ j ∈ is, (s.line j).account? = some n → j ∉ was ∧ (s.line j).Uncut) :
    (is.foldl (State.afterCharge was) s).account? n = s.account? n
    ∧ (is.foldl (State.afterCharge was) s).clock = s.clock
    ∧ ∀ j, (s.line j).account? = some n → (is.foldl (State.afterCharge was) s).line j
      = if j ∈ is then (s.line j).counted else s.line j := by
  induction is generalizing s with
  | nil => exact ⟨rfl, rfl, fun _ _ => rfl⟩
  | cons i is ih =>
    obtain ⟨hni, hnd⟩ := List.nodup_cons.1 hnd
    have hone : (s.afterCharge was i).account? n = s.account? n ∧ (s.afterCharge was i).clock = s.clock
        ∧ (∀ j, (s.line j).account? = some n → (s.afterCharge was i).line j
          = if j = i then (s.line j).counted else s.line j)
        ∧ ∀ j, ((s.afterCharge was i).line j).account? = some n → (s.line j).account? = some n := by
      by_cases hi : (s.line i).account? = some n
      · obtain ⟨hwas, hq⟩ := hown i (List.mem_cons_self ..) hi
        obtain ⟨haccount, hclock, hline⟩ := State.afterCharge_uncut hwas hq
        refine ⟨haccount n, hclock, fun j _ => (hline j).trans ?_, fun j hj => ?_⟩
        · split
          next e => rw [e]
          next => rfl
        · rw [hline] at hj
          split at hj
          next e => rw [e]; exact hi
          next => exact hj
      · have hb := State.Beside.afterCharge was hi
        refine ⟨hb.account, hb.clock, fun j hj => ?_, fun j => (hb.own_iff j).1⟩
        rw [if_neg fun e : j = i => hi (e ▸ hj)]
        exact hb.own hj
    obtain ⟨haccount, hclock, hline, hback⟩ := hone
    have hkept {j : LineId} (hj : j ∈ is) (ha : (s.line j).account? = some n) :
        (s.afterCharge was i).line j = s.line j := (hline j ha).trans (if_neg fun e : j = i => hni (e ▸ hj))
    obtain ⟨haccount', hclock', hline'⟩ := ih hnd fun j hj ha => by
      rw [hkept hj (hback j ha)]
      exact hown j (List.mem_cons_of_mem _ hj) (hback j ha)
    refine ⟨haccount'.trans haccount, hclock'.trans hclock, fun j ha => ?_⟩
    have hone := hline j ha
    have ha' : ((s.afterCharge was i).line j).account? = some n := by
      rw [hone]
      split
      · exact (account?_of_seat (Line.counted_seat _)).trans ha
      · exact ha
    refine (hline' j ha').trans ?_
    rw [hone]
    by_cases hji : j = i
    · rw [hji, if_neg hni, if_pos rfl, if_pos (List.mem_cons_self ..)]
    · simp [hji]

end

end Sys2Proof.Machine
end


section
/-! The sessions of an account whose state a tick's debit changes (O58). -/

namespace Sys2Proof.Machine

/-! ### The line of a session after the transition -/

theorem State.lineAfter_warned (s : State) (budget : Int) (l : Line) :
    s.lineAfter .normal .warned budget l = l.place (s.textFor 7 (some budget) l.units?) := by
  rw [Line.place_eq]; rfl

/-- A session's line with grace begun (R83). -/
def State.lineInGrace (s : State) (l : Line) : Line :=
  { l with
    state := .grace
    session := l.session.map fun ses => { ses with meter := { ses.meter with
      grace := s.tariff.map Tariff.grace, graceFlag := true } } }

theorem State.lineAfter_exhausted (s : State) {old : BudgetState} (hold : old ≠ .exhausted) (budget : Int) (l : Line) :
    s.lineAfter old .exhausted budget l
      = (s.lineInGrace l).place (s.textFor 8 (some budget) (s.lineInGrace l).units?) := by
  rw [Line.place_eq]
  cases old with
  | exhausted => exact absurd rfl hold
  | normal | warned => rfl

/-- `after` is the line `l` of the session `ses` when its account has gone into `st`, which is WARNED, or EXHAUSTED with
a grace time (R82, R83). -/
structure State.Worsened (s : State) (st : BudgetState) (budget : Int) (l : Line) (ses : Session) (after : Line) :
    Prop where
  state : after.state = if st = .warned then l.state else .grace
  session : after.session = some { ses with meter := { ses.meter with
    grace := if st = .warned then ses.meter.grace else s.tariff.map Tariff.grace
    graceFlag := ses.meter.graceFlag || decide (st = .exhausted) } }
  out : l.unit.speed ≠ none → after.out = { l.out with
    noticeWait := s.textFor (if st = .warned then 7 else 8) (some budget) (some ses.meter.units), waitPrompt := none }

theorem State.worsened_lineAfter (s : State) {l : Line} {ses : Session} (hs : l.session = some ses)
    {old st : BudgetState} (hold : old ≠ .exhausted) (hturn : st ≠ old) (hnormal : st ≠ .normal) (budget : Int) :
    s.Worsened st budget l ses (s.lineAfter old st budget l) := by
  cases st with
  | normal => exact absurd rfl hnormal
  | warned =>
    have hnormal : old = .normal := by
      cases old with
      | normal => rfl
      | warned => exact absurd rfl hturn
      | exhausted => exact absurd rfl hold
    rw [hnormal, State.lineAfter_warned]
    refine ⟨Line.place_state .., (Line.place_session ..).trans (by simp [hs]), fun hspeed => ?_⟩
    rw [Line.place_of_speed hspeed, Line.units?, hs]; rfl
  | exhausted =>
    rw [State.lineAfter_exhausted s hold]
    refine ⟨Line.place_state .., (Line.place_session ..).trans (by simp [State.lineInGrace, hs]), fun hspeed => ?_⟩
    have hunits : (s.lineInGrace l).units? = some ses.meter.units := by simp [State.lineInGrace, Line.units?, hs]
    rw [Line.place_of_speed (l := s.lineInGrace l) hspeed, hunits]; rfl

theorem Meter.countSilence_uncut {m : Meter} (h : m.inactLimit = 0 ∨ m.inactCount + 1 < m.inactLimit) :
    m.countSilence.2 = false := by
  unfold Meter.countSilence
  split
  · rfl
  next hne => exact decide_eq_false (Nat.not_le.2 (h.resolve_left hne))

section
variable {s x z t : State} {n : Name} {a : Account} {tariff : Tariff} {budget : Int} {st : BudgetState}

/-- The tick of `s` debits the account `a`, whose state turns to `st` at `budget` (R80, R81, R114). -/
structure State.TickTurns (s : State) (n : Name) (a : Account) (tariff : Tariff) (budget : Int) (st : BudgetState) :
    Prop where
  tariff : s.tariff = some tariff
  account : s.account? n = some a
  paid : budget = clampBudget (a.budget - s.tickDebit n)
  state : st = s.stateOfBudget budget a.overdraft a.cls
  worse : a.bstate ≠ .exhausted ∧ st ≠ a.bstate ∧ st ≠ .normal
  active : ∀ i ∈ s.sessionsOf n, ∀ ses, (s.line i).session = some ses →
    (s.line i).state = .active ∧ (s.line i).GoesOn ses

/-- The state after the debit, the effects of its transition still to come (R81, R85). -/
theorem State.TickTurns.debit (h : s.TickTurns n a tariff budget st) (hx : s.Due x n) :
    State.applyEffects (x.debit n (s.tickDebit n : Nat))
      = (x.turned a budget st).applyTransition ⟨n, a.bstate, st⟩ := by
  have hst : st = x.stateOfBudget budget a.overdraft a.cls := by
    rw [h.state, State.stateOfBudget, State.stateOfBudget, hx.tariff]
  obtain ⟨-, hturn, -⟩ := h.worse
  rw [State.debit_turned (hx.account.trans h.account) h.paid hst hturn]
  rfl

theorem State.session_of_mem {i : LineId} (h : i ∈ s.sessionsOf n) :
    ∃ ses, (s.line i).session = some ses ∧ ses.meter.account = n :=
  Option.map_eq_some_iff.1 ((State.mem_sessionsOf ..).1 h).2

/-- The turned account's sessions are those of the account before (R86). -/
theorem State.Due.mem_turned (hx : s.Due x n) (j : LineId) :
    j ∈ (x.turned a budget st).sessionsOf n ↔ j ∈ s.sessionsOf n := by
  rw [show (x.turned a budget st).sessionsOf n = x.sessionsOf n from rfl, hx.sessions]

/-- `y` comes of `s` by a tick's charges and the debit of the account `n`, which ends no session of it (R82, R83). -/
structure State.DebitedByTick (s y : State) (n : Name) (a : Account) (budget : Int) (st : BudgetState) : Prop where
  clock : y.clock = s.clock.advance
  account : y.account? n = some (a.turned budget st)
  own : ∀ i, (y.line i).account? = some n ↔ i ∈ s.sessionsOf n
  line : ∀ i ∈ s.sessionsOf n, ∀ ses, (s.line i).session = some ses →
    y.line i = s.lineAfter a.bstate st budget (s.chargedLine i ses)

/-- The line of a session of the account as its transition leaves it (R82, R83). -/
theorem State.TickTurns.worsened (h : s.TickTurns n a tariff budget st) (i : LineId) (ses : Session) :
    s.Worsened st budget (s.chargedLine i ses) { ses with meter := s.tickMeter ses }
      (s.lineAfter a.bstate st budget (s.chargedLine i ses)) := by
  obtain ⟨hold, hturn, hnormal⟩ := h.worse
  exact s.worsened_lineAfter rfl hold hturn hnormal budget

/-- The debit with its effects, where these end no session (R82, R83). -/
theorem State.TickTurns.acted (h : s.TickTurns n a tariff budget st) (hx : s.Due x n)
    (hg : st = .exhausted → tariff.grace ≠ 0) :
    s.DebitedByTick ((x.turned a budget st).applyTransition ⟨n, a.bstate, st⟩) n a budget st := by
  have hxt : (x.turned a budget st).tariff = some tariff := hx.tariff.trans h.tariff
  have haccount : (x.turned a budget st).account? n = some (a.turned budget st) :=
    (State.account?_turned n).trans (if_pos (State.account?_name h.account).symm)
  have hline (j : LineId) : ((x.turned a budget st).applyTransition ⟨n, a.bstate, st⟩).line j
      = if j ∈ s.sessionsOf n then s.lineAfter a.bstate st budget (x.line j) else x.line j := by
    refine (State.line_applyTransition (budget := budget) (by rw [haccount]; rfl) hxt hg j).trans ?_
    rw [State.lineAfter_congr (s := s) (t := x.turned a budget st) hx.texts hx.tariff]
    exact if_congr (hx.mem_turned j) rfl rfl
  have hsession (i : LineId) (hi : i ∈ s.sessionsOf n) (ses : Session) (hs : (s.line i).session = some ses) :=
    (hline i).trans ((if_pos hi).trans (by rw [hx.line i hi ses hs]))
  refine ⟨?_, (State.account?_applyTransition hxt hg n).trans haccount, fun i => ⟨fun ha => ?_, fun hi => ?_⟩, hsession⟩
  · rw [State.applyTransition_linesAlone (n := n) (old := a.bstate) fun e => ⟨tariff, hxt, hg e⟩]
    exact hx.clock
  · by_contra hno
    rw [hline, if_neg hno] at ha
    exact hno (hx.own i ha)
  · obtain ⟨ses, hs, hn⟩ := State.session_of_mem hi
    rw [hsession i hi ses hs, Line.account?, (h.worsened i ses).session]
    exact congrArg some hn

/-- A tick's debit that ends no session of the account, with the countdowns that follow (R82, R83, R115, R117). -/
theorem State.TickTurns.goesOn (h : s.TickTurns n a tariff budget st) (hx : s.Due x n)
    (hg : st = .exhausted → tariff.grace ≠ 0)
    (hz : (State.applyEffects (x.debit n (s.tickDebit n : Nat))).Beside z n)
    (ht : t = s.tickLines.foldl (State.afterCharge s.tickGrace) z) :
    t.clock = s.clock.advance ∧ t.account? n = some (a.turned budget st)
    ∧ ∀ i ∈ s.sessionsOf n, ∀ ses, (s.line i).session = some ses →
      t.line i = (s.lineAfter a.bstate st budget (s.chargedLine i ses)).counted := by
  have hy := h.acted hx hg
  rw [h.debit hx] at hz
  generalize (x.turned a budget st).applyTransition ⟨n, a.bstate, st⟩ = y at hz hy
  have hzown (i : LineId) : (z.line i).account? = some n ↔ i ∈ s.sessionsOf n := (hz.own_iff i).trans (hy.own i)
  have hzline (i : LineId) (hi : i ∈ s.sessionsOf n) (ses : Session) (hs : (s.line i).session = some ses) :=
    (hz.own ((hy.own i).2 hi)).trans (hy.line i hi ses hs)
  obtain ⟨hta, htc, htl⟩ := State.foldl_afterCharge (s := z) (n := n) (was := s.tickGrace) s.nodup_tickLines
    fun i _ ha => by
      have hi := (hzown i).1 ha
      obtain ⟨ses, hs, -⟩ := State.session_of_mem hi
      obtain ⟨hactive, -, hlimit⟩ := h.active i hi ses hs
      refine ⟨fun hgrace => ?_, fun after hafter => ?_⟩
      · rw [s.mem_tickGrace hgrace] at hactive; cases hactive
      · rw [hzline i hi ses hs, (h.worsened i ses).session] at hafter
        obtain rfl := Option.some.inj hafter
        exact Meter.countSilence_uncut hlimit
  subst ht
  refine ⟨htc.trans (hz.clock.trans hy.clock), hta.trans (hz.account.trans hy.account), fun i hi ses hs => ?_⟩
  have hm : i ∈ s.tickLines :=
    s.tickLines_perm.mem_iff.2 ((State.mem_meteredLines ..).2 ((State.mem_sessionsOf ..).1 hi).1)
  rw [htl i ((hzown i).2 hi), if_pos hm, hzline i hi ses hs]

/-- A tick's debit that ends every session of the account (R83, R115, R120). -/
theorem State.TickTurns.ends (h : s.TickTurns n a tariff budget .exhausted) (hx : s.Due x n) (hg : tariff.grace = 0)
    {ru : LineId → Nat} (hru : ∀ i ses, (s.line i).session = some ses →
      ru i = roundingUnitOf tariff.rounding (s.tickMeter ses).residue)
    (hz : (State.applyEffects (x.debit n (s.tickDebit n : Nat))).Beside z n)
    (ht : t = s.tickLines.foldl (State.afterCharge s.tickGrace) z) :
    t.clock = s.clock.advance
    ∧ t.account? n = some { a.turned budget .exhausted with
        budget := clampBudget (budget - (((s.sessionsOf n).map ru).sum : Nat))
        active := a.active - (s.sessionsOf n).length }
    ∧ ∀ i ∈ s.sessionsOf n, ∀ ses, (s.line i).session = some ses →
      State.ClosedFor { s with clock := s.clock.advance } t i { ses with meter := s.tickMeter ses } (ru i) := by
  have hname : n = a.name := (State.account?_name h.account).symm
  have hxt : (x.turned a budget .exhausted).tariff = some tariff := hx.tariff.trans h.tariff
  have haccount : (x.turned a budget .exhausted).account? n = some (a.turned budget .exhausted) :=
    (State.account?_turned n).trans (if_pos hname)
  have hsessions : (x.turned a budget .exhausted).sessionsOf n = s.sessionsOf n := hx.sessions
  obtain ⟨hold, -, -⟩ := h.worse
  have hends := State.applyTransition_roundedOff (ru := ru) hold hxt hg haccount
    (Account.spent_turned h.paid h.state rfl) fun i hi after hafter => by
      obtain ⟨ses, hs, -⟩ := State.session_of_mem ((hx.mem_turned i).1 hi)
      have hline : (x.line i).session = some after := hafter
      rw [hx.line i ((hx.mem_turned i).1 hi) ses hs] at hline
      obtain rfl := Option.some.inj hline
      exact hru i ses hs
  rw [h.debit hx] at hz
  rw [hsessions] at hends
  generalize (x.turned a budget .exhausted).applyTransition ⟨n, a.bstate, .exhausted⟩ = y at hz hends
  have hnone (i : LineId) (hi : i ∈ s.sessionsOf n) : (y.line i).session = none := by
    obtain ⟨ses, hs, -⟩ := State.session_of_mem hi
    exact (hends.closed i hi _ (congrArg Line.session (hx.line i hi ses hs))).session
  have hgone (i : LineId) : (y.line i).account? ≠ some n := by
    by_cases hi : i ∈ s.sessionsOf n
    · rw [Line.account?, hnone i hi]; exact nofun
    · rw [(hends.kept i hi).1]; exact mt (hx.own i) hi
  have hyt : y.Beside t n := ht ▸ hz.trans (.foldl (P := fun z i => (z.line i).account? ≠ some n)
    (fun _ _ _ hb => hb.ne) (fun _ _ _ hi => .afterCharge _ hi) fun i _ => hz.ne (hgone i))
  refine ⟨hyt.clock.trans (hends.clock.trans hx.clock), hyt.account.trans hends.account, fun i hi ses hs => ?_⟩
  have hline := hx.line i hi ses hs
  obtain ⟨hkline, hkentry⟩ := hyt.idle (hnone i hi)
  exact ((hends.closed i hi _ (congrArg Line.session hline)).later hkline hkentry hyt.records).earlier
    (congrArg Line.generation hline :) (congrArg (fun l : Line => l.unit.speed) hline :) hx.clock

end

/-- Settles O58: the tick debits the account once, with its sessions charged, and what it does to other accounts before
and after leaves the account and its sessions as they are (`State.tick_debits`). The transition then acts on every
session, and the countdowns that follow neither end one nor count down its grace (R82, R83, R115, R117, R120). -/
theorem tickDebitActsOnEverySession : Obligations.TickDebitActsOnEverySession := by
  intro s n a tariff budget st ru hmode hright ht ha hne hbudget hst hold hturn hnormal hactive hru
  have h : s.TickTurns n a tariff budget st := ⟨ht, ha, hbudget, hst, ⟨hold, hturn, hnormal⟩, hactive⟩
  obtain ⟨x, z, hx, hz, htick⟩ := s.tick_debits hne
  have hdue := hx.due hright
  have hru' (i : LineId) (ses : Session) (hs : (s.line i).session = some ses) :
      ru i = roundingUnitOf tariff.rounding (s.tickMeter ses).residue := by
    rw [hru]; dsimp only; rw [hs]; rfl
  have hclock : s.tick.clock = s.clock.advance := by
    by_cases hg : st = .exhausted → tariff.grace ≠ 0
    · exact (h.goesOn hdue hg hz htick).1
    · obtain ⟨rfl, hzero⟩ := Classical.not_imp.1 hg
      exact (h.ends hdue (not_not.1 hzero) hru' hz htick).1
  refine ⟨s.tick, State.whenRunning_running hmode State.tick, hclock, fun hgoes => ?_, fun hexhausted hzero => ?_⟩
  · have hg : st = .exhausted → tariff.grace ≠ 0 := fun e => hgoes.resolve_left fun hw => nomatch e.symm.trans hw
    obtain ⟨-, haccount, hline⟩ := h.goesOn hdue hg hz htick
    refine ⟨haccount, fun i hi ses hs => ?_⟩
    obtain ⟨hstate, hsession, hout⟩ := h.worsened i ses
    rw [hline i hi ses hs]
    refine ⟨hstate.trans ?_, ?_, hout⟩
    · rw [← (hactive i hi ses hs).1]; rfl
    · obtain ⟨k, hcounted⟩ := Line.counted_session hsession
      refine ⟨_, hcounted, rfl, rfl, rfl, ?_, rfl⟩
      rw [ht]; rfl
  · subst hexhausted
    obtain ⟨-, haccount, hclosed⟩ := h.ends hdue hzero hru' hz htick
    refine ⟨haccount, fun i hi ses hs => ?_⟩
    obtain ⟨hsession, hmoved, hentry, e, he, hreason, htag, hrest⟩ := hclosed i hi ses hs
    refine ⟨hsession, hmoved, hentry, e, he, hreason, htag.trans ?_, hrest⟩
    exact BitVec.eq_of_toNat_eq (by rw [tagOf, BitVec.toNat_ofNat, BitVec.toNat_ofNat]; rfl)

end Sys2Proof.Machine
end


section
/-! OPEN SERVICE, the clock's requests, and the addend of a tick (O11, O13, O56). -/

namespace Sys2Proof.Machine

/-! ### OPEN SERVICE -/

section
variable {s : State} {label : Byte} {fields : List Byte}

/-- A request whose handler makes `t` of the state, the frame apart (R161, R172). -/
theorem exec_openService {t : State} {r : Result} {bytes : List Byte} (h : s.Asked 0x03 label fields)
    (hr : openServiceReq fields s.dropFrame = (t.dropFrame, r, bytes)) :
    exec .openService s = .next (t.answered 0x03 label r bytes) := State.request_answered h hr

theorem openServiceReq_ready (hc : s.service = .closed) (hk : s.clock.isSet = true) (ht : s.tariff.isSome = true) :
    openServiceReq fields s = ({ s with service := .opened, link := s.link.startMonitor }, answerDone []) := by
  rw [openServiceReq, hc]
  exact if_pos ⟨hk, ht⟩

theorem openServiceReq_notReady (hc : s.service = .closed) (h : s.clock.isSet = false ∨ s.tariff = none) :
    openServiceReq fields s = (s, .notReady, [boolCode s.clock.isSet, boolCode s.tariff.isSome]) := by
  rw [openServiceReq, hc]
  refine if_neg fun ⟨hk, ht⟩ => ?_
  rcases h with hunset | hnone
  · rw [hunset] at hk; cases hk
  · rw [hnone] at ht; cases ht

theorem openServiceReq_opened (h : s.service = .opened) : openServiceReq fields s = (s, answerDone []) := by
  rw [openServiceReq, h]

theorem openServiceReq_linkLost (h : s.service = .linkLost) : openServiceReq fields s = (s, answerOf .state) := by
  rw [openServiceReq, h]

end

/-- Settles O11: the service state decides, in CLOSED with clock and tariff (R108, R164). -/
theorem openServiceByServiceState : Obligations.OpenServiceByServiceState := by
  intro s label fields h
  refine ⟨fun hc hk ht => ?_, fun hc hn => ?_, fun ho => ?_, fun hl => ?_⟩
  · refine exec_openService h ((openServiceReq_ready (s := s.dropFrame) hc hk ht).trans ?_)
    rfl
  · exact exec_openService h (openServiceReq_notReady (s := s.dropFrame) hc hn)
  · exact exec_openService h (openServiceReq_opened (s := s.dropFrame) ho)
  · exact exec_openService h (openServiceReq_linkLost (s := s.dropFrame) hl)

/-! ### SET CLOCK and ADJUST CLOCK -/

theorem LineState.metered_iff (st : LineState) : st.metered = true ↔ st = .active ∨ st = .grace := by
  cases st <;> decide

/-- The lines of the sessions, by the states that the claims name (R109). -/
theorem State.meteredLines_eq (s : State) :
    s.meteredLines = allLines.filter fun i => (s.line i).state = .active ∨ (s.line i).state = .grace :=
  List.filter_congr fun _ _ => Bool.eq_iff_iff.2 ((LineState.metered_iff _).trans decide_eq_true_iff.symm)

/-- A three-byte field is read as it was written (R171). -/
theorem u24_be24 {n : Nat} (h : n < 16777216) (rest : List Byte) : u24 (be24 n ++ rest) = some (n, rest) := by
  have hn : (BitVec.ofNat 8 (n / 65536)).toNat * 65536 + (BitVec.ofNat 8 (n / 256)).toNat * 256
      + (BitVec.ofNat 8 n).toNat = n := by
    rw [byteOf_toNat, byteOf_toNat, byteOf_toNat]; omega
  exact congrArg (fun m => some (m, rest)) hn

theorem s16_be16 (z : BitVec 16) (rest : List Byte) : s16 (be16 z.toNat ++ rest) = some (z.toInt, rest) := by
  rw [s16, u16_be16 z.isLt, Option.map_some, BitVec.ofNat_toNat, BitVec.setWidth_eq]

theorem clampOffset_eq (z : Int) : clampOffset z = max (-300) (min 300 z) := by
  unfold clampOffset
  split
  · omega
  · split <;> omega

section
variable {s : State} {label : Byte} {fields rest : List Byte}

/-- The fields of SET CLOCK read in the order of their layout (section 11.2). -/
theorem readSetClock_eq (day : BitVec 16) {second : Nat} (h : second < 16777216) (rest : List Byte) :
    readSetClock (be16 day.toNat ++ be24 second ++ rest) = some (day.toNat, second) := by
  rw [List.append_assoc, readSetClock, u16_be16 day.isLt]
  simp only [u24_be24 h, Option.bind_eq_bind, Option.bind_some]

/-- CLOCK_SET set on a session, if the line has one (R98). -/
def Line.clockFlagged (l : Line) : Line := l.updMeter fun m => { m with clockSet := true }

/-- The clock set, and every session flagged (R98). -/
def State.clockTaken (s : State) (day : BitVec 16) (second : Nat) : State :=
  { s.updLines s.meteredLines fun _ => Line.clockFlagged with
    clock := { day := day, second := second, isSet := true, offset := 0, slew := 0 } }

theorem setClockReq_late {day second : Nat} (hr : readSetClock fields = some (day, second)) (h : 86399 < second) :
    setClockReq fields s = (s, answerBad 2) := by
  simp only [setClockReq, withFields, hr]
  exact if_pos h

theorem setClockReq_taken {day : BitVec 16} {second : Nat} (hr : readSetClock fields = some (day.toNat, second))
    (h : second ≤ 86399) : setClockReq fields s = (s.clockTaken day second,
      answerDone (be16 day.toNat ++ be24 second ++ [byteOf s.meteredLines.length])) := by
  simp only [setClockReq, withFields, hr, BitVec.ofNat_toNat, BitVec.setWidth_eq]
  exact if_neg (Nat.not_lt.2 h)

theorem exec_setClock (h : s.Asked 0x05 label fields) :
    exec .setClock s = .next ((setClockReq fields s.dropFrame).1.pushReply
      ⟨0x05 + 0x80, label, (setClockReq fields s.dropFrame).2.1, (setClockReq fields s.dropFrame).2.2⟩) :=
  State.request_asked h setClockReq

/-- But for the lines, only the clock is written (R98). -/
theorem State.clockTaken_frame (s : State) (day : BitVec 16) (second : Nat) :
    { s.clockTaken day second with lines := s.lines }
      = { s with clock := { day := day, second := second, isSet := true, offset := 0, slew := 0 } } := by
  rw [State.clockTaken, State.updLines_eq]

theorem State.line_clockTaken (s : State) (day : BitVec 16) (second : Nat) (i : LineId) :
    (s.clockTaken day second).line i = if (s.line i).state = .active ∨ (s.line i).state = .grace
      then (s.line i).clockFlagged else s.line i :=
  (s.line_updLines s.nodup_meteredLines _ i).trans
    (if_congr ((s.mem_meteredLines i).trans (LineState.metered_iff _)) rfl rfl)

theorem adjustClockReq_unset {z : Int} (hr : s16 fields = some (z, rest)) (h : s.clock.isSet = false) :
    adjustClockReq fields s = (s, answerOf .notReady) := by
  simp only [adjustClockReq, withFields, hr, h]
  rfl

theorem adjustClockReq_set {z : Int} (hr : s16 fields = some (z, rest)) (h : s.clock.isSet = true) :
    adjustClockReq fields s = ({ s with clock := { s.clock with offset := max (-300) (min 300 z), slew := 0 } },
      answerDone (beInt16 (max (-300) (min 300 z)))) := by
  simp only [adjustClockReq, withFields, hr, h, clampOffset_eq]
  rfl

theorem exec_adjustClock {t : State} {r : Result} {bytes : List Byte} (h : s.Asked 0x06 label fields)
    (hr : adjustClockReq fields s.dropFrame = (t.dropFrame, r, bytes)) :
    exec .adjustClock s = .next (t.answered 0x06 label r bytes) := State.request_answered h hr

end

/-- Settles O13: SET CLOCK writes the clock and the sessions' flags, ADJUST CLOCK the offset and the slew count (R98,
R99). -/
theorem clockIsSetAndAdjusted : Obligations.ClockIsSetAndAdjusted := by
  refine ⟨fun s label day second rest hsecond h => ?_, fun s label offset rest h => ?_⟩
  · have hr := readSetClock_eq day hsecond rest
    refine ⟨fun hlate => ?_, fun hgood => ?_⟩
    · rw [exec_setClock h, setClockReq_late hr hlate]; rfl
    · rw [exec_setClock h, setClockReq_taken hr hgood]
      refine ⟨_, rfl, ?_, s.dropFrame.line_clockTaken day second⟩
      rw [← State.meteredLines_eq]
      exact congrArg (State.pushReply · _) (s.dropFrame.clockTaken_frame day second)
  · have hr := s16_be16 offset rest
    exact ⟨fun hu => exec_adjustClock h (adjustClockReq_unset (s := s.dropFrame) hr hu),
      fun hk => exec_adjustClock (t := { s with clock := { s.clock with
        offset := max (-300) (min 300 offset.toInt), slew := 0 } }) h (adjustClockReq_set (s := s.dropFrame) hr hk)⟩

/-! ### The addend of a tick -/

/-- The last entry that a minute has reached gives the band (R103). -/
theorem bandAt_eq {before after : List SchedEntry} {e : SchedEntry} {minute : Nat} (he : e.start ≤ minute)
    (hafter : ∀ x ∈ after, minute < x.start) : bandAt (before ++ e :: after) minute = e.band := by
  have hnone : after.filter (fun x => decide (x.start ≤ minute)) = [] :=
    List.filter_eq_nil_iff.2 fun x hx => by simpa using hafter x hx
  rw [bandAt, List.filter_append, List.filter_cons, if_pos (decide_eq_true he), hnone, List.getLast?_concat]

/-- The schedule of a day (R100). -/
def Tariff.schedule (t : Tariff) (day : BitVec 16) : List SchedEntry :=
  if day.toNat % 7 = 5 ∨ day.toNat % 7 = 6 then t.holiday else t.weekday

theorem Tariff.band_eq (t : Tariff) (c : Clock) : t.band c = bandAt (t.schedule c.day) (c.second / 60) := by
  have hday : 5 ≤ c.day.toNat % 7 ↔ c.day.toNat % 7 = 5 ∨ c.day.toNat % 7 = 6 := by omega
  rw [Tariff.band, dayTypeOf, Tariff.schedule]
  by_cases h : 5 ≤ c.day.toNat % 7
  · rw [if_pos h, if_pos (hday.1 h)]
  · rw [if_neg h, if_neg (mt hday.2 h)]

theorem State.addend_eq {s : State} {t : Tariff} {rates : Vector Nat 4} (ht : s.tariff = some t)
    (hr : t.bands[t.band s.clock]? = some rates) (m : Meter) :
    s.addend m = rates.get m.cls * t.weight m.tier := by
  rw [State.addend, ht]
  dsimp only
  rw [Tariff.rate, hr]

/-- Settles O56: the schedule of the day gives the band, the band and the class the rate, the tier the weight (R100,
R103, R112). -/
theorem addendIsRateTimesWeight : Obligations.AddendIsRateTimesWeight := by
  intro s meter t before after e rates ht hsched he hafter hrates
  have hband : t.band s.clock = e.band := by
    rw [Tariff.band_eq, Tariff.schedule, hsched, bandAt_eq he hafter]
  refine ⟨hband, ?_⟩
  rw [State.addend_eq ht (hband ▸ hrates)]
  cases meter.tier <;> rfl

end Sys2Proof.Machine
end


section
/-! The tariff set of LOAD TARIFF: its fields read back, and its checks in their order (O17). -/

namespace Sys2Proof.Machine

/-! ### The fields of a tariff set -/

/-- The values of the four classes in class order (section 6.3). -/
def classValues (v : Vector Nat 4) : List Nat := [v.get 0, v.get 1, v.get 2, v.get 3]

/-- A schedule entry as it is carried, unchecked. -/
def SchedEntry.raw (e : SchedEntry) : Nat × Byte := (e.start, byteOf e.band)

/-- A tariff set as LOAD TARIFF carries it, unchecked. -/
def Tariff.raw (t : Tariff) (rounding : Byte) : RawTariff where
  bandCount := t.bands.length
  rates := t.bands.flatMap classValues
  weekday := t.weekday.map SchedEntry.raw
  holiday := t.holiday.map SchedEntry.raw
  weights := [t.weightLow, t.weightMedium, t.weightHigh].map byteOf
  setup := classValues t.setup
  warn := classValues t.warn
  grace := t.grace
  rounding := rounding

/-- The bytes of a schedule: its count and its entries (section 11.2). -/
def scheduleBytes (sched : List SchedEntry) : List Byte :=
  byteOf sched.length :: sched.flatMap fun e => be16 e.start ++ [byteOf e.band]

theorem Tariff.fields_eq (t : Tariff) (rounding : Byte) : t.fields rounding
    = byteOf t.bands.length :: ((t.bands.flatMap classValues).flatMap be16 ++ (scheduleBytes t.weekday
      ++ (scheduleBytes t.holiday ++ ([t.weightLow, t.weightMedium, t.weightHigh].flatMap (fun w => [byteOf w])
      ++ ((classValues t.setup).flatMap be16 ++ ((classValues t.warn).flatMap be32 ++ (be16 t.grace
      ++ [rounding]))))))) := by
  simp [Tariff.fields, scheduleBytes, classValues, List.flatMap_assoc]

/-- Fields of one kind are read one after another as they were written. -/
theorem many_flatMap {α β : Type} {read : List Byte → Option (β × List Byte)} {write : α → List Byte} {f : α → β}
    {xs : List α} (h : ∀ a ∈ xs, ∀ rest, read (write a ++ rest) = some (f a, rest)) (rest : List Byte) :
    many read xs.length (xs.flatMap write ++ rest) = some (xs.map f, rest) := by
  induction xs with
  | nil => rfl
  | cons a xs ih =>
    rw [List.flatMap_cons, List.append_assoc, List.length_cons, many, h a (List.mem_cons_self ..)]
    simp only [Option.bind_eq_bind, Option.bind_some, ih fun b hb => h b (List.mem_cons_of_mem _ hb), List.map_cons]

theorem many_u16 {xs : List Nat} (h : ∀ n ∈ xs, n < 65536) (rest : List Byte) :
    many u16 xs.length (xs.flatMap be16 ++ rest) = some (xs, rest) := by
  simpa using many_flatMap (f := id) (fun n hn rest => u16_be16 (h n hn) rest) rest

theorem many_u32 {xs : List Nat} (h : ∀ n ∈ xs, n < 4294967296) (rest : List Byte) :
    many u32 xs.length (xs.flatMap be32 ++ rest) = some (xs, rest) := by
  simpa using many_flatMap (f := id) (fun n hn rest => u32_be32 (h n hn) rest) rest

theorem byteOf_toNat_of_lt {n : Nat} (h : n < 256) : (byteOf n).toNat = n :=
  (byteOf_toNat n).trans (Nat.mod_eq_of_lt h)

theorem readSchedule_eq {sched : List SchedEntry} (hn : sched.length < 256) (h : ∀ e ∈ sched, e.start < 65536)
    (rest : List Byte) : readSchedule (scheduleBytes sched ++ rest) = some (sched.map SchedEntry.raw, rest) := by
  have hentry (e : SchedEntry) (he : e ∈ sched) (rest : List Byte) :
      readEntry ((be16 e.start ++ [byteOf e.band]) ++ rest) = some (e.raw, rest) := by
    rw [List.append_assoc, readEntry, u16_be16 (h e he)]; rfl
  have hmany := many_flatMap hentry rest
  rw [← byteOf_toNat_of_lt hn] at hmany
  exact hmany

theorem length_flatMap_classValues (bands : List (Vector Nat 4)) :
    (bands.flatMap classValues).length = 4 * bands.length := by
  induction bands with
  | nil => rfl
  | cons v bands ih =>
    have hv : (classValues v).length = 4 := rfl
    rw [List.flatMap_cons, List.length_append, ih, List.length_cons, hv]
    omega

theorem forall_mem_classValues {P : Nat → Prop} {v : Vector Nat 4} (h : ∀ c : Cls, P (v.get c)) :
    ∀ n ∈ classValues v, P n := by
  simp [classValues, h]

/-- A set that fits its fields is read as it was written (R171, section 11.2). -/
theorem readTariff_eq {t : Tariff} (h : t.Fits) (rounding : Byte) (rest : List Byte) :
    readTariff (t.fields rounding ++ rest) = some (t.raw rounding) := by
  obtain ⟨⟨hbands, hweekday, hholiday⟩, hrates, hsched, hweights, hsetup, hwarn, hgrace⟩ := h
  have hr : ∀ n ∈ t.bands.flatMap classValues, n < 65536 := fun n hn => by
    obtain ⟨b, hb, hn⟩ := List.mem_flatMap.1 hn
    exact forall_mem_classValues (P := (· < 65536)) (hrates b hb) n hn
  have hrates := many_u16 hr
  have hweekday := readSchedule_eq hweekday fun e he => (hsched e (List.mem_append_left _ he)).1
  have hholiday := readSchedule_eq hholiday fun e he => (hsched e (List.mem_append_right _ he)).1
  have hweights (rest : List Byte) :
      many u8 3 (([t.weightLow, t.weightMedium, t.weightHigh].flatMap fun w => [byteOf w]) ++ rest)
        = some ([t.weightLow, t.weightMedium, t.weightHigh].map byteOf, rest) :=
    many_flatMap (read := u8) (xs := [t.weightLow, t.weightMedium, t.weightHigh]) (fun _ _ _ => rfl) rest
  have hsetup (rest : List Byte) : many u16 4 ((classValues t.setup).flatMap be16 ++ rest)
      = some (classValues t.setup, rest) := many_u16 (forall_mem_classValues hsetup) rest
  have hwarn (rest : List Byte) : many u32 4 ((classValues t.warn).flatMap be32 ++ rest)
      = some (classValues t.warn, rest) := many_u32 (forall_mem_classValues hwarn) rest
  rw [length_flatMap_classValues] at hrates
  rw [Tariff.fields_eq]
  simp only [readTariff, List.cons_append, List.append_assoc, u8, Option.bind_eq_bind, Option.bind_some,
    byteOf_toNat_of_lt hbands, hrates, hweekday, hholiday, hweights, hsetup, hwarn, u16_be16 hgrace]
  rfl

/-! ### The tariff set of the fields read -/

theorem vec4_classValues (v : Vector Nat 4) (more : List Nat) : vec4 (classValues v ++ more) = v :=
  vector_ext_get fun c => by fin_cases c <;> rfl

/-- The rates of a band stand four by four (section 11.2). -/
theorem map_range_vec4 (bands : List (Vector Nat 4)) :
    ((List.range bands.length).map fun b => vec4 ((bands.flatMap classValues).drop (4 * b))) = bands := by
  induction bands with
  | nil => rfl
  | cons v bands ih =>
    have hdrop (b : Nat) : ((v :: bands).flatMap classValues).drop (4 * (b + 1))
        = (bands.flatMap classValues).drop (4 * b) := rfl
    rw [List.length_cons, List.range_succ_eq_map, List.map_cons, List.map_map]
    refine congrArg₂ _ (vec4_classValues v _) ?_
    refine Eq.trans (List.map_congr_left fun b _ => ?_) ih
    exact congrArg vec4 (hdrop b)

theorem map_raw_schedule {sched : List SchedEntry} (h : ∀ e ∈ sched, e.band < 256) :
    (sched.map SchedEntry.raw).map (fun e => (⟨e.1, e.2.toNat⟩ : SchedEntry)) = sched := by
  rw [List.map_map]
  refine (List.map_congr_left fun e he => ?_).trans (List.map_id _)
  show (⟨e.start, (byteOf e.band).toNat⟩ : SchedEntry) = e
  rw [byteOf_toNat_of_lt (h e he)]

/-- The set read is the set carried (R106). -/
theorem Tariff.tariff_raw {t : Tariff} (h : t.Fits) : (t.raw t.rounding.code).tariff = t := by
  obtain ⟨-, -, hsched, ⟨hlow, hmedium, hhigh⟩, -, -, -⟩ := h
  have hrounding : (Rounding.ofCode t.rounding.code).getD .down = t.rounding := by
    cases t.rounding <;> rfl
  have hweekday := map_raw_schedule fun e he => (hsched e (List.mem_append_left t.holiday he)).2
  have hholiday := map_raw_schedule fun e he => (hsched e (List.mem_append_right t.weekday he)).2
  have hsetup := vec4_classValues t.setup []
  have hwarn := vec4_classValues t.warn []
  rw [List.append_nil] at hsetup hwarn
  simp only [RawTariff.tariff, Tariff.raw, map_range_vec4, hweekday, hholiday, hsetup, hwarn, hrounding, List.map_cons,
    List.getD_cons_zero, List.getD_cons_succ, byteOf_toNat_of_lt hlow, byteOf_toNat_of_lt hmedium,
    byteOf_toNat_of_lt hhigh]

/-! ### The checks of a tariff set in their order -/

/-- What the first check that fails says. -/
def firstFailed (checks : List (Bool × Violation)) : Option Violation := (checks.find? (·.1)).map (·.2)

theorem firstFailed_cons (b : Bool) (v : Violation) (cs : List (Bool × Violation)) :
    firstFailed ((b, v) :: cs) = if b then some v else firstFailed cs := by
  cases b <;> rfl

theorem firstFailed_singleton (p : Prop) [Decidable p] (v : Violation) :
    firstFailed [(decide p, v)] = if p then some v else none :=
  (firstFailed_cons _ v []).trans (if_congr decide_eq_true_iff rfl rfl)

theorem firstFailed_append (cs ds : List (Bool × Violation)) :
    firstFailed (cs ++ ds) = (firstFailed cs).or (firstFailed ds) := by
  rw [firstFailed, List.find?_append]
  cases h : cs.find? (·.1) <;> simp [firstFailed, h]

theorem firstBad_cons {α : Type} (item base : Nat) (bad : α → Bool) (x : α) (xs : List α) :
    firstBad item base bad (x :: xs) = if bad x then some (item, base) else firstBad item (base + 1) bad xs := by
  rw [firstBad, List.findIdx?_cons]
  cases bad x
  · simp [firstBad, Function.comp_def, Nat.add_assoc, Nat.add_comm 1]
  · rfl

/-- A check of each element, all of one item, the positions counted (R104, R172). -/
theorem firstFailed_each {α : Type} (item base k : Nat) (bad : α → Bool) (xs : List α) :
    firstFailed ((xs.zipIdx k).map fun p => (bad p.1, item, base + p.2)) = firstBad item (base + k) bad xs := by
  induction xs generalizing k with
  | nil => rfl
  | cons x xs ih => rw [List.zipIdx_cons, List.map_cons, firstFailed_cons, ih, firstBad_cons]; rfl

theorem firstBad_append {α : Type} (item base : Nat) (bad : α → Bool) (xs ys : List α) :
    firstBad item base bad (xs ++ ys) = (firstBad item base bad xs).or (firstBad item (base + xs.length) bad ys) := by
  induction xs generalizing base with
  | nil => rfl
  | cons x xs ih =>
    rw [List.cons_append, firstBad_cons, firstBad_cons, ih, List.length_cons, Nat.add_right_comm, Nat.add_assoc]
    cases bad x <;> rfl

/-- Checks of the four classes' values, in class order (R104). -/
def classChecks (item base : Nat) (bad : Nat → Bool) (v : Vector Nat 4) : List (Bool × Violation) :=
  ([0, 1, 2, 3] : List Cls).map fun c => (bad (v.get c), item, base + c.val)

theorem firstFailed_classes (item base : Nat) (bad : Nat → Bool) (v : Vector Nat 4) :
    firstFailed (classChecks item base bad v) = firstBad item base bad (classValues v) :=
  firstFailed_each item base 0 bad (classValues v)

/-- The rates are checked band by band, and in a band class by class (R104). -/
theorem firstFailed_rates (bad : Nat → Bool) (k : Nat) (bands : List (Vector Nat 4)) :
    firstFailed ((bands.zipIdx k).flatMap fun p => classChecks 2 (p.2 * 4) bad p.1)
      = firstBad 2 (k * 4) bad (bands.flatMap classValues) := by
  induction bands generalizing k with
  | nil => rfl
  | cons v bands ih =>
    have hnext : k * 4 + (classValues v).length = (k + 1) * 4 := (Nat.succ_mul k 4).symm
    rw [List.zipIdx_cons, List.flatMap_cons, firstFailed_append, firstFailed_classes, ih, List.flatMap_cons,
      firstBad_append, hnext]

/-- The check of the starts of a schedule (R104). -/
def startFails (sched : List SchedEntry) (p : SchedEntry × Nat) : Bool :=
  if p.2 = 0 then decide (p.1.start ≠ 0)
  else decide (1439 < p.1.start ∨ p.1.start ≤ ((sched[p.2 - 1]?).map SchedEntry.start).getD 0)

/-- The checks of a schedule (R104). -/
def scheduleChecks (bandCount day : Nat) (sched : List SchedEntry) : List (Bool × Violation) :=
  (decide (sched.length < 1 ∨ 6 < sched.length), 3, day * 16)
  :: (sched.zipIdx.map fun p => (startFails sched p, 4, day * 16 + p.2))
  ++ sched.zipIdx.map fun p => (decide (bandCount ≤ p.1.band), 5, day * 16 + p.2)

/-- The starts after the entry `e` are checked against the start before each (R104). -/
theorem firstFailed_starts (base : Nat) {sched before rest : List SchedEntry} {e : SchedEntry}
    (h : sched = before ++ e :: rest) :
    firstFailed ((rest.zipIdx (before.length + 1)).map fun p => (startFails sched p, 4, base + p.2))
      = (badStart (before.length + 1) (some e.start) (rest.map SchedEntry.raw)).map fun k => (4, base + k) := by
  induction rest generalizing before e with
  | nil => rfl
  | cons x rest ih =>
    have hx : startFails sched (x, before.length + 1) = decide (1439 < x.start ∨ x.start ≤ e.start) := by
      simp [startFails, h]
    have hnext := ih (before := before ++ [e]) (e := x) (by rw [h, List.append_assoc]; rfl)
    rw [List.length_append, List.length_singleton] at hnext
    rw [List.zipIdx_cons, List.map_cons, firstFailed_cons, hnext, hx, List.map_cons, SchedEntry.raw, badStart,
      apply_ite (Option.map _)]
    simp only [decide_eq_true_eq, Option.map_some]

/-- Values are checked alike as they are carried and as they are meant. -/
theorem firstBad_map {α β : Type} (item base : Nat) {bad : β → Bool} {good : α → Bool} {f : α → β} {xs : List α}
    (h : ∀ x ∈ xs, bad (f x) = good x) : firstBad item base bad (xs.map f) = firstBad item base good xs := by
  induction xs generalizing base with
  | nil => rfl
  | cons x xs ih =>
    rw [List.map_cons, firstBad_cons, firstBad_cons, h x (List.mem_cons_self ..),
      ih _ fun y hy => h y (List.mem_cons_of_mem _ hy)]

theorem firstFailed_starts_all (base : Nat) (sched : List SchedEntry) :
    firstFailed (sched.zipIdx.map fun p => (startFails sched p, 4, base + p.2))
      = (badStart 0 none (sched.map SchedEntry.raw)).map fun k => (4, base + k) := by
  cases sched with
  | nil => rfl
  | cons e rest =>
    have hrest := firstFailed_starts base (sched := e :: rest) (before := []) rfl
    have he : startFails (e :: rest) (e, 0) = decide (e.start ≠ 0) := rfl
    rw [List.zipIdx_cons, List.map_cons, firstFailed_cons, List.map_cons, SchedEntry.raw, badStart,
      apply_ite (Option.map _), he]
    simp only [decide_eq_true_eq, Option.map_some]
    exact if_congr Iff.rfl rfl hrest

theorem firstFailed_schedule (bandCount day : Nat) {sched : List SchedEntry} (h : ∀ e ∈ sched, e.band < 256) :
    firstFailed (scheduleChecks bandCount day sched)
      = checkSchedule day bandCount (sched.map SchedEntry.raw) := by
  have hbands : firstFailed (sched.zipIdx.map fun p => (decide (bandCount ≤ p.1.band), 5, day * 16 + p.2))
      = firstBad 5 (day * 16) (fun e => bandCount ≤ e.2.toNat) (sched.map SchedEntry.raw) :=
    (firstFailed_each 5 (day * 16) 0 (fun e : SchedEntry => bandCount ≤ e.band) sched).trans
      (firstBad_map 5 (day * 16) fun e he => by
        rw [SchedEntry.raw, byteOf_toNat_of_lt (h e he)]).symm
  rw [scheduleChecks, List.cons_append, firstFailed_cons, firstFailed_append, firstFailed_starts_all, hbands,
    checkSchedule, List.length_map]
  by_cases hn : sched.length < 1 ∨ 6 < sched.length
  · rw [if_pos (decide_eq_true hn), if_pos hn]; rfl
  · rw [if_neg (mt of_decide_eq_true hn), if_neg hn]; simp

theorem Tariff.checks_eq (t : Tariff) (rounding : Byte) : t.checks rounding
    = [(decide (t.bands.length < 1 ∨ 8 < t.bands.length), 1, 0)]
      ++ (t.bands.zipIdx.flatMap fun p => classChecks 2 (p.2 * 4) (fun r => 60000 < r) p.1)
      ++ scheduleChecks t.bands.length 0 t.weekday ++ scheduleChecks t.bands.length 1 t.holiday
      ++ ([t.weightLow, t.weightMedium, t.weightHigh].zipIdx.map fun p => (decide (p.1 < 1 ∨ 32 < p.1), 6, 0 + p.2))
      ++ classChecks 7 0 (fun c => 9999 < c) t.setup ++ classChecks 8 0 (fun w => 1000000 < w) t.warn
      ++ ([(decide (900 < t.grace), 9, 0)] ++ [(decide (2 < rounding.toNat), 10, 0)]) := rfl

theorem Rounding.ofCode_isNone_iff (b : Byte) : (Rounding.ofCode b).isNone = true ↔ 2 < b.toNat := by
  constructor
  · intro h
    by_contra hle
    rcases toNat_le_two hle with rfl | rfl | rfl <;> cases h
  · intro h
    have ne (k : Byte) (hk : k.toNat ≤ 2) : b ≠ k := by rintro rfl; omega
    rw [Rounding.ofCode, if_neg (ne 0 (by decide)), if_neg (ne 1 (by decide)), if_neg (ne 2 (by decide))]
    rfl

/-- The first violation of a set as it is carried is the first check that fails (R104). -/
theorem Tariff.violation_raw {t : Tariff} (h : t.Fits) (rounding : Byte) :
    (t.raw rounding).violation = firstFailed (t.checks rounding) := by
  obtain ⟨-, -, hsched, ⟨hlow, hmedium, hhigh⟩, -, -, -⟩ := h
  have hweekday := firstFailed_schedule t.bands.length 0 fun e he => (hsched e (List.mem_append_left t.holiday he)).2
  have hholiday := firstFailed_schedule t.bands.length 1 fun e he => (hsched e (List.mem_append_right t.weekday he)).2
  have hrates := firstFailed_rates (fun r => 60000 < r) 0 t.bands
  have hweights : firstFailed ([t.weightLow, t.weightMedium, t.weightHigh].zipIdx.map fun p =>
      (decide (p.1 < 1 ∨ 32 < p.1), 6, 0 + p.2)) = firstBad 6 0 (fun w => w.toNat < 1 || 32 < w.toNat)
        (t.raw rounding).weights :=
    (firstFailed_each 6 0 0 (fun w : Nat => w < 1 ∨ 32 < w) _).trans (firstBad_map 6 0 fun w hw => by
      have hw : w < 256 := by
        simp only [List.mem_cons, List.not_mem_nil, or_false] at hw
        omega
      rw [byteOf_toNat_of_lt hw, Bool.decide_or]).symm
  rw [Tariff.checks_eq]
  simp only [firstFailed_append, firstFailed_classes, hweekday, hholiday, hrates, hweights, firstFailed_singleton,
    ← Rounding.ofCode_isNone_iff, Option.or_assoc]
  simp only [Option.or_eq_orElse]
  rfl

end Sys2Proof.Machine
end


section
/-! The re-evaluation of every account under a new tariff, and LOAD TARIFF (O17). -/

namespace Sys2Proof.Machine

/-! ### Every account re-evaluated -/

/-- The accounts whose BUDGET flag a re-evaluation sets (R85, R163). -/
def State.Notices (s : State) (n : Name) : Prop :=
  ∃ a, s.account? n = some a ∧ a.notice = none ∧ s.stateOfBudget a.budget a.overdraft a.cls ≠ a.bstate

/-- A session of the account `n` after the account's re-evaluation (R82). -/
def State.lineRejudged (s : State) (n : Name) (l : Line) : Line :=
  match s.account? n with
  | some a => s.lineAfter a.bstate (s.stateOfBudget a.budget a.overdraft a.cls) a.budget l
  | none => l

/-- No account goes into EXHAUSTED by a re-evaluation under the tariff in force. -/
def State.NoneExhausts (s : State) : Prop := ∀ n a, s.account? n = some a →
  s.stateOfBudget a.budget a.overdraft a.cls = .exhausted → a.bstate = .exhausted

/-- `t` is `s` with the accounts of the names `ns` re-evaluated, with the effects on their sessions (R81 to R85). -/
structure State.Rejudged (s t : State) (ns : List Name) : Prop where
  account : ∀ n, t.account? n = if n ∈ ns then (s.account? n).map s.rejudged else s.account? n
  length : t.accounts.length = s.accounts.length
  frame : { t with
    accounts := s.accounts, lines := s.lines, link := { t.link with budgetOrder := s.link.budgetOrder } } = s
  order : ∃ joined, t.link.budgetOrder = s.link.budgetOrder ++ joined ∧ ∀ n, n ∈ joined ↔ n ∈ ns ∧ s.Notices n
  seats : ∀ i, (t.line i).seat = (s.line i).seat
  line : ∀ n, ∀ i ∈ s.sessionsOf n, t.line i = if n ∈ ns then s.lineRejudged n (s.line i) else s.line i
  apart : ∀ i, (∀ n, i ∉ s.sessionsOf n) → t.line i = s.line i

theorem raiseBudget_eq_flagAfter (a : Account) (budget : Int) (st : BudgetState) :
    raiseBudget a.notice budget st = a.flagAfter budget st := by
  cases h : a.notice <;> simp [raiseBudget, Account.flagAfter, h, satAdd, max8]

theorem State.rejudged_eq (s : State) (a : Account) :
    s.rejudged a = if s.stateOfBudget a.budget a.overdraft a.cls = a.bstate then a
      else { a with
        bstate := s.stateOfBudget a.budget a.overdraft a.cls
        notice := some (a.flagAfter a.budget (s.stateOfBudget a.budget a.overdraft a.cls)) } := by
  rw [State.rejudged, raiseBudget_eq_flagAfter]
  split
  next h => rw [h]
  next => rfl

theorem State.stateOfBudget_congr {s t : State} (h : t.tariff = s.tariff) (budget : Int) (overdraft : Nat) (c : Cls) :
    t.stateOfBudget budget overdraft c = s.stateOfBudget budget overdraft c := by
  rw [State.stateOfBudget, State.stateOfBudget, h]

/-- The transition of an account leaves its sessions its sessions (R82 to R84). -/
theorem State.lineAfter_seat (s : State) {l : Line} (h : l.state.metered = true) (old new : BudgetState)
    (budget : Int) : (s.lineAfter old new budget l).seat = l.seat := by
  have notice (chars : List Byte) (l : Line) : (if l.unit.speed = none then l else { l with out := { l.out with
      noticeWait := chars, waitPrompt := none } }).seat = l.seat := by split <;> rfl
  have moved (st : LineState) (hst : st.metered = true) (f : Meter → Meter) (hf : ∀ m, (f m).account = m.account) :
      (({ l with state := st } : Line).updMeter f).seat = l.seat := by
    rw [Line.updMeter_seat hf, Line.seat, Line.seat, h]; exact congrArg (·, l.account?) hst
  have grace := moved .grace rfl (fun m => { m with grace := s.tariff.map Tariff.grace, graceFlag := true })
    fun _ => rfl
  have active := moved .active rfl (fun m => { m with grace := none }) fun _ => rfl
  cases old <;> cases new
  case normal.warned => exact notice _ l
  case normal.exhausted | warned.exhausted => exact (notice _ _).trans grace
  case exhausted.normal | exhausted.warned => exact (notice _ _).trans active
  all_goals rfl

section
variable {s t u : State} {ns ns' : List Name} {n : Name} {a : Account}

theorem State.lineRejudged_none (h : s.account? n = none) (l : Line) : s.lineRejudged n l = l := by
  rw [State.lineRejudged, h]

theorem State.lineRejudged_some (h : s.account? n = some a) (l : Line) : s.lineRejudged n l
    = s.lineAfter a.bstate (s.stateOfBudget a.budget a.overdraft a.cls) a.budget l := by
  rw [State.lineRejudged, h]

theorem State.Rejudged.tariff (h : s.Rejudged t ns) : t.tariff = s.tariff := (congrArg State.tariff h.frame :)
theorem State.Rejudged.texts (h : s.Rejudged t ns) : t.texts = s.texts := (congrArg State.texts h.frame :)

theorem State.Rejudged.sessions (h : s.Rejudged t ns) (n : Name) : t.sessionsOf n = s.sessionsOf n :=
  State.sessionsOf_seats h.seats n

theorem State.Rejudged.refl (s : State) : s.Rejudged s [] where
  account _ := rfl
  length := rfl
  frame := rfl
  order := ⟨[], (List.append_nil _).symm, fun n => by simp⟩
  seats _ := rfl
  line _ _ _ := rfl
  apart _ _ := rfl

/-- Only the names that the table has matter. -/
theorem State.Rejudged.congr (h : s.Rejudged t ns) (hns : ∀ m a, s.account? m = some a → (m ∈ ns' ↔ m ∈ ns)) :
    s.Rejudged t ns' where
  account m := by
    rw [h.account]
    cases ha : s.account? m with
    | none => simp
    | some a => exact if_congr (hns m a ha).symm rfl rfl
  length := h.length
  frame := h.frame
  order := by
    obtain ⟨joined, horder, hmem⟩ := h.order
    exact ⟨joined, horder, fun m => (hmem m).trans (and_congr_left fun ⟨a, ha, _⟩ => (hns m a ha).symm)⟩
  seats := h.seats
  line m i hi := by
    rw [h.line m i hi]
    cases ha : s.account? m with
    | none => rw [State.lineRejudged_none ha, ite_self, ite_self]
    | some a => exact if_congr (hns m a ha).symm rfl rfl
  apart := h.apart

theorem State.reevaluateAct_none (h : s.account? n = none) : s.reevaluateAct n = s := by
  rw [State.reevaluateAct, State.reevaluate, h]; rfl

theorem State.reevaluateAct_quiet (h : s.account? n = some a)
    (hq : s.stateOfBudget a.budget a.overdraft a.cls = a.bstate) : s.reevaluateAct n = s := by
  rw [State.reevaluateAct, State.reevaluate_quiet h hq]; rfl

/-- An account re-evaluated already is left by a further re-evaluation (R81). -/
theorem State.Rejudged.again (h : s.Rejudged t ns) (hn : n ∈ ns) : t.reevaluateAct n = t := by
  have haccount := (h.account n).trans (if_pos hn)
  cases ha : s.account? n with
  | none => rw [ha] at haccount; exact State.reevaluateAct_none haccount
  | some a =>
    rw [ha] at haccount
    exact State.reevaluateAct_quiet haccount (State.stateOfBudget_congr h.tariff ..)

/-- One more account re-evaluated, which makes no transition into EXHAUSTED (R81 to R85). -/
theorem State.Rejudged.acted (h : s.Rejudged t ns) (hn : a.name ∉ ns) (ha : s.account? a.name = some a)
    (hu : t.Acted u a (s.stateOfBudget a.budget a.overdraft a.cls)) : s.Rejudged u (ns ++ [a.name]) where
  account m := by
    rw [hu.accounts, h.account]
    by_cases hm : m = a.name
    · subst hm
      rw [if_pos rfl, if_pos (List.mem_append_right _ (List.mem_singleton.2 rfl)), ha, Option.map_some, State.rejudged,
        raiseBudget_eq_flagAfter]
    · rw [if_neg hm]; simp [hm]
  length := hu.length.trans h.length
  frame := (congrArg (fun x : State => { x with
    accounts := s.accounts, lines := s.lines, link := { x.link with budgetOrder := s.link.budgetOrder } })
      hu.frame).trans h.frame
  order := by
    obtain ⟨joined, horder, hmem⟩ := h.order
    have hown (m : Name) : m ∈ (if s.stateOfBudget a.budget a.overdraft a.cls ≠ a.bstate ∧ a.notice = none then [a.name]
        else []) ↔ m = a.name ∧ s.Notices m := by
      constructor
      · intro hm
        split at hm
        next hc => obtain rfl := List.mem_singleton.1 hm; exact ⟨rfl, a, ha, hc.2, hc.1⟩
        next => cases hm
      · rintro ⟨rfl, b, hb, hnone, hturn⟩
        obtain rfl := Option.some.inj (ha.symm.trans hb)
        rw [if_pos ⟨hturn, hnone⟩]
        exact List.mem_singleton.2 rfl
    refine ⟨_, (congrArg Link.budgetOrder hu.link).trans ((congrArg (· ++ _) horder).trans (List.append_assoc ..)),
      fun m => ?_⟩
    rw [List.mem_append, hmem, hown, ← or_and_right, List.mem_append, List.mem_singleton]
  seats i := by
    rw [hu.lines, ← h.seats]
    split
    next hi => exact t.lineAfter_seat ((State.mem_sessionsOf ..).1 hi).1 ..
    next => rfl
  line m i hi := by
    rw [hu.lines, h.sessions, h.line m i hi]
    by_cases hm : m = a.name
    · subst hm
      rw [if_pos hi, if_neg hn, if_pos (by simp), State.lineAfter_congr h.texts h.tariff, State.lineRejudged_some ha]
    · have hother : i ∉ s.sessionsOf a.name := fun hi' => hm (Option.some.inj
        (((State.mem_sessionsOf ..).1 hi).2.symm.trans ((State.mem_sessionsOf ..).1 hi').2))
      rw [if_neg hother]
      simp [hm]
  apart i hi := by
    rw [hu.lines, h.sessions, if_neg (hi _), h.apart i hi]

/-- Accounts re-evaluated one after another, none of which goes into EXHAUSTED (R81 to R85, R106). -/
theorem State.rejudged_foldl (hs : s.NoneExhausts) (ns : List Name) :
    s.Rejudged (ns.foldl State.reevaluateAct s) ns := by
  induction ns using List.reverseRecOn with
  | nil => exact .refl s
  | append_singleton ns n ih =>
    rw [List.foldl_concat]
    generalize ns.foldl State.reevaluateAct s = t at ih
    by_cases hn : n ∈ ns
    · rw [ih.again hn]
      exact ih.congr fun m _ _ => by
        rw [List.mem_append, List.mem_singleton]
        exact or_iff_left_of_imp fun e => e ▸ hn
    · have haccount := (ih.account n).trans (if_neg hn)
      cases ha : s.account? n with
      | none =>
        rw [State.reevaluateAct_none (haccount.trans ha)]
        exact ih.congr fun m a hm => by
          rw [List.mem_append, List.mem_singleton]
          refine or_iff_left_of_imp fun e => ?_
          rw [e, ha] at hm; cases hm
      | some a =>
        obtain rfl := State.account?_name ha
        exact ih.acted hn ha (State.reevaluateAct_acted (haccount.trans ha)
          (State.stateOfBudget_congr ih.tariff ..).symm fun e => .inl (hs _ a ha e))

/-- `s` with a new tariff in force and a free order drawn (R106; log 13). -/
def State.retariffed (s : State) (tariff : Tariff) : State :=
  { s with tariff := some tariff, orders := s.orders.tail }

theorem State.stateOfBudget_exhausted_iff (s : State) (budget : Int) (overdraft : Nat) (c : Cls) :
    s.stateOfBudget budget overdraft c = .exhausted ↔ budget < -(overdraft : Int) := by
  unfold State.stateOfBudget
  split
  next h => exact iff_of_true rfl h
  next h => refine iff_of_false ?_ h; split <;> exact nofun

/-- EXHAUSTED does not depend on the tariff, so a new one brings no account into it (R81). -/
theorem State.BudgetsRight.noneExhausts (h : s.BudgetsRight) (tariff : Tariff) :
    (s.retariffed tariff).NoneExhausts := fun n a ha he =>
  (h n a ha).trans ((s.budgetStateOf_eq ..).trans
    ((s.stateOfBudget_exhausted_iff ..).2 ((State.stateOfBudget_exhausted_iff ..).1 he)))

/-- Every account of the table re-evaluated under a new tariff, in a free order (R106; log 13). -/
theorem State.rejudged_reevaluateAll (h : s.BudgetsRight) (tariff : Tariff) :
    ∃ ns, (s.retariffed tariff).Rejudged (State.reevaluateAll { s with tariff := some tariff }) ns
      ∧ ∀ n a, s.account? n = some a → n ∈ ns :=
  ⟨_, State.rejudged_foldl (h.noneExhausts tariff) _, fun _ _ ha => mem_arrange _ _ (State.mem_names ha)⟩

/-- The transitions that a new tariff makes read nothing of it (R82). -/
theorem State.BudgetsRight.lineRejudged (h : s.BudgetsRight) (tariff : Tariff) (ha : s.account? n = some a) (l : Line) :
    (s.retariffed tariff).lineRejudged n l = s.lineAfter a.bstate
      ((s.retariffed tariff).stateOfBudget a.budget a.overdraft a.cls) a.budget l := by
  have hnone := h.noneExhausts tariff n a ha
  rw [State.lineRejudged_some (s := s.retariffed tariff) ha]
  generalize (s.retariffed tariff).stateOfBudget a.budget a.overdraft a.cls = new at hnone
  generalize a.bstate = old at hnone
  cases old <;> cases new
  case normal.exhausted | warned.exhausted => cases hnone rfl
  all_goals rfl

end

/-! ### LOAD TARIFF -/

section
variable {s : State} {label : Byte} {fields : List Byte} {raw : RawTariff}

theorem exec_loadTariff (h : s.Asked 0x07 label fields) :
    exec .loadTariff s = .next ((loadTariffReq fields s.dropFrame).1.pushReply
      ⟨0x07 + 0x80, label, (loadTariffReq fields s.dropFrame).2.1, (loadTariffReq fields s.dropFrame).2.2⟩) :=
  State.request_asked h loadTariffReq

theorem loadTariffReq_bad (hr : readTariff fields = some raw) {v : Violation} (hv : raw.violation = some v) :
    loadTariffReq fields s = (s, .badField, [byteOf v.1, byteOf v.2]) := by
  simp only [loadTariffReq, withFields, hr, hv]

theorem loadTariffReq_taken (hr : readTariff fields = some raw) (hv : raw.violation = none) :
    loadTariffReq fields s = (State.reevaluateAll { s with tariff := some raw.tariff },
      answerDone [byteOf raw.bandCount, byteOf raw.weekday.length, byteOf raw.holiday.length]) := by
  simp only [loadTariffReq, withFields, hr, hv]

end

/-- Settles O17: the set is read back from its fields (`readTariff_eq`), its first violation is the first check that
fails (`Tariff.violation_raw`), and every account is re-evaluated, none into EXHAUSTED (R104, R105, R106). -/
theorem loadTariffReplacesTheSet : Obligations.LoadTariffReplacesTheSet := by
  intro s label tariff rounding rest hfits h
  have hr := readTariff_eq hfits rounding rest
  have hv := Tariff.violation_raw hfits rounding
  refine ⟨fun c hc => ?_, fun hpass hcode hright st hst => ?_⟩
  · have hv : (tariff.raw rounding).violation = some c.2 := by rw [hv, firstFailed, hc]; rfl
    rw [exec_loadTariff h, loadTariffReq_bad hr hv]; rfl
  · have hv : (tariff.raw rounding).violation = none := by rw [hv, firstFailed, hpass]; rfl
    have hraw : (tariff.raw rounding).tariff = tariff := by rw [hcode]; exact Tariff.tariff_raw hfits
    have hright : s.dropFrame.BudgetsRight := hright
    obtain ⟨ns, hjudged, hall⟩ := State.rejudged_reevaluateAll hright tariff
    obtain ⟨joined, horder, hmem⟩ := hjudged.order
    rw [exec_loadTariff h, loadTariffReq_taken hr hv, hraw]
    subst hst
    refine ⟨_, joined, rfl, ?_, hjudged.length, fun n => ?_, horder, fun n => ?_, fun n i hi => ?_, hjudged.apart⟩
    · have hweekday : (tariff.raw rounding).weekday.length = tariff.weekday.length := List.length_map _
      have hholiday : (tariff.raw rounding).holiday.length = tariff.holiday.length := List.length_map _
      rw [hweekday, hholiday]
      exact congrArg (fun x : State => { x.pushReply _ with orders := s.orders }) hjudged.frame
    · refine (hjudged.account n).trans ?_
      show (if n ∈ ns then (s.account? n).map (s.dropFrame.retariffed tariff).rejudged else s.account? n) = _
      cases ha : s.account? n with
      | none => exact ite_self _
      | some a => exact (if_pos (hall n a ha)).trans (congrArg some (State.rejudged_eq _ a))
    · exact (hmem n).trans (and_iff_right_of_imp fun ⟨a, ha, _⟩ => hall n a ha)
    · refine (hjudged.line n i hi).trans ?_
      cases ha : s.account? n with
      | none => rw [State.lineRejudged_none (s := s.dropFrame.retariffed tariff) ha, ite_self]; rfl
      | some a => exact (if_pos (hall n a ha)).trans (hright.lineRejudged tariff ha _)

end Sys2Proof.Machine
end


section
/-! A tick that ends no session and makes no transition (O57). -/

namespace Sys2Proof.Machine

/-! ### The clock of a tick -/

/-- The clock's advance as the claims write it (R96, R97). -/
theorem Clock.advance_eq (c : Clock) {step : Nat}
    (hstep : step = if c.offset = 0 ∨ c.slew + 1 < 10 then 1 else if 0 < c.offset then 2 else 0) :
    c.advance = if c.isSet = false then c else
      { day := if 86400 ≤ c.second + step then c.day + 1 else c.day
        second := if 86400 ≤ c.second + step then c.second + step - 86400 else c.second + step
        isSet := true
        offset := if step = 2 then c.offset - 1 else if step = 0 then c.offset + 1 else c.offset
        slew := if c.offset = 0 ∨ step ≠ 1 then 0 else c.slew + 1 } := by
  have hslew : c.slewStep = (step, if step = 2 then c.offset - 1 else if step = 0 then c.offset + 1 else c.offset,
      if c.offset = 0 ∨ step ≠ 1 then 0 else c.slew + 1) := by
    unfold Clock.slewStep
    by_cases h0 : c.offset = 0
    · simp [hstep, h0]
    by_cases hs : c.slew + 1 < 10
    · simp [hstep, h0, hs]
    by_cases hp : 0 < c.offset <;> simp [hstep, h0, hs, hp]
  cases hset : c.isSet with
  | false => rw [Clock.advance, hset]; rfl
  | true => rw [Clock.advance, hset, hslew]; rfl

/-! ### The debits of a tick that make no transition -/

/-- No debit of the accounts `ns` by `due` makes a transition (R81). -/
def State.PaysQuietly (s : State) (ns : List Name) (due : Name → Nat) : Prop := ∀ n ∈ ns, ∀ a, s.account? n = some a →
  s.stateOfBudget (clampBudget (a.budget - due n)) a.overdraft a.cls = a.bstate

/-- The account `a` after a debit that makes no transition (R80). -/
def Account.pay (z : Nat) (a : Account) : Account := { a with budget := clampBudget (a.budget - z) }

/-- `t` is `s` with each of the accounts `ns` debited by `due`, and no transition made (R80, R114). -/
structure State.PaidQuietly (s t : State) (ns : List Name) (due : Name → Nat) : Prop where
  frame : { t with accounts := s.accounts } = s
  account : ∀ n, t.account? n = if n ∈ ns then (s.account? n).map (Account.pay (due n)) else s.account? n

section
variable {s t : State} {ns : List Name} {due : Name → Nat}

theorem State.PaidQuietly.lines (h : s.PaidQuietly t ns due) : t.lines = s.lines := (congrArg State.lines h.frame :)
theorem State.PaidQuietly.store (h : s.PaidQuietly t ns due) : t.store = s.store := (congrArg State.store h.frame :)
theorem State.PaidQuietly.clock (h : s.PaidQuietly t ns due) : t.clock = s.clock := (congrArg State.clock h.frame :)
theorem State.PaidQuietly.tariff (h : s.PaidQuietly t ns due) : t.tariff = s.tariff := (congrArg State.tariff h.frame :)

theorem State.paidQuietly_debit {n : Name} (h : s.PaysQuietly [n] due) :
    s.PaidQuietly (State.applyEffects (s.debit n (due n : Nat))) [n] due := by
  simp only [State.PaysQuietly, List.mem_singleton, forall_eq] at h
  cases ha : s.account? n with
  | none =>
    have hdebit : s.debit n (due n : Nat) = (s, none) := by rw [State.debit, ha]
    rw [hdebit]
    refine ⟨rfl, fun m => ?_⟩
    by_cases hm : m = n
    · subst hm; rw [if_pos (List.mem_singleton.2 rfl), ha]; exact ha
    · rw [if_neg (mt List.mem_singleton.1 hm)]; rfl
  | some a =>
    obtain rfl := State.account?_name ha
    rw [State.debit_quiet ha rfl (h a ha)]
    refine ⟨rfl, fun m => (State.account?_putAccount ..).trans ?_⟩
    by_cases hm : m = a.name
    · subst hm; rw [if_pos rfl, if_pos (List.mem_singleton.2 rfl), ha]; rfl
    · rw [if_neg hm, if_neg (mt List.mem_singleton.1 hm)]

/-- Debits that make no transition, each account debited once (R80, R81, R114). -/
theorem State.paidQuietly_foldl (hnd : ns.Nodup) (h : s.PaysQuietly ns due) :
    s.PaidQuietly (ns.foldl (fun s n => State.applyEffects (s.debit n (due n : Nat))) s) ns due := by
  induction ns generalizing s with
  | nil => exact ⟨rfl, fun _ => rfl⟩
  | cons n ns ih =>
    obtain ⟨hn, hnd⟩ := List.nodup_cons.1 hnd
    have hone := State.paidQuietly_debit (s := s) (n := n) (due := due) fun m hm =>
      h m (List.mem_singleton.1 hm ▸ List.mem_cons_self ..)
    rw [List.foldl_cons]
    generalize State.applyEffects (s.debit n (due n : Nat)) = u at hone
    have hother {m : Name} (hm : m ≠ n) : u.account? m = s.account? m :=
      (hone.account m).trans (if_neg (mt List.mem_singleton.1 hm))
    have hrest := ih (s := u) hnd fun m hm a ha => by
      rw [hother fun e : m = n => hn (e ▸ hm)] at ha
      exact (State.stateOfBudget_congr hone.tariff ..).trans (h m (List.mem_cons_of_mem _ hm) a ha)
    refine ⟨(congrArg (fun x : State => { x with accounts := s.accounts }) hrest.frame).trans hone.frame, fun m => ?_⟩
    rw [hrest.account]
    by_cases hm : m = n
    · subst hm
      rw [if_neg hn, hone.account, if_pos (List.mem_singleton.2 rfl), if_pos (List.mem_cons_self ..)]
    · rw [hother hm]; simp [hm]

end

/-! ### The countdowns of sessions that go on -/

/-- A session's meter record after the countdowns that follow its charge, neither of which ends it (R117, R118). -/
def Meter.wentOn (grace : Bool) (m : Meter) : Meter :=
  { m with
    grace := if grace then m.grace.map (· - 1) else m.grace
    inactCount := if m.inactLimit = 0 then m.inactCount else m.inactCount + 1 }

/-- The checkpoint entry of a session after its charge: refreshed at a full minute (R116, R149). -/
def Meter.refreshed (clock : Clock) (m : Meter) (entry : Option Charge) : Option Charge :=
  if m.seconds % 60 ≠ 0 then entry
  else entry.map fun c => { c with
    seconds := m.seconds, units := m.units, clockSet := m.clockSet, saturated := m.saturated
    graceFlag := m.graceFlag, endDay := clock.day, endSecond := clock.second }

/-- Neither the grace timer, which runs down where `grace` says so, nor the inactivity count ends the session (R117,
R118). -/
structure Meter.GoesOn (grace : Bool) (m : Meter) : Prop where
  grace : grace = true → ∀ g, m.grace = some g → 1 < g
  silence : m.inactLimit = 0 ∨ m.inactCount + 1 < m.inactLimit

theorem Meter.countSilence_eq_inactCount (m : Meter) : m.countSilence.1 = { m with
    inactCount := if m.inactLimit = 0 then m.inactCount else m.inactCount + 1 } := by
  unfold Meter.countSilence
  split
  exacts [rfl, rfl]

theorem Meter.GoesOn.countGrace {grace : Bool} {m : Meter} (h : m.GoesOn grace) : m.countGrace grace
    = ({ m with grace := if grace then m.grace.map (· - 1) else m.grace }, false) := by
  cases grace with
  | false => rfl
  | true =>
    unfold Meter.countGrace
    cases hg : m.grace with
    | none =>
      have hm : { m with grace := none } = m := by rw [← hg]
      exact congrArg (·, false) hm.symm
    | some n => exact congrArg (Prod.mk _) (decide_eq_false (Nat.not_le.2 (h.grace rfl n hg)))

section
variable {s : State} {was is : List LineId} {i : LineId}

theorem Store.setCheckpoint_self (st : Store) (i : LineId) : st.setCheckpoint i (st.checkpoint i) = st := by
  simp [Store.setCheckpoint, Store.checkpoint, Vector.get_eq_getElem]

theorem State.refresh_eq (s : State) (i : LineId) (m : Meter) :
    (if m.seconds % 60 = 0 then s.refresh i m else s)
      = { s with store := s.store.setCheckpoint i (m.refreshed s.clock (s.store.checkpoint i)) } := by
  unfold Meter.refreshed
  by_cases h : m.seconds % 60 = 0
  · rw [if_pos h, if_neg (not_not.2 h), State.refresh]
    cases hc : s.store.checkpoint i with
    | none => dsimp only; rw [Option.map_none, ← hc, Store.setCheckpoint_self]
    | some c => rfl
  · rw [if_neg h, if_pos h, Store.setCheckpoint_self]

/-- What follows the charge of one session that goes on (R115 to R118). -/
theorem State.afterCharge_goesOn {ses : Session} (hs : (s.line i).session = some ses)
    (h : ses.meter.GoesOn (was.contains i)) : s.afterCharge was i
      = { s.updLine i (Line.updMeter (Meter.wentOn (was.contains i))) with
          store := s.store.setCheckpoint i (ses.meter.refreshed s.clock (s.store.checkpoint i)) } := by
  have hmeter := Line.updMeter_const hs (f := Meter.wentOn (was.contains i))
  have hsilence : (ses.meter.countGrace (was.contains i)).1.countSilence
      = (ses.meter.wentOn (was.contains i), false) := by
    rw [h.countGrace]
    exact Prod.ext (Meter.countSilence_eq_inactCount _) (Meter.countSilence_uncut h.silence)
  rw [State.afterCharge, hs]
  dsimp only
  rw [hsilence, State.refresh_eq, h.countGrace]
  dsimp only
  rw [if_neg Bool.false_ne_true, if_neg Bool.false_ne_true, State.updLine, State.updLine, ← hmeter]
  rfl

/-- `t` is `s` after what follows the charges of the sessions of `is`, which all go on (R115 to R118). -/
structure State.WentOn (s t : State) (was is : List LineId) : Prop where
  frame : { t with lines := s.lines, store := s.store } = s
  store : { t.store with checkpoints := s.store.checkpoints } = s.store
  line : ∀ j, t.line j = if j ∈ is then (s.line j).updMeter (Meter.wentOn (was.contains j)) else s.line j
  entry : ∀ j ∈ is, ∀ ses, (s.line j).session = some ses →
    t.store.checkpoints.get j = ses.meter.refreshed s.clock (s.store.checkpoints.get j)
  entryApart : ∀ j ∉ is, t.store.checkpoints.get j = s.store.checkpoints.get j

theorem State.wentOn_foldl (hnd : is.Nodup)
    (h : ∀ i ∈ is, ∃ ses, (s.line i).session = some ses ∧ ses.meter.GoesOn (was.contains i)) :
    s.WentOn (is.foldl (State.afterCharge was) s) was is := by
  induction is generalizing s with
  | nil => exact ⟨rfl, rfl, fun _ => rfl, fun _ hj => (nomatch hj), fun _ _ => rfl⟩
  | cons i is ih =>
    obtain ⟨hi, hnd⟩ := List.nodup_cons.1 hnd
    obtain ⟨ses, hs, hgoes⟩ := h i (List.mem_cons_self ..)
    have hone := State.afterCharge_goesOn hs hgoes
    rw [List.foldl_cons]
    generalize s.afterCharge was i = u at hone
    have hline (j : LineId) : u.line j = if j = i
        then (s.line i).updMeter (Meter.wentOn (was.contains i)) else s.line j := by
      rw [hone]; exact State.line_updLine ..
    have hentry (j : LineId) : u.store.checkpoints.get j = if j = i
        then ses.meter.refreshed s.clock (s.store.checkpoints.get i) else s.store.checkpoints.get j := by
      rw [hone]; exact Store.setCheckpoint_get ..
    have hclock : u.clock = s.clock := by rw [hone]; rfl
    have hother {j : LineId} (hj : j ∈ is) : j ≠ i := fun e => hi (e ▸ hj)
    have hrest := ih (s := u) hnd fun j hj => by
      rw [hline, if_neg (hother hj)]
      exact h j (List.mem_cons_of_mem _ hj)
    refine ⟨?_, ?_, fun j => ?_, fun j hj after hafter => ?_, fun j hj => ?_⟩
    · refine (congrArg (fun x : State => { x with lines := s.lines, store := s.store }) hrest.frame).trans ?_
      rw [hone]; rfl
    · refine (congrArg (fun x : Store => { x with checkpoints := s.store.checkpoints }) hrest.store).trans ?_
      rw [hone]; rfl
    · rw [hrest.line, hline]
      by_cases hji : j = i
      · rw [hji, if_neg hi, if_pos rfl, if_pos (List.mem_cons_self ..)]
      · simp [hji]
    · by_cases hji : j = i
      · subst hji
        rw [hrest.entryApart j hi, hentry, if_pos rfl, Option.some.inj (hs.symm.trans hafter)]
      · have hj := (List.mem_cons.1 hj).resolve_left hji
        rw [hrest.entry j hj after (by rw [hline, if_neg hji]; exact hafter), hclock, hentry, if_neg hji]
    · obtain ⟨hji, hj⟩ := not_or.1 (mt List.mem_cons.2 hj)
      rw [hrest.entryApart j hj, hentry, if_neg hji]

end

/-! ### The tick -/

section
variable {s : State}

theorem State.mem_tickGrace_iff {j : LineId} : j ∈ s.tickGrace ↔ j ∈ s.tickLines ∧ (s.line j).state = .grace := by
  rw [State.tickGrace, List.mem_filter, State.line_tickStart, decide_eq_true_iff]; rfl

theorem State.mem_tickNames_iff {n : Name} : n ∈ s.tickNames ↔ s.sessionsOf n ≠ [] := by
  refine ⟨fun h => ?_, s.mem_tickNames⟩
  obtain ⟨j, hj, ha⟩ := List.mem_filterMap.1 (List.mem_dedup.1 h)
  exact List.ne_nil_of_mem ((s.tickLines_filter n).mem_iff.1 (List.mem_filter.2 ⟨hj, decide_eq_true ha⟩))

/-- The debits of a tick of which none makes a transition (R114). -/
theorem State.paidQuietly_tick (h : s.PaysQuietly s.tickNames s.tickDebit) :
    s.charged.PaidQuietly (s.tickNames.foldl (State.debitAccount s.tickStart s.tickLines) s.charged) s.tickNames
      s.tickDebit := by
  have hfold : s.tickNames.foldl (State.debitAccount s.tickStart s.tickLines) s.charged
      = s.tickNames.foldl (fun x n => State.applyEffects (x.debit n (s.tickDebit n : Nat))) s.charged :=
    congrArg (fun g => s.tickNames.foldl g s.charged) (funext fun x => funext fun n => s.debitAccount_tick x n)
  rw [hfold]
  refine State.paidQuietly_foldl (List.nodup_dedup _) fun n hn a ha => ?_
  rw [s.account?_charged] at ha
  exact (State.stateOfBudget_congr s.tariff_charged ..).trans (h n hn a ha)

theorem State.charged_store : s.charged.store = s.store := by
  obtain ⟨lines, orders, h⟩ := s.charged_frame
  rw [h]

/-- But for the lines, a tick's charges come with the clock's advance and the drawing of a free order (R96; log 13). -/
theorem State.charged_eq : { s.charged with lines := s.lines }
    = { s with clock := s.clock.advance, orders := s.orders.tail } := by
  unfold State.charged State.chargeAll
  rw [State.updLines_eq]
  rfl

theorem State.mem_tickLines (hr : s.AllLines Line.SessionRight) {i : LineId} :
    i ∈ s.tickLines ↔ (s.line i).session.isSome = true := by
  rw [s.tickLines_perm.mem_iff, State.mem_meteredLines, hr i]

/-- A tick that ends no session and makes no transition is its charges, its debits and what follows the charges, each
line and each account by itself (R111 to R118). -/
theorem State.tick_wentOn (hr : s.AllLines Line.SessionRight) (hpays : s.PaysQuietly s.tickNames s.tickDebit)
    (hgoes : ∀ i ses, (s.line i).session = some ses → (s.line i).GoesOn ses) :
    ∃ z, s.charged.PaidQuietly z s.tickNames s.tickDebit ∧ z.WentOn s.tick s.tickGrace s.tickLines := by
  refine ⟨_, State.paidQuietly_tick hpays, ?_⟩
  have hlines := (State.paidQuietly_tick hpays).lines
  rw [State.tick_eq]
  refine State.wentOn_foldl s.nodup_tickLines fun i hi => ?_
  obtain ⟨ses, hs⟩ := Option.isSome_iff_exists.1 ((State.mem_tickLines hr).1 hi)
  obtain ⟨hgrace, hsilence⟩ := hgoes i ses hs
  rw [State.line_congr hlines, State.line_charged_session ((hr i).metered hs) hs]
  refine ⟨_, rfl, fun hwas => ?_, hsilence⟩
  exact hgrace (State.mem_tickGrace_iff.1 (List.contains_iff_mem.1 hwas)).2

end

/-- Settles O57: every session is charged, every account with sessions debited once, and what follows the charges writes
each session's own line and checkpoint entry alone (R96, R97, R111 to R118). -/
theorem meteringTickChargesEverySession : Obligations.MeteringTickChargesEverySession := by
  intro s clock step charged carry hmode hr hstep hclock hcharged hcarry hquiet hgoes
  obtain rfl : clock = s.clock.advance := hclock.trans (s.clock.advance_eq hstep).symm
  subst hcharged hcarry
  obtain ⟨z, hpaid, hwent⟩ := State.tick_wentOn hr
    (fun n hn a ha => hquiet n a ha (State.mem_tickNames_iff.1 hn)) fun i ses hs => hgoes i ses hs
  have hstore : z.store = s.store := hpaid.store.trans State.charged_store
  have hzline (i : LineId) : z.line i = s.charged.line i := State.line_congr hpaid.lines i
  refine ⟨s.tick, State.whenRunning_running hmode State.tick, ?_, ?_, fun n => ?_,
    fun i => ⟨fun hs => ?_, fun ses hs => ?_⟩⟩
  · have outside {x y : State} (h : x = y) : { x with lines := s.lines, accounts := s.accounts, store := s.store }
        = { y with lines := s.lines, accounts := s.accounts, store := s.store } := by rw [h]
    calc _ = { z with lines := s.lines, accounts := s.accounts, store := s.store } := outside hwent.frame
      _ = { s.charged with lines := s.lines, accounts := s.accounts, store := s.store } := outside hpaid.frame
      _ = _ := outside s.charged_eq
  · rw [← hstore]; exact hwent.store
  · have haccounts : s.tick.accounts = z.accounts := (congrArg State.accounts hwent.frame :)
    rw [State.account?_congr haccounts, hpaid.account, s.account?_charged]
    by_cases hn : s.sessionsOf n = []
    · simp [State.mem_tickNames_iff, hn]
    · rw [if_pos (State.mem_tickNames_iff.2 hn)]
      simp only [if_neg hn]
      rfl
  · have hi : i ∉ s.tickLines := fun hi => by
      have := (State.mem_tickLines hr).1 hi
      rw [hs] at this; cases this
    exact ⟨(hwent.line i).trans ((if_neg hi).trans ((hzline i).trans ((s.line_charged i).trans (if_neg hi)))),
      (hwent.entryApart i hi).trans (by rw [hstore])⟩
  · have hi : i ∈ s.tickLines := (State.mem_tickLines hr).2 (by rw [hs]; rfl)
    have hline : z.line i = s.chargedLine i ses := (hzline i).trans (State.line_charged_session ((hr i).metered hs) hs)
    have hclock : z.clock = s.clock.advance := hpaid.clock.trans s.clock_charged
    have hgrace : s.tickGrace.contains i = decide ((s.line i).state = .grace) := Bool.eq_iff_iff.2
      (List.contains_iff_mem.trans (State.mem_tickGrace_iff.trans ((and_iff_right hi).trans decide_eq_true_iff.symm)))
    refine ⟨?_, ?_⟩
    · rw [hwent.line, if_pos hi, hline, hgrace]
      simp only [Line.updMeter, Meter.wentOn, decide_eq_true_eq]
      rfl
    · rw [hwent.entry i hi _ (by rw [hline]; rfl), hclock, hstore]
      rfl

end Sys2Proof.Machine
end


section
/-! The laws of the charge store: what appends, checkpoint entries, releases and start-ups make of them (O5). -/

namespace Sys2Proof.Machine

/-! ### The number of valid entries -/

/-- The valid entries after one is written, whether or not it was valid before (R148). -/
theorem Store.validCount_setCheckpoint (st : Store) (i : LineId) (c : Option Charge) :
    (st.setCheckpoint i c).validCount + (st.checkpoint i).isSome.toNat = st.validCount + c.isSome.toNat := by
  have hcount (u : Store) : u.validCount
      = ((allLines.erase i).countP fun j => (u.checkpoint j).isSome) + (u.checkpoint i).isSome.toNat := by
    rw [Store.validCount, ← List.countP_eq_length_filter,
      (List.perm_cons_erase (mem_allLines i)).countP_eq, List.countP_cons]
    cases (u.checkpoint i).isSome <;> rfl
  have hentry (j : LineId) : (st.setCheckpoint i c).checkpoint j = if j = i then c else st.checkpoint j :=
    Store.setCheckpoint_get ..
  have hothers : ((allLines.erase i).countP fun j => ((st.setCheckpoint i c).checkpoint j).isSome)
      = (allLines.erase i).countP fun j => (st.checkpoint j).isSome :=
    List.countP_congr fun j hj => by rw [hentry, if_neg (nodup_allLines.mem_erase_iff.1 hj).1]
  rw [hcount, hcount st, hothers, hentry, if_pos rfl]
  omega

theorem Store.append_validCount (st : Store) (i : LineId) (c : Charge) (r : EndReason) (b : Bool) :
    (st.append i c r b).validCount = (st.setCheckpoint i none).validCount := rfl

/-! ### The laws -/

/-- The laws of the store by itself: the header good and true to the list, the serials in sequence, the room law (R143,
R144, R148). -/
structure Store.Lawful (st : Store) : Prop where
  good : st.headerGood = true
  counted : st.records.length = st.count
  serials : ∀ (k : Nat) (r : Record), st.records[k]? = some r →
    r.serial = st.nextSerial - BitVec.ofNat 32 st.count + BitVec.ofNat 32 k
  room : st.sum ≤ Config.storeSize

theorem State.StoreRight.lawful {s : State} (h : s.StoreRight) : s.store.Lawful :=
  ⟨h.good, h.counted, h.serials, h.room⟩

theorem Store.headerGood_iff (st : Store) : st.headerGood = true ↔
    st.integrity = integrityOf st.count st.oldest st.nextSerial ∧ st.count ≤ Config.storeSize
      ∧ st.oldest < Config.storeSize := by
  simp [Store.headerGood, and_assoc]

section
variable {st : Store} {i : LineId}

theorem Store.Lawful.count_le (h : st.Lawful) : st.count ≤ Config.storeSize := ((Store.headerGood_iff _).1 h.good).2.1

theorem Store.Lawful.oldest_lt (h : st.Lawful) : st.oldest < Config.storeSize := ((Store.headerGood_iff _).1 h.good).2.2

/-- An entry written keeps the laws where the room law leaves room for it: it was valid before, or is not valid now, or
there is a place (R148). -/
theorem Store.Lawful.setCheckpoint (h : st.Lawful) {c : Option Charge}
    (hroom : (st.checkpoint i).isSome = true ∨ c = none ∨ st.sum < Config.storeSize) :
    (st.setCheckpoint i c).Lawful := by
  refine ⟨h.good, h.counted, h.serials, ?_⟩
  have hvalid := st.validCount_setCheckpoint i c
  have hsum : st.count + st.validCount ≤ Config.storeSize := h.room
  show st.count + (st.setCheckpoint i c).validCount ≤ _
  have hc := Bool.toNat_le c.isSome
  rcases hroom with hi | rfl | hlt
  · rw [hi, Bool.toNat_true] at hvalid; omega
  · rw [Option.isSome_none, Bool.toNat_false] at hvalid; omega
  · have hlt : st.count + st.validCount < Config.storeSize := hlt
    omega

/-- The record appended for a valid entry takes the place of that entry (R145, R146, R148). -/
theorem Store.Lawful.append (h : st.Lawful) (hi : (st.checkpoint i).isSome = true) (c : Charge) (r : EndReason)
    (b : Bool) : (st.append i c r b).Lawful := by
  have hvalid := st.validCount_setCheckpoint i none
  rw [hi, Bool.toNat_true, Option.isSome_none, Bool.toNat_false, ← st.append_validCount i c r b] at hvalid
  have hsum : st.count + st.validCount ≤ Config.storeSize := h.room
  refine ⟨(Store.headerGood_iff _).2 ⟨rfl, ?_, h.oldest_lt⟩, ?_, fun k rec hk => ?_, ?_⟩
  · rw [Store.append_count]; omega
  · rw [Store.append_records, Store.append_count, List.length_append, h.counted]; rfl
  · rw [Store.append_records] at hk
    rw [Store.append_nextSerial, Store.append_count]
    rcases Nat.lt_or_ge k st.records.length with hlt | hge
    · rw [List.getElem?_append_left hlt] at hk
      rw [h.serials k rec hk]; bv_omega
    · rw [List.getElem?_append_right hge, List.getElem?_singleton] at hk
      split at hk <;> cases hk
      have hlen := h.counted
      obtain rfl : k = st.count := by omega
      bv_omega
  · rw [Store.sum, Store.append_count]; omega

/-- A release keeps the laws: the records that stay move up (R152). -/
theorem Store.Lawful.release (h : st.Lawful) {n : Nat} (hn : n ≤ st.count) : (st.release n).Lawful := by
  unfold Store.release
  split
  · exact h
  have hcount := h.count_le
  have hsum : st.count + st.validCount ≤ Config.storeSize := h.room
  refine ⟨(Store.headerGood_iff _).2 ⟨rfl, ?_, Nat.mod_lt _ (by decide)⟩, ?_, fun k rec hk => ?_, ?_⟩
  · show st.count - n ≤ _; omega
  · show (st.records.drop n).length = st.count - n
    rw [List.length_drop, h.counted]
  · have hk : (st.records.drop n)[k]? = some rec := hk
    rw [List.getElem?_drop] at hk
    show rec.serial = st.nextSerial - BitVec.ofNat 32 (st.count - n) + BitVec.ofNat 32 k
    rw [h.serials _ rec hk]
    obtain ⟨m, hm⟩ := Nat.exists_eq_add_of_le hn
    rw [hm, Nat.add_sub_cancel_left]; bv_omega
  · show st.count - n + st.validCount ≤ _; omega

theorem Store.emptied_lawful : Store.emptied.Lawful := State.reset_storeRight.lawful

end

/-! ### Start-ups -/

section
variable {st : Store}

/-- The conversion of one entry keeps the laws (R156). -/
theorem Store.Lawful.convert {p : Store × Nat} (h : p.1.Lawful) (i : LineId) : (Store.convert p i).1.Lawful := by
  unfold Store.convert
  split
  · exact h
  next c hc =>
    split
    · exact h.append (by rw [hc]; rfl) ..
    · exact h.setCheckpoint (.inr (.inl rfl))

/-- The conversion clears its own entry alone (R156). -/
theorem Store.convert_checkpoint (p : Store × Nat) (i j : LineId) :
    (Store.convert p i).1.checkpoint j = if j = i then none else p.1.checkpoint j := by
  unfold Store.convert
  split
  next hc =>
    split
    next e => rw [e, hc]
    next => rfl
  · split
    exacts [Store.append_checkpoints .., Store.setCheckpoint_get ..]

theorem Store.Lawful.foldl_convert {p : Store × Nat} (h : p.1.Lawful) (is : List LineId) :
    (is.foldl Store.convert p).1.Lawful ∧ ∀ j, (is.foldl Store.convert p).1.checkpoint j
      = if j ∈ is then none else p.1.checkpoint j := by
  induction is generalizing p with
  | nil => exact ⟨h, fun _ => rfl⟩
  | cons i is ih =>
    obtain ⟨hlaw, hentry⟩ := ih (h.convert i)
    refine ⟨hlaw, fun j => (hentry j).trans ?_⟩
    rw [Store.convert_checkpoint]
    by_cases hj : j = i <;> simp [hj]

/-- A start-up finds the store lawful or its header bad, and leaves it lawful and without a valid entry (R155 to
R157). -/
theorem Store.startUp_lawful (h : st.headerGood = true → st.Lawful) :
    st.startUp.1.Lawful ∧ ∀ j, st.startUp.1.checkpoint j = none := by
  unfold Store.startUp
  split
  next hgood =>
    obtain ⟨hlaw, hentry⟩ := (h hgood).foldl_convert (p := (st, 0)) allLines
    dsimp only
    exact ⟨hlaw, fun j => (hentry j).trans (if_pos (mem_allLines j))⟩
  next => exact ⟨Store.emptied_lawful, fun j => Store.emptied_checkpoint j⟩

theorem Store.bad_headerGood : Store.bad.headerGood = false := by decide

end

end Sys2Proof.Machine
end


section
/-! States whose sessions and charge store are right, and the operations that keep them so: what ends and opens sessions,
and what changes neither seats nor store (O5). -/

namespace Sys2Proof.Machine

/-! ### Sound states -/

/-- What every step keeps of sessions and charge store (R109, R143, R144, R148, R150). -/
structure State.Kept (s : State) : Prop where
  sessions : s.AllLines Line.SessionRight
  store : s.StoreRight

/-- The same of a running controller, whose checkpoint entries follow its sessions (R148). -/
structure State.Sound (s : State) : Prop extends s.Kept where
  running : s.mode = .running

section
variable {s t : State}

/-- A session's line and its checkpoint entry, seen from the seats (R109, R148). -/
theorem State.Sound.of_seats (hmode : t.mode = .running) (hlaw : t.store.Lawful) (hmark : t.readMark ≤ t.store.count)
    (hsession : ∀ j, (t.line j).seat.2.isSome = (t.line j).seat.1)
    (hentry : ∀ j, (t.store.checkpoint j).isSome = (t.line j).seat.1) : t.Sound where
  sessions j := (Line.sessionRight_iff _).2 (hsession j)
  store := ⟨hlaw.good, hlaw.counted, hlaw.serials, hlaw.room, hmark, fun _ => hentry⟩
  running := hmode

theorem State.Sound.session_seat (h : s.Sound) (j : LineId) : (s.line j).seat.2.isSome = (s.line j).seat.1 :=
  (Line.sessionRight_iff _).1 (h.sessions j)

theorem State.Sound.entry_seat (h : s.Sound) (j : LineId) : (s.store.checkpoint j).isSome = (s.line j).seat.1 :=
  h.store.entries h.running j

/-- Whatever writes neither seats nor store, nor the mode. -/
theorem State.Sound.of_same (h : s.Sound) (hmode : t.mode = s.mode) (hstore : t.store = s.store)
    (hmark : t.readMark = s.readMark) (hseats : ∀ j, (t.line j).seat = (s.line j).seat) : t.Sound :=
  .of_seats (hmode.trans h.running) (hstore ▸ h.store.lawful) (by rw [hmark, hstore]; exact h.store.mark)
    (fun j => by rw [hseats]; exact h.session_seat j) fun j => by rw [hstore, hseats]; exact h.entry_seat j

theorem State.Sound.of_eq (h : s.Sound) (hmode : t.mode = s.mode) (hstore : t.store = s.store)
    (hmark : t.readMark = s.readMark) (hlines : t.lines = s.lines) : t.Sound :=
  h.of_same hmode hstore hmark fun j => congrArg _ (State.line_congr hlines j)

theorem State.Sound.setLine (h : s.Sound) (i : LineId) {l : Line} (hl : l.seat = (s.line i).seat) :
    (s.setLine i l).Sound := h.of_same rfl rfl rfl fun j => by
  rw [State.line_setLine]
  split
  next e => rw [e, hl]
  next => rfl

theorem State.Sound.updLine (h : s.Sound) (i : LineId) {f : Line → Line}
    (hf : (f (s.line i)).seat = (s.line i).seat) : (s.updLine i f).Sound := h.setLine i hf

theorem State.Sound.updLines (h : s.Sound) {is : List LineId} (hn : is.Nodup) {f : LineId → Line → Line}
    (hf : ∀ i ∈ is, (f i (s.line i)).seat = (s.line i).seat) : (s.updLines is f).Sound := by
  refine h.of_same ?_ ?_ ?_ fun j => ?_
  iterate 3 rw [State.updLines_eq]
  rw [State.line_updLines s hn]
  split
  next hj => exact hf j hj
  next => rfl

theorem State.Sound.foldl {α : Type} {g : State → α → State} (h : s.Sound)
    (hg : ∀ (s : State) (a : α), s.Sound → (g s a).Sound) (as : List α) : (as.foldl g s).Sound := by
  induction as generalizing s with
  | nil => exact h
  | cons a as ih => exact ih (hg s a h)

theorem State.Sound.takeOrder {α : Type} [DecidableEq α] (h : s.Sound) (key : α → Nat) (xs : List α) :
    (s.takeOrder key xs).2.Sound := h.of_eq rfl rfl rfl rfl

theorem State.Sound.scan (h : s.Sound) : s.scan.Sound :=
  h.of_same rfl rfl rfl fun j => by rw [State.line_scan]; rfl

/-! ### Ends of sessions -/

theorem State.Sound.debit (h : s.Sound) (n : Name) (z : Int) : (s.debit n z).1.Sound := by
  obtain ⟨accounts, link, hframe⟩ := s.debit_frame n z
  rw [hframe]
  exact h.of_eq rfl rfl rfl rfl

theorem State.testChargeLevel_mode (s : State) : s.testChargeLevel.mode = s.mode := by
  unfold State.testChargeLevel; split <;> rfl
theorem State.testChargeLevel_readMark (s : State) : s.testChargeLevel.readMark = s.readMark := by
  unfold State.testChargeLevel; split <;> rfl

theorem State.closing_mode (s : State) (i : LineId) (ses : Session) (r : EndReason) :
    (s.closing i ses r).mode = s.mode ∧ (s.closing i ses r).readMark = s.readMark := by
  obtain ⟨accounts, link, hdebit⟩ := s.debit_frame ses.meter.account (s.roundingUnit ses.meter.residue)
  unfold State.closing
  dsimp only
  rw [hdebit]
  generalize hu : State.testChargeLevel _ = u
  obtain ⟨accounts', hback⟩ := u.giveBack_frame ses.meter.account
  rw [hback, ← hu]
  exact ⟨State.testChargeLevel_mode _, State.testChargeLevel_readMark _⟩

/-- The end of a session empties its seat and turns its checkpoint entry into a record (R131, R145, R146). -/
theorem State.Sound.endSession (h : s.Sound) (i : LineId) (r : EndReason) (keep : Bool) :
    (s.endSession i r keep).1.Sound := by
  cases hs : (s.line i).session with
  | none => rw [State.endSession_none hs]; exact h
  | some ses =>
    have hseat := State.endSession_seat hs r keep
    obtain ⟨l, hl⟩ := s.endSession_eq_closing r keep hs
    obtain ⟨hmode, hmark⟩ := s.closing_mode i ses r
    obtain ⟨-, -, -, charge, hstore⟩ := s.closing_frame i ses r
    have hvalid : (s.store.checkpoint i).isSome = true :=
      (h.entry_seat i).trans ((h.sessions i).metered hs)
    have hmode : (s.endSession i r keep).1.mode = s.mode := by rw [hl]; exact hmode
    have hmark : (s.endSession i r keep).1.readMark = s.readMark := by rw [hl]; exact hmark
    have hstore : (s.endSession i r keep).1.store = s.store.append i charge r false := by rw [hl]; exact hstore
    refine .of_seats (hmode.trans h.running) (hstore ▸ h.store.lawful.append hvalid charge r false) ?_ (fun j => ?_)
      fun j => ?_
    · rw [hmark, hstore]; exact Nat.le_succ_of_le h.store.mark
    · rw [hseat]
      split
      exacts [rfl, h.session_seat j]
    · rw [hseat, hstore, Store.checkpoint, Store.append_checkpoints]
      split
      exacts [rfl, h.entry_seat j]

theorem State.Sound.endEach (h : s.Sound) (r : EndReason) (is : List LineId) : (s.endEach r is).Sound :=
  h.foldl (fun _ i h => h.endSession i r false) is

theorem State.Sound.massEnd (h : s.Sound) (r : EndReason) : (s.massEnd r).Sound :=
  (h.takeOrder _ _).endEach r _

/-! ### Transitions -/

theorem State.Sound.noticeSessions (h : s.Sound) (n : Name) (k : Fin 16) : (s.noticeSessions n k).Sound :=
  h.updLines (s.nodup_sessionsOf n) fun _ _ => Line.place_seat ..

theorem State.Sound.beginGrace (h : s.Sound) (n : Name) : (s.beginGrace n).Sound := by
  unfold State.beginGrace
  split
  · exact (h.takeOrder _ _).endEach .budget _
  · exact h.updLines (s.nodup_sessionsOf n) fun _ hi => Line.enterGrace_seat ((State.mem_sessionsOf ..).1 hi).1 _

theorem State.Sound.endGrace (h : s.Sound) (n : Name) : (s.endGrace n).Sound :=
  h.updLines (s.nodup_sessionsOf n) fun _ hi => Line.leaveGrace_seat ((State.mem_sessionsOf ..).1 hi).1

theorem State.Sound.applyTransition (h : s.Sound) (tr : Transition) : (s.applyTransition tr).Sound := by
  unfold State.applyTransition
  split
  · exact h.noticeSessions _ _
  · exact (h.noticeSessions _ _).beginGrace _
  · exact (h.noticeSessions _ _).beginGrace _
  · exact (h.endGrace _).noticeSessions _ _
  · exact (h.endGrace _).noticeSessions _ _
  all_goals exact h

theorem State.Sound.applyEffects {p : State × Option Transition} (h : p.1.Sound) : (State.applyEffects p).Sound := by
  unfold State.applyEffects
  split
  exacts [h.applyTransition _, h]

theorem State.Sound.endOne (h : s.Sound) (i : LineId) (r : EndReason) (keep : Bool) : (s.endOne i r keep).Sound :=
  (h.endSession i r keep).applyEffects

theorem State.Sound.reevaluateAct (h : s.Sound) (n : Name) : (s.reevaluateAct n).Sound := by
  refine State.Sound.applyEffects ?_
  unfold State.reevaluate
  split
  · exact h
  · dsimp only
    split <;> exact h.of_eq rfl rfl rfl rfl

theorem State.Sound.reevaluateAll (h : s.Sound) : s.reevaluateAll.Sound :=
  (h.takeOrder _ _).foldl (fun _ n h => h.reevaluateAct n) _

/-! ### Sign-on -/

theorem State.clearFailures_frame (s : State) (n : Name) : ∃ accounts, s.clearFailures n = { s with accounts := accounts } := by
  unfold State.clearFailures
  split
  exacts [⟨_, rfl⟩, ⟨_, rfl⟩]

/-- An acceptance takes a place of the room law for the entry of the session that it opens (R72, R147, R148). -/
theorem State.Sound.accept (h : s.Sound) (hroom : s.store.sum < Config.storeSize) (i : LineId) (a : Account) :
    (s.accept i a).Sound := by
  let k := (s.line i).unit.speed.getD 0
  let d := ((s.placeTaken i a).debit a.name (s.setupCharge a.cls)).1
  let o := d.withSession i (d.newMeter i a k (s.setupCharge a.cls)) k
  have haccept : s.accept i a = State.effectsAhead i
    (o.clearFailures a.name, ((s.placeTaken i a).debit a.name (s.setupCharge a.cls)).2) := rfl
  obtain ⟨accounts, link, hd⟩ := (s.placeTaken i a).debit_frame a.name (s.setupCharge a.cls)
  obtain ⟨accounts', hclear⟩ := o.clearFailures_frame a.name
  have hdstore : d.store = s.store := (congrArg State.store hd :)
  have hseat (j : LineId) : (o.line j).seat = if j = i then (true, some a.name) else (s.line j).seat := by
    rw [State.line_withSession]
    split
    · exact Line.accept_seat ..
    next hj => rw [State.line_congr (State.debit_lines ..) j, State.line_placeTaken, if_neg hj]
  have hopened : o.Sound := by
    refine .of_seats (t := o) ((congrArg State.mode hd :).trans h.running) ?_ ?_ (fun j => ?_) fun j => ?_
    · show (d.store.setCheckpoint i _).Lawful
      rw [hdstore]
      exact h.store.lawful.setCheckpoint (.inr (.inr hroom))
    · show d.readMark ≤ d.store.count
      rw [hdstore, show d.readMark = s.readMark from (congrArg State.readMark hd :)]
      exact h.store.mark
    · rw [hseat]
      split
      exacts [rfl, h.session_seat j]
    · rw [hseat]
      refine (congrArg Option.isSome (Store.setCheckpoint_get d.store i j _)).trans ?_
      rw [hdstore]
      split
      exacts [rfl, h.entry_seat j]
  rw [haccept, State.effectsAhead]
  exact (State.Sound.applyEffects (hclear ▸ hopened.of_eq rfl rfl rfl rfl)).updLine i rfl

/-- The check accepts only where the room law has a place (R68). -/
theorem State.checkOutcome_room {i : LineId} {a : Account} (h : s.checkOutcome i = .accepted a) :
    s.store.sum < Config.storeSize := by
  by_contra hfull
  unfold State.checkOutcome at h
  dsimp only at h
  split at h
  · cases h
  · rw [if_pos (Nat.le_of_not_lt hfull)] at h
    (repeat' split at h) <;> cases h

theorem State.Sound.signOn (h : s.Sound) {i : LineId} (hm : (s.line i).state.metered = false) :
    (s.signOn i).Sound := by
  unfold State.signOn
  dsimp only
  set s1 := s.updLine i fun l => { l with dialog := { l.dialog with matched := s.matchedName i } } with e1
  have h1 : s1.Sound := h.updLine i rfl
  have hm1 : (s1.line i).state.metered = false := by rw [e1, State.line_updLine, if_pos rfl]; exact hm
  cases ho : s.checkOutcome i with
  | invalid =>
    unfold State.invalidAttempt
    dsimp only
    split
    next b _ =>
      exact State.Sound.updLine (s := s1.putAccount b.fail) (h1.of_eq rfl rfl rfl rfl) i
        (Line.invalidAttempt_seat hm1 _)
    next => exact h1.updLine i (Line.invalidAttempt_seat hm1 _)
  | refused a r k =>
    refine State.Sound.updLine (s := s1.putAccount _) (h1.of_eq rfl rfl rfl rfl) i ?_
    refine (Line.toRejecting_seat ?_).trans ?_
    · rw [Line.raiseEvent_state, Line.place_state]; exact hm1
    · rw [Line.raiseEvent_seat, Line.place_seat]
  | waits => exact h1.updLine i rfl
  | accepted a => exact h1.accept (State.checkOutcome_room (s := s) ho) i a

/-! ### Moves of lines without a session -/

theorem State.Sound.refuseLine (h : s.Sound) {i : LineId} (hm : (s.line i).state.metered = false) :
    (s.refuseLine i).Sound :=
  h.updLine i ((Line.toRejecting_seat (by rw [Line.place_state]; exact hm)).trans (Line.place_seat ..))

theorem State.Sound.admitLine (h : s.Sound) {i : LineId} (hm : (s.line i).state.metered = false) :
    (s.admitLine i).Sound := by
  unfold State.admitLine
  split
  exacts [h.updLine i (Line.toDialog_seat hm _), h.refuseLine hm]

theorem State.Sound.refuseLines (h : s.Sound) {is : List LineId} (hn : is.Nodup)
    (hm : ∀ i ∈ is, (s.line i).state.metered = false) : (is.foldl State.refuseLine s).Sound := by
  induction is generalizing s with
  | nil => exact h
  | cons i is ih =>
    obtain ⟨hi, hn⟩ := List.nodup_cons.1 hn
    refine ih (h.refuseLine (hm i (List.mem_cons_self ..))) hn fun j hj => ?_
    rw [State.refuseLine, State.line_updLine, if_neg (fun e : j = i => hi (e ▸ hj))]
    exact hm j (List.mem_cons_of_mem _ hj)

theorem State.Sound.refuseDialogs (h : s.Sound) : s.refuseDialogs.Sound :=
  h.refuseLines (nodup_allLines.filter _) fun _ hi => LineState.metered_of_dialog ((State.mem_dialogLines ..).1 hi)

theorem State.Sound.hangupAnswered (h : s.Sound) : s.hangupAnswered.Sound := by
  refine h.updLines nodup_allLines fun i _ => ?_
  split
  next hl => exact Line.hangup_seat (by simpa using hl.2)
  next => rfl

theorem State.Sound.evaluateCharacter (h : s.Sound) {i : LineId} (hm : (s.line i).state.metered = false) :
    (s.evaluateCharacter i).Sound := by
  unfold State.evaluateCharacter
  dsimp only
  split
  · exact h.setLine i ((Line.detectFail_seat (by exact hm) _).trans rfl)
  · split
    · refine State.Sound.admitLine (h.setLine i ?_) ?_
      · rfl
      · rw [State.line_setLine, if_pos rfl]; exact hm
    · exact h.setLine i ((Line.detectFail_seat (by exact hm) _).trans rfl)

theorem State.Sound.atLimit (h : s.Sound) {i : LineId} (hm : (s.line i).state.metered = false) (len : Nat) {go : State}
    (hg : go.Sound) : (s.atLimit i len go).Sound := by
  unfold State.atLimit
  split <;> split
  exacts [h.evaluateCharacter hm, hg, h.updLine i (Line.detectFail_seat hm _), hg]

theorem State.Sound.runEnds (h : s.Sound) {i : LineId} (hm : (s.line i).state.metered = false) (len : Nat) :
    (s.runEnds i len).Sound := by
  unfold State.runEnds
  refine h.atLimit hm len ?_
  dsimp only
  split
  · split
    exacts [h.updLine i (Line.detectFail_seat hm _), h.updLine i rfl]
  · split
    · exact h.updLine i rfl
    · have hjoined {f : Line → Line} (hf : (f (s.line i)).seat = (s.line i).seat) : (s.updLine i f).Sound :=
        h.updLine i hf
      refine State.Sound.atLimit (hjoined ?_) ?_ _ (hjoined ?_)
      · rfl
      · rw [State.line_updLine, if_pos rfl]; exact hm
      · rfl

end

/-! ### The metering tick -/

section
variable {s : State} {i : LineId}

/-- A refresh rewrites an entry that is valid (R116, R149). -/
theorem State.Sound.refresh (h : s.Sound) (m : Meter) : (s.refresh i m).Sound := by
  unfold State.refresh
  split
  · exact h
  next c hc =>
    have hvalid : (s.store.checkpoint i).isSome = true := by rw [hc]; rfl
    refine .of_seats h.running (h.store.lawful.setCheckpoint (.inl hvalid)) h.store.mark h.session_seat fun j => ?_
    refine (congrArg Option.isSome (Store.setCheckpoint_get ..)).trans ?_
    split
    next e => subst e; exact hvalid.symm.trans (h.entry_seat j)
    next => exact h.entry_seat j

theorem State.Sound.setMeter (h : s.Sound) {ses : Session} (hs : (s.line i).session = some ses) {m : Meter}
    (hm : m.account = ses.meter.account) : (s.updLine i (Line.updMeter fun _ => m)).Sound :=
  h.updLine i (Line.seat_eq rfl (by simp [Line.account?, Line.updMeter, hs, hm]))

theorem State.Sound.afterCharge (h : s.Sound) (was : List LineId) (i : LineId) : (s.afterCharge was i).Sound := by
  unfold State.afterCharge
  split
  · exact h
  next ses hs =>
    dsimp only
    have hrefresh : (if ses.meter.seconds % 60 = 0 then s.refresh i ses.meter else s).Sound := by
      split
      exacts [h.refresh _, h]
    have hline : ((if ses.meter.seconds % 60 = 0 then s.refresh i ses.meter else s).line i).session = some ses := by
      rw [State.refresh_eq]; exact hs
    generalize (if ses.meter.seconds % 60 = 0 then s.refresh i ses.meter else s) = s1 at hrefresh hline
    have hgrace := Meter.countGrace_account (was.contains i) ses.meter
    split
    · exact (hrefresh.setMeter hline hgrace).endOne _ _ _
    · have hset := hrefresh.setMeter hline ((Meter.countSilence_account _).trans hgrace)
      split
      exacts [hset.endOne _ _ _, hset]

theorem State.Sound.charged (h : s.Sound) : s.charged.Sound := by
  refine h.of_same ?_ s.charged_store ?_ s.charged_seat
  all_goals
    obtain ⟨lines, orders, hframe⟩ := s.charged_frame
    rw [hframe]

theorem State.Sound.tick (h : s.Sound) : s.tick.Sound := by
  rw [State.tick_eq]
  exact (h.charged.foldl (fun _ _ h => (h.debit _ _).applyEffects) _).foldl (fun _ i h => h.afterCharge _ i) _

/-! ### Start-ups and the loss of power -/

theorem Line.atStart_seat (ri cd : Bool) : (Line.atStart ri cd).seat = (false, none) := rfl

theorem State.line_volatileStart (s : State) (pins : Pins) (r : Option Ready) (j : LineId) :
    ((s.volatileStart pins r).line j).seat = (false, none) := by
  show ((linesAtStart pins).get j).seat = _
  simp [linesAtStart, Vector.get_eq_getElem, Line.atStart_seat]

/-- A start-up from a store that is lawful or has a bad header (R155, R170). -/
theorem State.startUp_sound (h : s.store.headerGood = true → s.store.Lawful) (k : StartKind) (pins : Pins) :
    (s.startUp k pins).Sound := by
  obtain ⟨hlaw, hentry⟩ := Store.startUp_lawful h
  have hstarted : s.startUp k pins = { s.volatileStart pins (some ⟨k, s.store.startUp.2.1, s.store.startUp.1.count,
    s.store.startUp.2.2⟩) with store := s.store.startUp.1 } := rfl
  rw [hstarted]
  generalize s.store.startUp = p at hlaw hentry
  have hseat (j : LineId) := s.line_volatileStart pins (some ⟨k, p.2.1, p.1.count, p.2.2⟩) j
  refine .of_seats rfl hlaw (Nat.zero_le _) (fun j => ?_) fun j => ?_
  · exact (congrArg (fun seat : Bool × Option Name => seat.2.isSome) (hseat j)).trans (congrArg Prod.fst (hseat j)).symm
  · exact (congrArg Option.isSome (hentry j)).trans (congrArg Prod.fst (hseat j)).symm

theorem State.Sound.enterPowerdown (h : s.Sound) (n : Nat) : (s.enterPowerdown n).Sound := h.of_eq rfl rfl rfl rfl

theorem State.Sound.powerFail (h : s.Sound) : s.powerFail.Sound := by
  have hdown (n : Nat) : ((s.massEnd .power).hangupAnswered.enterPowerdown n).Sound :=
    (h.massEnd .power).hangupAnswered.enterPowerdown n
  unfold State.powerFail
  split
  · exact h.of_eq rfl rfl rfl rfl
  all_goals exact hdown _

theorem State.startUpSeeing_sound (h : s.store.headerGood = true → s.store.Lawful) (k : StartKind) (pins : Pins)
    (pfw : Bool) : (s.startUpSeeing k pins pfw).Sound := by
  unfold State.startUpSeeing
  split
  exacts [(State.startUp_sound h k pins).powerFail, State.startUp_sound h k pins]

/-- A controller that stands still keeps its store, and its lines are those of a start-up (R145, R168; log 11). -/
theorem State.Kept.stopped (h : s.Kept) {mode : RunMode} (hmode : mode ≠ .running) :
    State.Kept { s.volatileStart ⟨0, 0, 0⟩ none with mode := mode } where
  sessions j := (Line.sessionRight_iff _).2 (by
    rw [show (State.line { s.volatileStart ⟨0, 0, 0⟩ none with mode := mode } j).seat = (false, none) from
      s.line_volatileStart _ none _]
    rfl)
  store := ⟨h.store.good, h.store.counted, h.store.serials, h.store.room, Nat.zero_le _,
    fun hrun => absurd hrun hmode⟩

end

end Sys2Proof.Machine
end


section
/-! Every request keeps sessions and charge store right (O5). -/

namespace Sys2Proof.Machine

section
variable {s : State} {f : List Byte}

/-! ### Requests as they are taken -/

theorem State.Sound.takeRequest (h : s.Sound) {kind : Byte} {handle : Handler}
    (hh : ∀ f (s : State), s.Sound → (handle f s).1.Sound) : (s.takeRequest kind handle).Sound := by
  unfold State.takeRequest
  split
  · split
    · exact (hh _ s.dropFrame (h.of_eq rfl rfl rfl rfl)).of_eq rfl rfl rfl rfl
    · exact h
  · exact h

theorem withFields_sound {α : Type} {read : Option α} {act : α → State × Answer} (h : s.Sound)
    (ha : ∀ a, (act a).1.Sound) : (withFields read s act).1.Sound := by
  unfold withFields
  split
  exacts [ha _, h]

theorem onLine_sound {act : LineId → State × Answer} (h : s.Sound) (ha : ∀ i, (act i).1.Sound) :
    (onLine f s act).1.Sound := by
  refine withFields_sound h fun a => ?_
  dsimp only
  split
  exacts [h, ha _]

theorem onAccount_sound {name : Option Name} {bad : Option Nat} {act : Account → State × Answer} (h : s.Sound)
    (ha : ∀ a, (act a).1.Sound) : (onAccount name bad s act).1.Sound := by
  unfold onAccount
  (repeat' split) <;> first | exact h | exact ha _

theorem onSession_sound {tag : Nat} {act : LineId → State × Answer} (h : s.Sound) (ha : ∀ i, (act i).1.Sound) :
    (onSession tag s act).1.Sound := by
  unfold onSession
  split
  exacts [ha _, h]

/-! ### Service, clock, tariff, texts, monitor -/

theorem openServiceReq_sound (h : s.Sound) : (openServiceReq f s).1.Sound := by
  unfold openServiceReq
  split
  · split
    exacts [h.of_eq rfl rfl rfl rfl, h]
  all_goals exact h

theorem closeServiceReq_sound (h : s.Sound) : (closeServiceReq f s).1.Sound := by
  refine withFields_sound h fun a => ?_
  dsimp only
  split
  · exact h
  · have hended : (if a.1 = 1 then s.massEnd .serviceClosed else s).Sound := by
      split
      exacts [h.massEnd _, h]
    split
    exacts [hended, hended.refuseDialogs.of_eq rfl rfl rfl rfl]

theorem setClockReq_sound (h : s.Sound) : (setClockReq f s).1.Sound := by
  refine withFields_sound h fun a => ?_
  dsimp only
  split
  · exact h
  · have hset : (s.updLines s.meteredLines fun _ l => l.updMeter fun m => { m with clockSet := true }).Sound :=
      h.updLines s.nodup_meteredLines fun i _ =>
        Line.updMeter_seat (f := fun m => { m with clockSet := true }) (fun _ => rfl) _
    exact hset.of_eq rfl rfl rfl rfl

theorem adjustClockReq_sound (h : s.Sound) : (adjustClockReq f s).1.Sound := by
  refine withFields_sound h fun a => ?_
  dsimp only
  split
  exacts [h.of_eq rfl rfl rfl rfl, h]

theorem loadTariffReq_sound (h : s.Sound) : (loadTariffReq f s).1.Sound := by
  rcases loadTariffReq_cases f s with hsame | ⟨tariff, hload⟩
  · rw [hsame]; exact h
  · rw [hload]
    exact State.Sound.reevaluateAll (s := { s with tariff := some tariff }) (h.of_eq rfl rfl rfl rfl)

theorem loadTextReq_sound (h : s.Sound) : (loadTextReq f s).1.Sound := by
  refine withFields_sound h fun a => ?_
  dsimp only
  (repeat' split) <;> exact h.of_eq rfl rfl rfl rfl

theorem setMonitorReq_sound (h : s.Sound) : (setMonitorReq f s).1.Sound := by
  refine withFields_sound h fun a => ?_
  dsimp only
  split
  exacts [h, h.of_eq rfl rfl rfl rfl]

/-! ### Lines and sessions -/

theorem configureLineReq_sound (h : s.Sound) : (configureLineReq f s).1.Sound := by
  refine withFields_sound h fun a => ?_
  dsimp only
  split
  · exact h
  next i _ =>
    split
    · split
      next => exact h
      next c _ => exact h.updLine (f := fun l => { l with config := c }) i rfl
    · exact h

theorem enableLineReq_sound (h : s.Sound) : (enableLineReq f s).1.Sound := by
  refine onLine_sound h fun i => h.updLine i ?_
  split
  next e => exact Line.hangup_seat (by rw [e]; rfl)
  next => rfl

theorem State.Sound.disableLine (h : s.Sound) (i : LineId) : (s.disableLine i).Sound := by
  have hpending : (s.updLine i fun l => { l with disablePending := true }).Sound := h.updLine i rfl
  unfold State.disableLine
  split <;> rename_i e
  · exact h
  iterate 7 exact h.updLine i (Line.seat_moved (by rw [e]; rfl) rfl rfl)
  exacts [hpending.endOne .., hpending.endOne .., hpending]

theorem disableLineReq_sound (h : s.Sound) : (disableLineReq f s).1.Sound := onLine_sound h fun i => h.disableLine i

theorem lineStatusReq_sound (h : s.Sound) : (lineStatusReq f s).1.Sound :=
  onLine_sound h fun i => h.updLine (f := fun l => { l with tallies := Tallies.zero }) i rfl

theorem State.Sound.broadcastTo (h : s.Sound) (k : Fin 16) (i : LineId) : (s.broadcastTo k i).Sound := by
  unfold State.broadcastTo
  dsimp only
  split
  · exact h.setLine i ((Line.placeDue_seat ..).trans (Line.place_seat ..))
  · exact h.setLine i (Line.place_seat ..)

theorem broadcastReq_sound (h : s.Sound) : (broadcastReq f s).1.Sound := by
  refine withFields_sound h fun a => ?_
  dsimp only
  split
  · exact h.foldl (fun _ i h => h.broadcastTo 14 i) _
  · split
    exacts [h.foldl (fun _ i h => h.broadcastTo 15 i) _, h]

theorem outputReq_sound (h : s.Sound) : (outputReq f s).1.Sound := by
  refine withFields_sound h fun a => ?_
  dsimp only
  split
  exacts [h, onSession_sound h fun i => h.updLine i rfl]

theorem setSessionReq_sound (h : s.Sound) : (setSessionReq f s).1.Sound := by
  refine withFields_sound h fun a => ?_
  dsimp only
  split
  exacts [h, onSession_sound h fun i => h.updLine i (Line.setCopies_seat ..)]

theorem endSessionReq_sound (h : s.Sound) : (endSessionReq f s).1.Sound := by
  refine withFields_sound h fun a => ?_
  dsimp only
  split
  exacts [h, onSession_sound h fun i => h.endOne i _ _]

/-! ### Accounts -/

theorem State.Sound.loadAccount (h : s.Sound) (a : Account) : (s.loadAccount a).Sound := by
  unfold State.loadAccount
  split
  · exact h.of_eq rfl rfl rfl rfl
  · exact State.Sound.reevaluateAct (s := s.putAccount _) (h.of_eq rfl rfl rfl rfl) _

theorem loadAccountReq_sound (h : s.Sound) : (loadAccountReq f s).1.Sound := by
  refine withFields_sound h fun raw => ?_
  split
  · exact h
  · split
    exacts [h, h.loadAccount _]

theorem deleteAccountReq_sound (h : s.Sound) : (deleteAccountReq f s).1.Sound := by
  refine withFields_sound h fun raw => onAccount_sound h fun a => ?_
  split
  exacts [h, h.of_eq rfl rfl rfl rfl]

theorem creditAccountReq_sound (h : s.Sound) : (creditAccountReq f s).1.Sound :=
  withFields_sound h fun _ => onAccount_sound h fun _ => (h.debit _ _).applyEffects

theorem setAccountStateReq_sound (h : s.Sound) : (setAccountStateReq f s).1.Sound := by
  refine withFields_sound h fun a => ?_
  dsimp only
  split
  exacts [onAccount_sound h fun _ => h, onAccount_sound h fun _ => h.of_eq rfl rfl rfl rfl]

/-! ### The charge store -/

/-- The read mark goes up to a number of records that are there (R150, R151). -/
theorem readChargesReq_sound (h : s.Sound) : (readChargesReq f s).1.Sound :=
  withFields_sound h fun _ => .of_seats h.running h.store.lawful
    (Nat.max_le.2 ⟨h.store.mark, Nat.min_le_right _ _⟩) h.session_seat h.entry_seat

theorem Store.release_checkpoints (st : Store) (n : Nat) : (st.release n).checkpoints = st.checkpoints := by
  unfold Store.release
  split <;> rfl

theorem Store.release_count (st : Store) (n : Nat) : (st.release n).count = st.count - n := by
  unfold Store.release
  split
  next h => rw [h]; rfl
  next => rfl

/-- Only records read are released, and the read mark goes down with the list (R150, R152). -/
theorem State.Sound.release (h : s.Sound) {n : Nat} (hn : n ≤ s.readMark) : (s.release n).Sound := by
  unfold State.release
  split
  · exact h
  · refine .of_seats h.running (h.store.lawful.release (hn.trans h.store.mark)) ?_ h.session_seat fun j => ?_
    · show s.readMark - n ≤ (s.store.release n).count
      rw [Store.release_count]
      exact Nat.sub_le_sub_right h.store.mark n
    · refine Eq.trans ?_ (h.entry_seat j)
      show ((s.store.release n).checkpoints.get j).isSome = (s.store.checkpoints.get j).isSome
      rw [Store.release_checkpoints]

theorem releaseChargesReq_sound (h : s.Sound) : (releaseChargesReq f s).1.Sound :=
  withFields_sound h fun _ => h.release (Nat.min_le_right _ _)

end

end Sys2Proof.Machine
end


section
/-! Every command, and with it every step, keeps sessions and charge store right (O5). -/

namespace Sys2Proof.Machine

/-! ### The link -/

section
variable {s : State}

theorem State.Sound.receiveByte (h : s.Sound) (b : Byte) : (s.receiveByte b).Sound := by
  unfold State.receiveByte State.validFrame State.offer State.setReceiver
  repeat' split
  all_goals try dsimp only
  repeat' split
  all_goals exact h.of_eq rfl rfl rfl rfl

/-- What the arbiter takes is no session and nothing of the store (R162). -/
theorem State.Sound.choose (h : s.Sound) {c : Choice} (e : s.choose = some c) : c.state.Sound := by
  unfold State.choose at e
  rcases orElse_some e with e | e
  · obtain ⟨r, -, rfl⟩ := Option.map_eq_some_iff.1 e
    exact h.of_eq rfl rfl rfl rfl
  rcases orElse_some e with e | e
  · unfold State.chooseReply at e
    split at e <;> cases e
    exact h.of_eq rfl rfl rfl rfl
  rcases orElse_some e with e | e
  · have hflag {o : Option ServiceFlag} {g : ServiceFlag → Choice} (hg : ∀ f, (g f).state.Sound)
        (e : o.map g = some c) : c.state.Sound := by
      obtain ⟨r, -, rfl⟩ := Option.map_eq_some_iff.1 e
      exact hg r
    unfold State.chooseService at e
    rcases orElse_some e with e | e
    · exact hflag (fun _ => h.of_eq rfl rfl rfl rfl) e
    rcases orElse_some e with e | e
    · exact hflag (fun _ => h.of_eq rfl rfl rfl rfl) e
    rcases orElse_some e with e | e
    · exact hflag (fun _ => h.of_eq rfl rfl rfl rfl) e
    split at e
    · cases e
    · exact hflag (fun _ => h.of_eq rfl rfl rfl rfl) e
  rcases orElse_some e with e | e
  · obtain ⟨i, -, hi⟩ := List.exists_of_findSome?_eq_some e
    obtain ⟨r, -, rfl⟩ := Option.map_eq_some_iff.1 hi
    exact State.Sound.updLine (s := { s with link := { s.link with linePtr := i } })
      (f := fun l => { l with reports := r.2.1 }) (h.of_eq rfl rfl rfl rfl) i rfl
  rcases orElse_some e with e | e
  · unfold State.chooseBudget at e
    split at e
    · cases e
    · obtain ⟨n, -, hn⟩ := List.exists_of_findSome?_eq_some e
      obtain ⟨a, -, hr⟩ := Option.bind_eq_some_iff.1 hn
      obtain ⟨r, -, rfl⟩ := Option.map_eq_some_iff.1 hr
      exact h.of_eq rfl rfl rfl rfl
  · obtain ⟨i, -, hi⟩ := List.exists_of_findSome?_eq_some e
    obtain ⟨ses, hs, hi⟩ := Option.bind_eq_some_iff.1 hi
    obtain ⟨b, -, rfl⟩ := Option.map_eq_some_iff.1 hi
    exact State.Sound.updLine (s := { s with link := { s.link with dataPtr := i } })
      (f := fun l => { l with session := some ses.freeHeld }) (h.of_eq rfl rfl rfl rfl) i (Line.freeHeld_seat hs)

theorem State.Sound.recheck (h : s.Sound) (i : LineId) : (s.recheck i).Sound := by
  unfold State.recheck
  split
  next hw => exact h.signOn (by rw [hw.1]; rfl)
  next => exact h

end

/-! ### Commands -/

section
variable {s t : State} {i : LineId}

/-- A command of a running controller keeps the laws if what it does while it runs does. -/
theorem State.Kept.run {f : State → State} (h : s.Kept) (e : s.whenRunning f = .next t)
    (hf : s.Sound → (f s).Sound) : t.Kept := by
  unfold State.whenRunning at e
  injection e with e
  subst e
  split
  next hrun => exact (hf ⟨h, hrun⟩).toKept
  next => exact h

theorem State.Kept.request (h : s.Kept) {kind : Byte} {handle : Handler}
    (e : s.whenRunning (State.takeRequest kind handle) = .next t)
    (hh : ∀ f (s : State), s.Sound → (handle f s).1.Sound) : t.Kept := h.run e fun h => h.takeRequest hh

/-- A command that writes one line, its seat left. -/
theorem State.Kept.line (h : s.Kept) {f : State → Line → Line}
    (e : (s.whenRunning fun s => s.updLine i (f s)) = .next t) (hf : ∀ l, (f s l).seat = l.seat) : t.Kept :=
  h.run e fun h => h.updLine i (hf _)

/-- The expiry of a line's timer, the line's seat left. -/
theorem State.Kept.expiry (h : s.Kept) {due : Line → Bool} {act : Line → Line}
    (e : s.lineExpiry i due act = .next t) (hact : ∀ l : Line, due l = true → (act l.drive).seat = l.seat) :
    t.Kept := by
  refine h.run e fun h => ?_
  split
  next hdue =>
    refine h.scan.updLine i ?_
    rw [State.line_scan]
    exact hact _ hdue
  next => exact h

theorem execReset_kept {pins : Pins} (h : s.Kept) (e : execReset pins s = .next t) : t.Kept := by
  refine h.run e fun h => ?_
  split
  · split
    · exact State.startUp_sound (fun _ => (h.massEnd .reset).hangupAnswered.store.lawful) _ pins
    · exact h
  · exact h

theorem execLabelZeroFrame_kept (h : s.Kept) (e : execLabelZeroFrame s = .next t) : t.Kept := by
  refine h.run e fun h => ?_
  (repeat' split) <;> exact h.of_eq rfl rfl rfl rfl

theorem execUnknownKind_kept (h : s.Kept) (e : execUnknownKind s = .next t) : t.Kept := by
  refine h.run e fun h => ?_
  (repeat' split) <;> exact h.of_eq rfl rfl rfl rfl

theorem execArbiterChoice_kept (h : s.Kept) (e : execArbiterChoice s = .next t) : t.Kept := by
  refine h.run e fun h => ?_
  split
  · exact h.of_eq rfl rfl rfl rfl
  next c hc =>
    have hsent : (c.state.send c.body).Sound := (h.choose hc).of_eq rfl rfl rfl rfl
    split
    exacts [hsent.recheck _, hsent]

theorem execHostSilenceExpiry_kept (h : s.Kept) (e : execHostSilenceExpiry s = .next t) : t.Kept := by
  refine h.run e fun h => ?_
  have hlost (n : Nat) : (s.scan.loseLink n).Sound := h.scan.of_eq rfl rfl rfl rfl
  split
  · split
    exacts [hlost 0, hlost 0, ((hlost _).massEnd _).refuseDialogs]
  · exact h

theorem execResetPinAsserted_kept (h : s.Kept) (e : execResetPinAsserted s = .next t) : t.Kept := by
  unfold execResetPinAsserted at e
  split at e <;> cases e
  exacts [h.stopped nofun, h.stopped nofun, h]

theorem execResetPin_kept {pins : Pins} {pfw : Bool} (h : s.Kept) (e : execResetPin pins pfw s = .next t) :
    t.Kept := by
  have hstarted : (s.startUpSeeing .resetPin pins pfw).Sound :=
    State.startUpSeeing_sound (fun _ => h.store.lawful) .resetPin pins pfw
  unfold execResetPin at e
  split at e <;> cases e
  exacts [hstarted.toKept, hstarted.toKept, h]

theorem execPowerOn_kept {pins : Pins} {pfw : Bool} {ram : RamFound} (h : s.Kept)
    (e : execPowerOn pins pfw ram s = .next t) : t.Kept := by
  unfold execPowerOn at e
  split at e <;> cases e
  · exact (State.startUpSeeing_sound (fun _ => h.store.lawful) ..).toKept
  · exact (State.startUpSeeing_sound (s := { s with store := Store.bad })
      (fun hgood => absurd hgood (Bool.eq_false_iff.1 Store.bad_headerGood)) ..).toKept

theorem execRing_kept (h : s.Kept) (e : execRing i s = .next t) : t.Kept := by
  refine h.run e fun h => h.scan.updLine i ?_
  split
  next hl => exact Line.seat_moved (by rw [hl.1]; rfl) rfl rfl
  next => rfl

theorem execCarrierDetect_kept (h : s.Kept) (e : execCarrierDetect i s = .next t) : t.Kept := by
  refine h.run e fun h => ?_
  dsimp only
  split
  next hl =>
    have hm : (s.scan.line i).state.metered = false := by rw [hl.1]; rfl
    split
    · exact h.scan.setLine i (Line.seat_moved hm rfl rfl)
    · refine State.Sound.admitLine (h.scan.setLine i ?_) ?_
      · rfl
      · rw [State.line_setLine, if_pos rfl]; exact hm
  next => exact h.scan.setLine i rfl

theorem execCarrierDrop_kept (h : s.Kept) (e : execCarrierDrop i s = .next t) : t.Kept := by
  refine h.run e fun h => h.scan.updLine i ?_
  split
  · rfl
  · split
    next hl => exact Line.leaveHangup_seat (by show LineState.metered _ = false; rw [hl.1]; rfl)
    next => rfl

theorem execCarrierLoss_kept (h : s.Kept) (e : execCarrierLoss i s = .next t) : t.Kept := by
  refine h.run e fun h => ?_
  dsimp only
  split
  · exact h
  · split
    · exact h.scan.endOne i _ _
    next hm =>
      split
      · refine h.scan.updLine i (Line.hangup_seat ?_)
        rw [State.line_scan]
        exact Bool.eq_false_iff.2 hm
      · exact h

theorem execPasswordCharacter_kept (h : s.Kept) (e : execPasswordCharacter i s = .next t) : t.Kept := by
  refine h.run e fun h => ?_
  dsimp only
  split
  next rest _ =>
    split
    next hl =>
      split
      · refine State.Sound.signOn (h.setLine i
          (l := Line.dialogEcho crLf { s.line i with unit := { (s.line i).unit with fifo := rest } }) ?_) ?_
        · exact (Line.dialogEcho_seat ..).trans rfl
        · rw [State.line_setLine, if_pos rfl, Line.dialogEcho_state]
          exact LineState.metered_of_dialog (.inl hl.1)
      · exact h.setLine i rfl
    next => exact h
  · exact h

theorem execEndOfCharacter_kept (h : s.Kept) (e : execEndOfCharacter i s = .next t) : t.Kept := by
  refine h.run e fun h => ?_
  dsimp only
  split
  next hl => exact h.evaluateCharacter (Line.measuring_metered hl.1)
  next => exact h

theorem execNoEnd_kept (h : s.Kept) (e : execNoEnd i s = .next t) : t.Kept := by
  refine h.run e fun h => ?_
  dsimp only
  split
  next hl => exact h.updLine i (Line.detectFail_seat (Line.measuring_metered hl.1) _)
  next => exact h

theorem execTooMany_kept {n : Nat} (h : s.Kept) (e : execTooMany i n s = .next t) : t.Kept := by
  refine h.run e fun h => ?_
  dsimp only
  split
  next hl => exact h.runEnds (Line.measuring_metered hl.1) _
  next => exact h

theorem execTransition_kept {n : Nat} (h : s.Kept) (e : execTransition i n s = .next t) : t.Kept := by
  refine h.run e fun h => ?_
  dsimp only
  split
  next hl => exact h.runEnds (Line.measuring_metered hl) _
  next => exact h

theorem execInactivity_kept (h : s.Kept) (e : execInactivity i s = .next t) : t.Kept := by
  refine h.run e fun h => ?_
  split
  · split
    exacts [h.tick, h]
  · exact h

theorem execHangupGuardExpiry_kept (h : s.Kept) (e : execHangupGuardExpiry i s = .next t) : t.Kept := by
  refine h.expiry e fun l hdue => ?_
  split
  · rfl
  · exact Line.leaveHangup_seat (by show l.state.metered = false; rw [(of_decide_eq_true hdue).1]; rfl)

theorem execDialogTimerExpiry_kept (h : s.Kept) (e : execDialogTimerExpiry i s = .next t) : t.Kept := by
  refine h.expiry e fun l hdue => (Line.toRejecting_seat ?_).trans ?_
  · rw [Line.raiseEvent_state, Line.place_state]
    exact LineState.metered_of_dialog (.inl (of_decide_eq_true hdue).1)
  · rw [Line.raiseEvent_seat, Line.place_seat, Line.drive_seat]

theorem execBreak_kept (h : s.Kept) (e : execBreak i s = .next t) : t.Kept := by
  refine h.line e fun l => ?_
  split
  · split
    next hl =>
      split
      exacts [Line.seat_moved (by rw [hl]; rfl) rfl rfl, rfl]
    next =>
      split
      · rw [Line.attention_seat, Line.arrival_seat]
      · rfl
  · rfl

theorem execInputStore_kept (h : s.Kept) (e : execInputStore i s = .next t) : t.Kept := by
  refine h.line e fun l => ?_
  split
  next hs _ =>
    split
    exacts [Line.storeInput_seat hs .., rfl]
  next => rfl

theorem execTransmitCharacter_kept (h : s.Kept) (e : execTransmitCharacter i s = .next t) : t.Kept := by
  refine h.line e fun l => ?_
  dsimp only
  split
  · rw [Line.takeNext_seat, Line.settle_seat]; rfl
  · rw [Line.settle_seat]; rfl

theorem execNameCharacter_kept (h : s.Kept) (e : execNameCharacter i s = .next t) : t.Kept := by
  refine h.line e fun l => ?_
  split
  · split
    exacts [(Line.nameChar_seat ..).trans rfl, rfl]
  · rfl

/-- Every command keeps sessions and charge store right. -/
theorem State.Kept.exec (h : s.Kept) (c : Instr) (e : exec c s = .next t) : t.Kept := by
  cases c with
  | keepalive => exact h.request e fun _ _ h => h
  | status => exact h.request e fun _ _ h => h.of_eq rfl rfl rfl rfl
  | openService => exact h.request e fun _ _ h => openServiceReq_sound h
  | closeService => exact h.request e fun _ _ h => closeServiceReq_sound h
  | setClock => exact h.request e fun _ _ h => setClockReq_sound h
  | adjustClock => exact h.request e fun _ _ h => adjustClockReq_sound h
  | loadTariff => exact h.request e fun _ _ h => loadTariffReq_sound h
  | loadText => exact h.request e fun _ _ h => loadTextReq_sound h
  | setMonitor => exact h.request e fun _ _ h => setMonitorReq_sound h
  | reset pins => exact execReset_kept h e
  | configureLine => exact h.request e fun _ _ h => configureLineReq_sound h
  | enableLine => exact h.request e fun _ _ h => enableLineReq_sound h
  | disableLine => exact h.request e fun _ _ h => disableLineReq_sound h
  | lineStatus => exact h.request e fun _ _ h => lineStatusReq_sound h
  | broadcast => exact h.request e fun _ _ h => broadcastReq_sound h
  | loadAccount => exact h.request e fun _ _ h => loadAccountReq_sound h
  | deleteAccount => exact h.request e fun _ _ h => deleteAccountReq_sound h
  | creditAccount => exact h.request e fun _ _ h => creditAccountReq_sound h
  | readAccount => exact h.request e fun _ _ h => withFields_sound h fun _ => onAccount_sound h fun _ => h
  | setAccountState => exact h.request e fun _ _ h => setAccountStateReq_sound h
  | output => exact h.request e fun _ _ h => outputReq_sound h
  | setSession => exact h.request e fun _ _ h => setSessionReq_sound h
  | endSession => exact h.request e fun _ _ h => endSessionReq_sound h
  | readCharges => exact h.request e fun _ _ h => readChargesReq_sound h
  | releaseCharges => exact h.request e fun _ _ h => releaseChargesReq_sound h
  | labelZeroFrame => exact execLabelZeroFrame_kept h e
  | unknownKind => exact execUnknownKind_kept h e
  | frameReceived bytes =>
    exact h.run (show execFrameReceived bytes s = _ from e) fun h => h.foldl (fun _ b h => h.receiveByte b) bytes
  | frameTimeout =>
    exact h.run (show execFrameTimeout s = _ from e) fun h => by split <;> exact h.of_eq rfl rfl rfl rfl
  | arbiterChoice => exact execArbiterChoice_kept h e
  | hostSilenceExpiry => exact execHostSilenceExpiry_kept h e
  | powerFailWarning => exact h.run (show execPowerFailWarning s = _ from e) fun h => h.powerFail
  | powerRecovery pins =>
    exact h.run (show execPowerRecovery pins s = _ from e) fun h => by
      split
      exacts [State.startUp_sound (fun _ => h.store.lawful) _ pins, h]
  | resetPinAsserted => exact execResetPinAsserted_kept h e
  | resetPin pins pfw => exact execResetPin_kept h e
  | powerOn pins pfw ram => exact execPowerOn_kept h e
  | ringSeen i => exact execRing_kept h e
  | carrierDetect i => exact execCarrierDetect_kept h e
  | carrierDrop i => exact execCarrierDrop_kept h e
  | carrierWaitExpiry i =>
    exact h.expiry (show execCarrierWaitExpiry i s = _ from e) fun l hd =>
      Line.seat_of_hangup_in (of_decide_eq_true hd).1 rfl (Line.raiseEvent _ _) fun _ => rfl
  | carrierLoss i => exact execCarrierLoss_kept h e
  | hangupGuardExpiry i => exact execHangupGuardExpiry_kept h e
  | lockoutExpiry i =>
    exact h.expiry (show execLockoutExpiry i s = _ from e) fun l hd =>
      Line.seat_moved (by rw [(of_decide_eq_true hd).1]; rfl) rfl rfl
  | drainTimerExpiry i =>
    exact h.expiry (show execDrainTimerExpiry i s = _ from e) fun l hd =>
      Line.seat_of_hangup_in (of_decide_eq_true hd).1 rfl id fun _ => rfl
  | quietLine i => exact h.line (show execQuietLine i s = _ from e) fun l => by split <;> rfl
  | endOfCharacter i => exact execEndOfCharacter_kept h e
  | noEnd i => exact execNoEnd_kept h e
  | tooMany i samples => exact execTooMany_kept h e
  | detectionTimerExpiry i =>
    exact h.expiry (show execDetectionTimerExpiry i s = _ from e) fun l hd =>
      Line.seat_of_hangup_in (of_decide_eq_true hd).1 rfl (Line.raiseEvent _ _) fun _ => rfl
  | characterReceived i bits =>
    exact h.line (show execCharacterReceived i bits s = _ from e) fun l => by
      split
      exacts [Line.receive_seat .., rfl]
  | framingError i => exact h.line (show execFramingError i s = _ from e) fun l => by split <;> rfl
  | breakReceived i => exact execBreak_kept h e
  | inputStore i => exact execInputStore_kept h e
  | forwardingTimerExpiry i =>
    exact h.expiry (show execForwardingTimerExpiry i s = _ from e) fun l _ => Line.complete_seat l.drive .timer
  | transmitCharacter i => exact execTransmitCharacter_kept h e
  | nameCharacter i => exact execNameCharacter_kept h e
  | passwordCharacter i => exact execPasswordCharacter_kept h e
  | dialogTimerExpiry i => exact execDialogTimerExpiry_kept h e
  | rejectingTimerExpiry i =>
    exact h.expiry (show execRejectingTimerExpiry i s = _ from e) fun l hd =>
      Line.seat_of_hangup_in (of_decide_eq_true hd).1 rfl id fun _ => rfl
  | meteringTick => exact h.run (show execMeteringTick s = _ from e) fun h => h.tick
  | graceExpiry i =>
    exact h.run (show execGraceExpiry i s = _ from e) fun h => by
      split
      exacts [h.tick, h]
  | inactivity i => exact execInactivity_kept h e
  | startEdge i => exact h.line (show execStartEdge i s = _ from e) fun l => by split <;> rfl
  | transition i samples => exact execTransition_kept h e
  | powerLoss =>
    cases e
    exact h.stopped nofun

/-- The interval without a command lets time pass on the lines alone (log 1). -/
theorem State.Kept.idle (h : s.Kept) (e : s.idle = .next t) : t.Kept := by
  injection e with e
  subst e
  split
  next hrun =>
    refine State.Sound.toKept (.of_same (s := s) ⟨h, hrun⟩ rfl rfl rfl fun j => ?_)
    rw [State.line, Vector.get_ofFn]
    exact Line.pass_seat ..
  next => exact h

end

/-- Settles O5: sessions end and open together with their checkpoint entries (`State.Sound.endSession`,
`State.Sound.accept`), each record appended takes the place of an entry, and every other command leaves seats and store
or starts them afresh. -/
theorem stepKeepsSessionsAndStore : Obligations.StepKeepsSessionsAndStore := by
  intro s t hsessions hstore e
  have h : s.Kept := ⟨hsessions, hstore⟩
  suffices t.Kept from ⟨this.sessions, this.store⟩
  unfold step at e
  split at e
  · exact h.idle e
  next c rest _ =>
    have hrest : State.Kept { s with pending := rest } :=
      ⟨hsessions, hstore.good, hstore.counted, hstore.serials, hstore.room, hstore.mark, hstore.entries⟩
    exact hrest.exec c e

end Sys2Proof.Machine
end


section
/-! END SESSION (O29). -/

namespace Sys2Proof.Machine

/-! ### The charge level after the append -/

section
variable (s : State) (i : LineId) (a : Account) (budget : Int) (r : EndReason) (charge : Charge)

@[simp] theorem State.closedOut_readMark : (s.closedOut i a budget r charge).readMark = s.readMark := by
  simp [State.closedOut, State.testChargeLevel_readMark]

variable {s} in
/-- An append that reaches the armed charge level raises CHARGES_PENDING and disarms it (R154). -/
theorem State.closedOut_reached (h : s.chargeArmed = true ∧ s.link.chargeLevel ≤ s.store.count + 1) :
    (s.closedOut i a budget r charge).chargeArmed = false
    ∧ (s.closedOut i a budget r charge).link.chargesPending = raiseService s.link.chargesPending 0 false := by
  rw [State.closedOut, State.testChargeLevel, if_pos (by exact h)]
  exact ⟨rfl, rfl⟩

variable {s} in
theorem State.closedOut_notReached (h : s.chargeArmed = false ∨ s.store.count + 1 < s.link.chargeLevel) :
    (s.closedOut i a budget r charge).chargeArmed = s.chargeArmed
    ∧ (s.closedOut i a budget r charge).link.chargesPending = s.link.chargesPending := by
  have hnot : ¬ (s.chargeArmed = true ∧ s.link.chargeLevel ≤ s.store.count + 1) := fun ⟨harmed, hle⟩ =>
    h.elim (fun hoff => Bool.false_ne_true (hoff.symm.trans harmed)) fun hlt => Nat.not_le_of_lt hlt hle
  rw [State.closedOut, State.testChargeLevel, if_neg (by exact hnot)]
  exact ⟨rfl, rfl⟩

end

/-- The count of a SERVICE EVENT set pending (R163). -/
theorem raiseService_count (old : Option ServiceFlag) (v w : Nat) (sum : Bool) :
    (raiseService old v sum).map ServiceFlag.count = (serviceFlagAfter old w).map ServiceFlag.count := by
  cases old <;> rfl

/-! ### The line of the session -/

section
variable (l : Line) (ses : Session) (keep : Bool) (flag : Nat → EndFlag)

/-- What the end of a session leaves of the output: the queue as the option says, and the release of held input (R38,
R131, R134). -/
theorem Line.endInput_out : (l.endInput ses keep flag).out = { l.out with
    armed := false
    queue := if keep then l.out.queue else []
    control := if l.unit.inputHeld = true then some chDC1 else l.out.control } := by
  rw [Line.endInput, Line.releaseInput_eq]

theorem Line.endInput_fifo : (l.endInput ses keep flag).unit.fifo = [] := by
  rw [Line.endInput, Line.releaseInput_eq]

variable {l} in
theorem Line.endMove_fifo (h : l.unit.fifo = []) (hangUp : Bool) : (l.endMove hangUp).unit.fifo = [] := by
  unfold Line.endMove
  split
  · rfl
  · rcases Line.settle_cases { l.goto .draining with drain := some Config.drainScans } with e | ⟨e, -⟩ <;> rw [e]
    exacts [h, rfl]

end

section
variable {s : State} {i : LineId} {ses : Session} {budget : Int} {charge : Charge}

theorem State.endedLine_fifo (r : EndReason) (keep : Bool) :
    (s.endedLine i ses r keep budget charge).unit.fifo = [] := by
  unfold State.endedLine
  refine Line.endMove_fifo ?_ _
  cases r.text with
  | none => exact Line.endInput_fifo ..
  | some k => dsimp only; rw [Line.place_unit]; exact Line.endInput_fifo ..

/-- The line of a session ended by the host, while its text 10 is still to be sent (R130, R131, R135). -/
theorem State.endedLine_draining (keep : Bool) (hspeed : (s.line i).unit.speed ≠ none)
    (htext : s.textFor 10 (some budget) (some charge.units) ≠ []) :
    (s.endedLine i ses .requested keep budget charge).state = .draining
    ∧ (s.endedLine i ses .requested keep budget charge).drain = some 3000
    ∧ (s.endedLine i ses .requested keep budget charge).endedPacing
      = some (ses.copies.outPacing, ses.copies.inPacing)
    ∧ (s.endedLine i ses .requested keep budget charge).out = { (s.line i).out with
        armed := false, queue := if keep then (s.line i).out.queue else [], waitPrompt := none
        noticeWait := s.textFor 10 (some budget) (some charge.units)
        control := if (s.line i).unit.inputHeld = true then some chDC1 else (s.line i).out.control } := by
  have hline := Line.endMove_draining (l := (s.line i).endInput ses keep (s.endFlag i .requested charge))
    (by rw [Line.endInput_speed]; exact hspeed) htext
  have hended : s.endedLine i ses .requested keep budget charge = _ := hline
  rw [hended]
  exact ⟨rfl, rfl, rfl, by dsimp only; rw [Line.endInput_out]⟩

end

/-! ### The request -/

section
variable {s : State} {label opt : Byte} {tag : Nat} {rest : List Byte}

theorem exec_endSession_badField (htag : tag < 65536) (h : s.Asked 0x22 label (be16 tag ++ [opt] ++ rest))
    (hopt : 1 < opt.toNat) : exec .endSession s = .next (s.answered 0x22 label .badField [2, 0]) := by
  have hopt : opt ≠ 0 ∧ opt ≠ 1 := ⟨fun e => by rw [e] at hopt; exact absurd hopt (by decide),
    fun e => by rw [e] at hopt; exact absurd hopt (by decide)⟩
  have hexec : exec .endSession s = _ := State.request_asked h endSessionReq
  simp only [endSessionReq, withFields, readEndSession_eq htag, if_pos hopt] at hexec
  exact hexec

theorem exec_endSession_stale (htag : tag < 65536) (h : s.Asked 0x22 label (be16 tag ++ [opt] ++ rest))
    (hopt : opt.toNat ≤ 1) (hstale : s.Stale tag) :
    exec .endSession s = .next (s.answered 0x22 label .stale [0, 0]) := by
  have hopt : ¬ (opt ≠ 0 ∧ opt ≠ 1) := fun ⟨h0, h1⟩ => (toNat_le_one (Nat.not_lt_of_le hopt)).elim h0 h1
  have hexec : exec .endSession s = _ := State.request_asked h endSessionReq
  simp only [endSessionReq, withFields, readEndSession_eq htag, if_neg hopt, onSession,
    State.currentLine_eq_none (s := s.dropFrame) hstale] at hexec
  exact hexec

end

/-- The reply's fields are those of the END just set pending (R133, R134). -/
theorem endReply_ended {l : Line} {e : EndFlag} (h : l.reports.ended = some e) :
    endReply l = be16 e.tag.toNat ++ be32 e.serial.toNat ++ be32 e.units ++ be32 e.seconds := by
  rw [endReply, h]

/-- Settles O29: the checks of the option and of the tag, and the end sequence of the session named, whose closing debit
makes no transition (`State.endSession_quiet`). -/
theorem endSessionRunsTheEndSequence : Obligations.EndSessionRunsTheEndSequence := by
  intro s label opt tag rest htag hq
  refine ⟨exec_endSession_badField htag hq, exec_endSession_stale htag hq, fun hopt i l ses a tariff ru budget charge hi
    hl hses hgen ht ha hru hb hquiet hcharge => ?_⟩
  subst hl
  have hn : ses.meter.account = a.name := (State.account?_name ha).symm
  have hclose : s.dropFrame.ClosesQuietly i ses a budget charge := ⟨hses, ha, ⟨tariff, ru, ht, hru, hb, hcharge⟩, hquiet⟩
  have hexec := exec_endSession htag hq hopt hi hses hgen
  have hend := s.dropFrame.sessionEnded_quiet i ses a budget charge .requested (opt == 0)
  have hreports := hend.reports
  have htagged : i.val * 256 + (s.line i).generation.toNat = tag := by omega
  rw [State.line_dropFrame, htagged] at hreports
  rw [State.endSession_quiet hclose, endReply_ended (congrArg LineReports.ended hreports), State.endOne_quiet hclose]
    at hexec
  have hline : ((s.dropFrame.closedOut i a budget .requested charge).setLine i
      (s.dropFrame.endedLine i ses .requested (opt == 0) budget charge)).line i
      = s.dropFrame.endedLine i ses .requested (opt == 0) budget charge := (State.line_setLine ..).trans (if_pos rfl)
  have hstore := s.dropFrame.closedOut_store i a budget .requested charge
  have haccount := s.dropFrame.closedOut_account? i a budget .requested charge
  have hreplies := s.dropFrame.closedOut_replies i a budget .requested charge
  have htagNat : (BitVec.ofNat 16 tag).toNat = tag := BitVec.toNat_ofNat .. ▸ Nat.mod_eq_of_lt htag
  refine ⟨_, hexec, hend.record, congrArg Store.count hstore, congrArg Store.nextSerial hstore,
    (congrArg Store.oldest hstore :), hend.entry, (haccount _).trans (if_pos hn), fun m hm => ?_, ?_,
    State.closedOut_service .., State.closedOut_clock .., State.closedOut_tariff .., State.closedOut_readMark ..,
    fun hreached => ?_, State.closedOut_notReached (s := s.dropFrame) i a budget .requested charge, fun j hj => ?_,
    hend.session, ?_, hreports, hend.lost, hend.moved, fun hspeed htext => ?_⟩
  · exact (haccount m).trans (if_neg (hn ▸ hm))
  · rw [htagNat]
    exact congrArg (· ++ _) hreplies
  · obtain ⟨harmed, hpending⟩ := State.closedOut_reached (s := s.dropFrame) i a budget .requested charge hreached
    exact ⟨harmed, (congrArg (Option.map ServiceFlag.count) hpending).trans (raiseService_count ..)⟩
  · exact (State.line_setLine ..).trans ((if_neg hj).trans (State.closedOut_line ..))
  · rw [State.line_pushReply, hline, State.endedLine_fifo]
  · have hdraining := State.endedLine_draining (s := s.dropFrame) (i := i) (ses := ses) (opt == 0) hspeed htext
    simp only [beq_iff_eq] at hdraining
    rw [State.line_pushReply, hline]
    exact hdraining

end Sys2Proof.Machine
end


section
/-! A tick at which one session ends, by its grace timer or by its inactivity count (O60). -/

namespace Sys2Proof.Machine

/-! ### The countdown that ends a session -/

/-- The countdowns that follow the charge of a session end it for a reason: its grace timer, which runs down where
`grace` says so, or its inactivity count (R117, R118). -/
inductive Meter.Ends (grace : Bool) (m : Meter) : EndReason → Prop
  | budget (runs : grace = true) (last : m.grace = some 1) : Meter.Ends grace m .budget
  | inactivity (goes : grace = true → ∀ g, m.grace = some g → 1 < g) (limited : m.inactLimit ≠ 0)
    (reached : m.inactLimit ≤ m.inactCount + 1) : Meter.Ends grace m .inactivity

theorem Meter.countGrace_goes {grace : Bool} {m : Meter} (h : grace = true → ∀ g, m.grace = some g → 1 < g) :
    ∃ g, m.countGrace grace = ({ m with grace := g }, false) := by
  unfold Meter.countGrace
  split
  next n hn => exact ⟨some (n - 1), congrArg (Prod.mk _) (decide_eq_false (Nat.not_le.2 (h rfl n hn)))⟩
  next => exact ⟨m.grace, rfl⟩

theorem Meter.countGrace_last {m : Meter} (h : m.grace = some 1) :
    m.countGrace true = ({ m with grace := some 0 }, true) := by
  unfold Meter.countGrace
  rw [h]
  rfl

theorem Meter.countSilence_reached {m : Meter} (hlimited : m.inactLimit ≠ 0)
    (hreached : m.inactLimit ≤ m.inactCount + 1) :
    m.countSilence = ({ m with inactCount := m.inactCount + 1 }, true) := by
  rw [Meter.countSilence, if_neg hlimited, decide_eq_true hreached]

section
variable {s z : State} {was is : List LineId} {i : LineId} {ses : Session} {r : EndReason}

/-- `s` as the session of line `i` with the meter record `m` comes to its end at a tick: its entry refreshed, its
countdowns left at `g` and `k` (R116 to R118). -/
def State.cutOff (s : State) (i : LineId) (m : Meter) (g : Option Nat) (k : Nat) : State :=
  State.updLine { s with store := s.store.setCheckpoint i (m.refreshed s.clock (s.store.checkpoint i)) } i
    (Line.updMeter fun _ => { m with grace := g, inactCount := k })

theorem State.line_cutOff (hs : (s.line i).session = some ses) (g : Option Nat) (k : Nat) (j : LineId) :
    (s.cutOff i ses.meter g k).line j = if j = i then { s.line i with
      session := some { ses with meter := { ses.meter with grace := g, inactCount := k } } } else s.line j := by
  have hl : (s.line i).updMeter (fun _ => { ses.meter with grace := g, inactCount := k }) = { s.line i with
      session := some { ses with meter := { ses.meter with grace := g, inactCount := k } } } := by
    rw [Line.updMeter, hs]; rfl
  rw [← hl]
  exact State.line_updLine ..

/-- What follows the charge of a session that ends (R115 to R118). -/
theorem State.afterCharge_ends (hs : (s.line i).session = some ses) (h : ses.meter.Ends (was.contains i) r) :
    ∃ g k, s.afterCharge was i = (s.cutOff i ses.meter g k).endOne i r false := by
  rw [State.afterCharge, hs]
  dsimp only
  rw [State.refresh_eq]
  cases h with
  | budget runs last =>
    refine ⟨some 0, ses.meter.inactCount, ?_⟩
    rw [runs, Meter.countGrace_last last]
    rfl
  | inactivity goes limited reached =>
    obtain ⟨g, hgrace⟩ := Meter.countGrace_goes goes
    refine ⟨g, ses.meter.inactCount + 1, ?_⟩
    rw [hgrace]
    dsimp only
    rw [Meter.countSilence_reached (by exact limited) (by exact reached), if_neg Bool.false_ne_true, if_pos rfl]
    rfl

/-- `t` is `z` after what follows the charges of the sessions of `is`, of which that of line `i`, `ses`, has ended for
`r` with the closed charge `charge`, its account `a` left at `budget`, and every other goes on (R115 to R118, R131). -/
structure State.EndedAlone (z t : State) (was is : List LineId) (i : LineId) (ses : Session) (r : EndReason)
    (a : Account) (budget : Int) (charge : Charge) : Prop where
  clock : t.clock = z.clock
  account : ∀ m, t.account? m
    = if m = ses.meter.account then some { a with budget := budget, active := a.active - 1 } else z.account? m
  records : t.store.records = z.store.records ++ [⟨z.store.nextSerial, charge, r, false⟩]
  entry : t.store.checkpoints.get i = none
  others : ∀ j, j ≠ i → t.line j
    = if j ∈ is then (z.line j).updMeter (Meter.wentOn (was.contains j)) else z.line j
  session : (t.line i).session = none
  moved : (t.line i).state = .draining ∨ (t.line i).state = .hangup
  report : (t.line i).reports.ended = some ⟨BitVec.ofNat 16 (i.val * 256 + (z.line i).generation.toNat), r,
    z.store.nextSerial, charge.units, charge.seconds, min 65535 ((z.line i).inputHeldBytes ses)⟩

variable {a : Account} {budget : Int} {charge : Charge}

/-- The countdown alone takes the session to its end, so it closes as it stood before (R120, R121). -/
theorem State.ClosesQuietly.cutOff (h : s.ClosesQuietly i ses a budget charge) (g : Option Nat) (k : Nat) :
    (s.cutOff i ses.meter g k).ClosesQuietly i
      { ses with meter := { ses.meter with grace := g, inactCount := k } } a budget charge := by
  obtain ⟨hs, ha, ⟨tariff, ru, ht, hru, hb, hcharge⟩, hq⟩ := h
  have hline := (State.line_cutOff hs g k i).trans (if_pos rfl)
  refine ⟨congrArg Line.session hline, ha, ⟨tariff, ru, ht, hru, hb, hcharge.trans ?_⟩, hq⟩
  rw [State.closed, State.closed, hline]
  rfl

/-- A session that closes quietly does so after other sessions have gone on (R120, R121). -/
theorem State.ClosesQuietly.wentOn (h : z.ClosesQuietly i ses a budget charge) (hwent : z.WentOn s was is)
    (hi : i ∉ is) : s.ClosesQuietly i ses a budget charge := by
  obtain ⟨hs, ha, ⟨tariff, ru, ht, hru, hb, hcharge⟩, hq⟩ := h
  have hline : s.line i = z.line i := (hwent.line i).trans (if_neg hi)
  have hclock : s.clock = z.clock := (congrArg State.clock hwent.frame :)
  have htariff : s.tariff = z.tariff := (congrArg State.tariff hwent.frame :)
  refine ⟨by rw [hline, hs], (State.account?_congr (congrArg State.accounts hwent.frame :) _).trans ha,
    ⟨tariff, ru, htariff.trans ht, hru, hb, hcharge.trans ?_⟩, (State.stateOfBudget_congr htariff ..).trans hq⟩
  rw [State.closed, State.closed, hline, hclock]

/-- The one session that ends (R115 to R118, R131). -/
theorem State.endedAlone_afterCharge (hclose : z.ClosesQuietly i ses a budget charge)
    (hends : ses.meter.Ends (was.contains i) r) :
    z.EndedAlone (z.afterCharge was i) was [i] i ses r a budget charge := by
  obtain ⟨g, k, hcut⟩ := State.afterCharge_ends hclose.session hends
  have hline := State.line_cutOff hclose.session g k
  have hend := (z.cutOff i ses.meter g k).sessionEnded_quiet i
    { ses with meter := { ses.meter with grace := g, inactCount := k } } a budget charge r false
  have hname : ses.meter.account = a.name := (State.account?_name hclose.account).symm
  have hreport := congrArg LineReports.ended hend.reports
  rw [hline, if_pos rfl] at hreport
  rw [hcut, State.endOne_quiet (hclose.cutOff g k)]
  refine ⟨State.closedOut_clock .., fun m => ?_, hend.record, (hend.entry i).trans (if_pos rfl), fun j hj => ?_,
    hend.session, hend.moved, hreport⟩
  · rw [hname]; exact State.closedOut_account? ..
  · rw [if_neg (mt List.mem_singleton.1 hj), State.line_setLine, if_neg hj, State.closedOut_line, hline, if_neg hj]

/-- Sessions that go on before the one that ends (R115 to R118). -/
theorem State.EndedAlone.ahead {x t : State} {ahead : List LineId}
    (h : x.EndedAlone t was is i ses r a budget charge) (hx : z.WentOn x was ahead) (hi : i ∉ ahead)
    (hapart : ∀ j ∈ ahead, j ∉ is) : z.EndedAlone t was (ahead ++ is) i ses r a budget charge := by
  have hxi : x.line i = z.line i := (hx.line i).trans (if_neg hi)
  have hserial : x.store.nextSerial = z.store.nextSerial := (congrArg Store.nextSerial hx.store :)
  have hrecords : x.store.records = z.store.records := (congrArg Store.records hx.store :)
  have haccount (m : Name) : x.account? m = z.account? m := State.account?_congr (congrArg State.accounts hx.frame :) m
  refine ⟨h.clock.trans (congrArg State.clock hx.frame :), fun m => ?_, ?_, h.entry, fun j hj => ?_, h.session,
    h.moved, ?_⟩
  · rw [h.account, haccount]
  · rw [h.records, hserial, hrecords]
  · rw [h.others j hj, hx.line]
    by_cases hja : j ∈ ahead
    · rw [if_neg (hapart j hja), if_pos hja, if_pos (List.mem_append_left _ hja)]
    · simp only [hja, if_false, List.mem_append, false_or]
  · rw [h.report, hserial, hxi]

/-- Sessions that go on after the one that has ended (R115 to R118). -/
theorem State.EndedAlone.behind {u t : State} {behind : List LineId}
    (h : z.EndedAlone u was is i ses r a budget charge) (ht : u.WentOn t was behind) (hi : i ∉ behind)
    (hapart : ∀ j ∈ behind, j ∉ is) : z.EndedAlone t was (is ++ behind) i ses r a budget charge := by
  have hti : t.line i = u.line i := (ht.line i).trans (if_neg hi)
  have haccount (m : Name) : t.account? m = u.account? m := State.account?_congr (congrArg State.accounts ht.frame :) m
  refine ⟨(congrArg State.clock ht.frame :).trans h.clock, fun m => ?_, ?_, (ht.entryApart i hi).trans h.entry,
    fun j hj => ?_, by rw [hti, h.session], by rw [hti]; exact h.moved, by rw [hti, h.report]⟩
  · rw [haccount, h.account]
  · exact (congrArg Store.records ht.store :).trans h.records
  · rw [ht.line, h.others j hj]
    by_cases hjb : j ∈ behind
    · rw [if_pos hjb, if_neg (hapart j hjb), if_pos (List.mem_append_right _ hjb)]
    · simp only [hjb, if_false, List.mem_append, or_false]

/-- What follows the charges of sessions of which one ends and makes no transition (R115 to R118, R131). -/
theorem State.endedAlone_foldl (hnd : is.Nodup) (hi : i ∈ is) (hclose : z.ClosesQuietly i ses a budget charge)
    (hends : ses.meter.Ends (was.contains i) r)
    (hgoes : ∀ j ∈ is, j ≠ i → ∃ other, (z.line j).session = some other ∧ other.meter.GoesOn (was.contains j)) :
    z.EndedAlone (is.foldl (State.afterCharge was) z) was is i ses r a budget charge := by
  obtain ⟨ahead, behind, rfl⟩ := List.append_of_mem hi
  obtain ⟨hnda, hndb, hapart⟩ := List.nodup_append.1 hnd
  obtain ⟨hib, hndb⟩ := List.nodup_cons.1 hndb
  have hia : i ∉ ahead := fun h => hapart i h i (List.mem_cons_self ..) rfl
  have hnb {j : LineId} (hj : j ∈ behind) : j ∉ [i] := fun h => hib (List.mem_singleton.1 h ▸ hj)
  have hx := State.wentOn_foldl (s := z) (was := was) hnda fun j hj =>
    hgoes j (List.mem_append_left _ hj) fun e => hia (e ▸ hj)
  rw [List.foldl_append, List.foldl_cons]
  generalize ahead.foldl (State.afterCharge was) z = x at hx
  have hone := State.endedAlone_afterCharge (hclose.wentOn hx hia) hends
  generalize x.afterCharge was i = u at hone
  have ht := State.wentOn_foldl (s := u) (was := was) hndb fun j hj => by
    have hja : j ∉ ahead := fun h => hapart j h j (List.mem_cons_of_mem _ hj) rfl
    have hji : j ≠ i := mt List.mem_singleton.2 (hnb hj)
    rw [hone.others j hji, if_neg (hnb hj), hx.line, if_neg hja]
    exact hgoes j (List.mem_append_right _ (List.mem_cons_of_mem _ hj)) hji
  exact (hone.behind ht hib fun _ => hnb).ahead hx hia fun j hj h => hapart j hj j h rfl

end

/-! ### The tick at which one session ends -/

section
variable {s z : State} {i : LineId} {ses : Session} {r : EndReason} {a : Account} {paid : Int} {charge : Charge}

theorem Meter.Ends.charged {grace : Bool} (h : ses.meter.Ends grace r) : (s.tickMeter ses).Ends grace r := by
  cases h with
  | budget runs last => exact .budget runs last
  | inactivity goes limited reached => exact .inactivity goes limited reached

theorem State.contains_tickGrace (hi : i ∈ s.tickLines) :
    s.tickGrace.contains i = decide ((s.line i).state = .grace) :=
  Bool.eq_iff_iff.2
    (List.contains_iff_mem.trans (State.mem_tickGrace_iff.trans ((and_iff_right hi).trans decide_eq_true_iff.symm)))

/-- A tick's scan, its charge and the countdowns of a session that goes on, line by line (R111, R117, R118; log 8). -/
theorem State.wentOn_charged (hr : s.AllLines Line.SessionRight) (j : LineId) :
    (if j ∈ s.tickLines then (s.charged.line j).updMeter (Meter.wentOn (s.tickGrace.contains j)) else s.charged.line j)
      = (s.lineAfterTick (s.line j)).driven := by
  cases hs : (s.line j).session with
  | none =>
    have hj : j ∉ s.tickLines := fun hj => by
      have := (State.mem_tickLines hr).1 hj
      rw [hs] at this; cases this
    rw [if_neg hj, State.line_charged, if_neg hj, State.lineAfterTick, hs]
    exact congrArg (fun x => { (s.line j).drive with session := x }) hs
  | some ses =>
    have hj : j ∈ s.tickLines := (State.mem_tickLines hr).2 (by rw [hs]; rfl)
    rw [if_pos hj, State.line_charged_session ((hr j).metered hs) hs, State.contains_tickGrace hj, State.lineAfterTick,
      hs]
    simp only [Line.updMeter, Meter.wentOn, decide_eq_true_eq]
    rfl

/-- The closing of a session that a tick has charged, once the tick's debits are paid (R114, R120, R121). -/
theorem State.PaidQuietly.closesQuietly {tariff : Tariff} {n : Name} {ru : Nat}
    (hpaid : s.charged.PaidQuietly z s.tickNames s.tickDebit)
    (hm : (s.line i).state.metered = true) (hs : (s.line i).session = some ses) (hn : n = ses.meter.account)
    (htariff : s.tariff = some tariff) (ha : s.account? n = some a)
    (hru : ru = roundingUnitOf tariff.rounding (s.tickMeter ses).residue)
    (hpaying : paid = clampBudget (clampBudget (a.budget - s.tickDebit n) - ru))
    (hquiet : s.stateOfBudget paid a.overdraft a.cls = a.bstate)
    (hcharge : charge = State.closed { s with clock := s.clock.advance } i (s.tickMeter ses) ru) :
    z.ClosesQuietly i { ses with meter := s.tickMeter ses } (a.pay (s.tickDebit n)) paid charge := by
  have hline : z.line i = s.chargedLine i ses :=
    (State.line_congr hpaid.lines i).trans (State.line_charged_session hm hs)
  have hclock : z.clock = s.clock.advance := hpaid.clock.trans s.clock_charged
  have htz : z.tariff = s.tariff := hpaid.tariff.trans s.tariff_charged
  have hpays : n ∈ s.tickNames := State.mem_tickNames_iff.2
    (List.ne_nil_of_mem ((State.mem_sessionsOf ..).2 ⟨hm, by rw [Line.account?, hs, hn]; rfl⟩))
  refine ⟨by rw [hline]; rfl, ?_, ⟨tariff, ru, htz.trans htariff, hru, hpaying, hcharge.trans ?_⟩,
    (State.stateOfBudget_congr htz ..).trans hquiet⟩
  · show z.account? ses.meter.account = _
    rw [← hn, hpaid.account, if_pos hpays, s.account?_charged, ha]
    rfl
  · rw [State.closed, State.closed, hline, hclock]
    rfl

/-- A tick that ends the session of line `i` alone, its debits without a transition (R111 to R118, R131). -/
theorem State.PaidQuietly.endedAlone (hpaid : s.charged.PaidQuietly z s.tickNames s.tickDebit)
    (htick : s.tick = s.tickLines.foldl (State.afterCharge s.tickGrace) z) (hr : s.AllLines Line.SessionRight)
    (hs : (s.line i).session = some ses)
    (hclose : z.ClosesQuietly i { ses with meter := s.tickMeter ses } a paid charge)
    (hends : ses.meter.Ends (decide ((s.line i).state = .grace)) r)
    (hgoes : ∀ j other, j ≠ i → (s.line j).session = some other → (s.line j).GoesOn other) :
    z.EndedAlone s.tick s.tickGrace s.tickLines i { ses with meter := s.tickMeter ses } r a paid charge := by
  have hi : i ∈ s.tickLines := (State.mem_tickLines hr).2 (by rw [hs]; rfl)
  rw [htick]
  refine State.endedAlone_foldl s.nodup_tickLines hi hclose ?_ fun j hj hji => ?_
  · rw [State.contains_tickGrace hi]; exact hends.charged
  · obtain ⟨other, ho⟩ := Option.isSome_iff_exists.1 ((State.mem_tickLines hr).1 hj)
    obtain ⟨hgrace, hsilence⟩ := hgoes j other hji ho
    rw [State.line_congr hpaid.lines, State.line_charged_session ((hr j).metered ho) ho, State.contains_tickGrace hj]
    exact ⟨_, rfl, fun hwas => hgrace (of_decide_eq_true hwas), hsilence⟩

theorem exec_graceExpiry_running (hmode : s.mode = .running) (hs : (s.line i).session = some ses) :
    exec (.graceExpiry i) s = .next (if (s.line i).state = .grace ∧ ses.meter.grace = some 1 then s.tick else s) := by
  refine (State.whenRunning_running hmode _).trans ?_
  rw [hs]
  rfl

theorem exec_inactivity_running (hmode : s.mode = .running) (hs : (s.line i).session = some ses) :
    exec (.inactivity i) s
      = .next (if (s.line i).state.metered = true ∧ ses.meter.countSilence.2 = true then s.tick else s) := by
  change execInactivity i s = _
  unfold execInactivity
  rw [State.whenRunning_running hmode, hs]

end

/-- Settles O60: each of the two commands is the tick at which its countdown ends the session, and nothing otherwise
(log 14); the sessions before and after it in the tick's order go on (R114, R117, R118, R120, R121, R123, R131). -/
theorem graceAndInactivityEndTheSession : Obligations.GraceAndInactivityEndTheSession := by
  intro s i l ses hmode hl hs hmetered
  subst hl
  have hgrace := exec_graceExpiry_running hmode hs
  have hsilence := exec_inactivity_running hmode hs
  refine ⟨fun hoff => ?_, fun huncut => ?_, ?_⟩
  · rw [hgrace, if_neg (not_and_or.2 hoff)]
  · rw [hsilence, if_neg fun h => Bool.false_ne_true ((Meter.countSilence_uncut huncut).symm.trans h.2)]
  intro c reason n a tariff ru paid charge hcut hr hn htariff ha hgoes hquiet hru hpaying hstays hcharge
  have hended : ses.meter.Ends (decide ((s.line i).state = .grace)) reason ∧ exec c s = .next s.tick := by
    obtain ⟨rfl, rfl, hstate, hlast⟩ | ⟨rfl, rfl, hahead, hlimited, hreached⟩ := hcut
    · exact ⟨.budget (decide_eq_true hstate) hlast, hgrace.trans (by rw [if_pos ⟨hstate, hlast⟩])⟩
    · have hgoing (runs : decide ((s.line i).state = .grace) = true) (g : Nat) (hg : ses.meter.grace = some g) :
          1 < g := by
        obtain hactive | ⟨g', hg', hlt⟩ := hahead
        · rw [hactive] at runs; cases runs
        · exact Option.some.inj (hg'.symm.trans hg) ▸ hlt
      refine ⟨.inactivity hgoing hlimited hreached, hsilence.trans ?_⟩
      rw [if_pos ⟨hmetered, congrArg Prod.snd (Meter.countSilence_reached hlimited hreached)⟩]
  obtain ⟨hends, hexec⟩ := hended
  have hpaid := State.paidQuietly_tick fun m hm b hb => hquiet m b hb (State.mem_tickNames_iff.1 hm)
  have htick := s.tick_eq
  generalize s.tickNames.foldl _ s.charged = z at hpaid htick
  have hclose := hpaid.closesQuietly hmetered hs hn htariff ha hru hpaying hstays hcharge
  have hone := hpaid.endedAlone htick hr hs hclose hends hgoes
  have hstore : z.store = s.store := hpaid.store.trans State.charged_store
  have hzline (j : LineId) : z.line j = s.charged.line j := State.line_congr hpaid.lines j
  have hreport := hone.report
  rw [hzline, State.line_charged_session hmetered hs, hstore] at hreport
  refine ⟨s.tick, hexec, State.whenRunning_running hmode State.tick,
    hone.clock.trans (hpaid.clock.trans s.clock_charged), by rw [← hstore]; exact hone.records, hone.entry,
    (hone.account n).trans (if_pos hn), fun m hm => ?_, fun j hj => ?_, hone.moved, hone.session, hreport⟩
  · rw [hone.account, if_neg (hn ▸ hm), hpaid.account, s.account?_charged]
    by_cases hnone : s.sessionsOf m = []
    · simp [State.mem_tickNames_iff, hnone]
    · rw [if_pos (State.mem_tickNames_iff.2 hnone)]
      simp only [if_neg hnone]
      rfl
  · rw [hone.others j hj, hzline]
    exact State.wentOn_charged hr j

end Sys2Proof.Machine
end

section
/-! What a mass end makes of the part: every session ended for one reason, in whatever order (R131, R137). -/

namespace Sys2Proof.Machine

/-! ### What ends of sessions leave alone -/

/-- `t` is `s` but for what ends of sessions may write: lines, accounts, charge store, the arming of the charge level, the
free orders, and of the link CHARGES_PENDING and the BUDGET order. -/
def State.SameOutside (s t : State) : Prop :=
  t = { s with
    lines := t.lines, accounts := t.accounts, store := t.store, chargeArmed := t.chargeArmed, orders := t.orders
    link := { s.link with chargesPending := t.link.chargesPending, budgetOrder := t.link.budgetOrder } }

section
variable {s t u : State}

theorem State.SameOutside.refl (s : State) : s.SameOutside s := rfl

theorem State.SameOutside.trans (h : s.SameOutside t) (h' : t.SameOutside u) : s.SameOutside u :=
  Eq.trans h' (congrArg (fun x : State => { x with
    lines := u.lines, accounts := u.accounts, store := u.store, chargeArmed := u.chargeArmed, orders := u.orders
    link := { x.link with chargesPending := u.link.chargesPending, budgetOrder := u.link.budgetOrder } }) h)

theorem State.sameOutside_reevaluate (s : State) (n : Name) : s.SameOutside (s.reevaluate n).1 := by
  unfold State.reevaluate
  split
  · rfl
  · dsimp only
    split <;> rfl

theorem State.sameOutside_debit (s : State) (n : Name) (z : Int) : s.SameOutside (s.debit n z).1 := by
  unfold State.debit
  split
  · rfl
  · exact State.SameOutside.trans (t := s.putAccount _) rfl (State.sameOutside_reevaluate ..)

theorem State.sameOutside_testChargeLevel (s : State) : s.SameOutside s.testChargeLevel := by
  unfold State.testChargeLevel; split <;> rfl

theorem State.sameOutside_giveBack (s : State) (n : Name) : s.SameOutside (s.giveBack n) := by
  unfold State.giveBack; split <;> rfl

theorem State.sameOutside_updLines (s : State) (is : List LineId) (f : LineId → Line → Line) :
    s.SameOutside (s.updLines is f) := by
  rw [State.updLines_eq]; rfl

/-- Steps 1 to 3 of the end sequence: the debit, the append with its test of the charge level, the place (R131). -/
theorem State.sameOutside_closing (s : State) (i : LineId) (ses : Session) (r : EndReason) :
    s.SameOutside (s.closing i ses r) := by
  have hpaid := s.sameOutside_debit ses.meter.account (s.roundingUnit ses.meter.residue)
  unfold State.closing
  dsimp only
  refine (hpaid.trans ?_).trans (State.sameOutside_giveBack ..)
  exact State.SameOutside.trans (t := { (s.debit _ _).1 with store := _ }) rfl (State.sameOutside_testChargeLevel _)

end

/-! ### One end -/

section
variable {s : State} {i : LineId} {ses : Session}

/-- A line changed after it is written. -/
theorem State.updLine_setLine (s : State) (i : LineId) (l : Line) (f : Line → Line) :
    (s.setLine i l).updLine i f = s.setLine i (f l) := by simp [State.updLine]

/-- The end sequence as steps 1 to 3 and the move of a line `l` whose session is gone and whose END, set pending, carries
the reason and the session's tag (R131, R133). -/
theorem State.endSession_flagged (hs : (s.line i).session = some ses) (r : EndReason) (keep : Bool) :
    ∃ (flag : Nat → EndFlag) (l : Line),
      (s.endSession i r keep).1 = (s.closing i ses r).setLine i (l.endMove r.hangsUp)
      ∧ (∀ n, (flag n).reason = r ∧ (flag n).tag = tagOf i (s.line i).generation)
      ∧ l.session = none ∧ l.reports = ((s.line i).endInput ses keep flag).reports := by
  obtain ⟨-, -, hlines, -⟩ := s.closing_frame i ses r
  rw [← State.line_congr hlines i]
  unfold State.endSession
  rw [hs]
  cases r.text with
  | none => exact ⟨_, _, State.updLine_setLine (s.closing i ses r) i _ _, fun _ => ⟨rfl, rfl⟩, rfl, rfl⟩
  | some k =>
    exact ⟨_, _, (congrArg (State.updLine · i _) (State.updLine_setLine (s.closing i ses r) i _ (Line.place _))).trans
      (State.updLine_setLine ..), fun _ => ⟨rfl, rfl⟩, Line.place_session .., Line.place_reports ..⟩

/-- What the end of its session leaves of a line (R131, R133). -/
theorem State.endSession_endedFor (hs : (s.line i).session = some ses) (r : EndReason) (keep : Bool) :
    (s.line i).EndedFor i r ((s.endSession i r keep).1.line i)
    ∧ (r.hangsUp = true → ((s.endSession i r keep).1.line i).state = .hangup) := by
  obtain ⟨flag, l, hend, hflag, hsession, hreports⟩ := State.endSession_flagged hs r keep
  rw [Line.endInput_reports, ← Line.endMove_reports l r.hangsUp] at hreports
  rw [hend, State.line_setLine, if_pos rfl]
  refine ⟨⟨(Line.endMove_session ..).trans hsession, Line.endMove_state .., (congrArg LineReports.signon hreports :),
    _, (congrArg LineReports.ended hreports :), hflag _⟩, fun hup => ?_⟩
  rw [hup]; rfl

/-! ### Several ends -/

/-- What the ends of the sessions of the lines `is` for `r` make of `s`: a record each, their entries cleared, each line
ended, in HANGUP where the reason takes it there, and the other lines left (R130, R131, R137). -/
structure State.MassEnded (s t : State) (r : EndReason) (is : List LineId) : Prop where
  outside : s.SameOutside t
  records : ∃ ended : List Record, t.store.records = s.store.records ++ ended ∧ ended.length = is.length
    ∧ ∀ x ∈ ended, x.reason = r ∧ x.recovered = false
  entry : ∀ j, t.store.checkpoints.get j = if j ∈ is then none else s.store.checkpoints.get j
  kept : ∀ j, j ∉ is → t.line j = s.line j
  ended : ∀ j ∈ is, (s.line j).EndedFor j r (t.line j)
  hungUp : r.hangsUp = true → ∀ j ∈ is, (t.line j).state = .hangup

theorem State.endSession_massEnded (hs : (s.line i).session = some ses) (r : EndReason) (keep : Bool) :
    s.MassEnded (s.endSession i r keep).1 r [i] := by
  obtain ⟨-, l, hend, -⟩ := State.endSession_flagged hs r keep
  obtain ⟨hended, hup⟩ := State.endSession_endedFor hs r keep
  obtain ⟨-, -, hlines, charge, hstore⟩ := s.closing_frame i ses r
  have hstore : (s.endSession i r keep).1.store = s.store.append i charge r false := by rw [hend]; exact hstore
  refine ⟨?_, ⟨_, by rw [hstore, Store.append_records], rfl, fun x hx => ?_⟩, fun j => ?_, fun j hj => ?_,
    fun j hj => ?_, fun h j hj => ?_⟩
  · rw [hend]
    exact (s.sameOutside_closing i ses r).trans rfl
  · rw [List.mem_singleton.1 hx]
    exact ⟨rfl, rfl⟩
  · rw [hstore, Store.append_checkpoints]
    simp only [List.mem_singleton]
  · rw [hend, State.line_setLine, if_neg (mt List.mem_singleton.2 hj)]
    exact State.line_congr hlines j
  · rw [List.mem_singleton.1 hj]; exact hended
  · rw [List.mem_singleton.1 hj]; exact hup h

/-- Ends of some lines' sessions, then of others'. -/
theorem State.MassEnded.append {t u : State} {r : EndReason} {is js : List LineId} (h : s.MassEnded t r is)
    (h' : t.MassEnded u r js) (hdisj : is.Disjoint js) : s.MassEnded u r (is ++ js) := by
  obtain ⟨xs, hxs, hxlen, hxr⟩ := h.records
  obtain ⟨ys, hys, hylen, hyr⟩ := h'.records
  refine ⟨h.outside.trans h'.outside, ⟨xs ++ ys, ?_, ?_, fun x hx => ?_⟩, fun j => ?_, fun j hj => ?_, fun j hj => ?_,
    fun hup j hj => ?_⟩
  · rw [hys, hxs, List.append_assoc]
  · rw [List.length_append, List.length_append, hxlen, hylen]
  · exact (List.mem_append.1 hx).elim (hxr x) (hyr x)
  · rw [h'.entry, h.entry]
    by_cases hi : j ∈ is <;> by_cases hj : j ∈ js <;> simp [hi, hj]
  · obtain ⟨hi, hj⟩ := not_or.1 (mt List.mem_append.2 hj)
    exact (h'.kept j hj).trans (h.kept j hi)
  · rcases List.mem_append.1 hj with hi | hj
    · rw [h'.kept j (hdisj hi)]; exact h.ended j hi
    · rw [← h.kept j fun hi => hdisj hi hj]; exact h'.ended j hj
  · rcases List.mem_append.1 hj with hi | hj
    · rw [h'.kept j (hdisj hi)]; exact h.hungUp hup j hi
    · exact h'.hungUp hup j hj

/-- The sessions of several lines ended one after another (R137). -/
theorem State.endEach_massEnded {is : List LineId} (hnd : is.Nodup) (hs : ∀ j ∈ is, (s.line j).session.isSome = true)
    (r : EndReason) : s.MassEnded (s.endEach r is) r is := by
  induction is generalizing s with
  | nil => exact ⟨.refl s, ⟨[], (List.append_nil _).symm, rfl, nofun⟩, fun _ => rfl, fun _ _ => rfl, nofun, nofun⟩
  | cons i is ih =>
    obtain ⟨hi, hnd⟩ := List.nodup_cons.1 hnd
    obtain ⟨ses, hses⟩ := Option.isSome_iff_exists.1 (hs i (List.mem_cons_self ..))
    have hone := State.endSession_massEnded hses r false
    have hrest := ih (s := (s.endSession i r false).1) hnd fun j hj => by
      rw [hone.kept j fun hji => hi (List.mem_singleton.1 hji ▸ hj)]
      exact hs j (List.mem_cons_of_mem _ hj)
    exact hone.append hrest (List.singleton_disjoint.2 hi)

/-- A mass end: every session, in whatever order (R137). -/
theorem State.massEnd_massEnded (hr : s.AllLines Line.SessionRight) (r : EndReason) :
    s.MassEnded (s.massEnd r) r s.meteredLines := by
  obtain ⟨hperm, -⟩ := State.takeOrder_spec (fun i : LineId => i.val) s.nodup_meteredLines s
  have hall := State.endEach_massEnded (s := (s.takeOrder (fun i : LineId => i.val) s.meteredLines).2)
    (hperm.nodup_iff.2 s.nodup_meteredLines)
    (fun j hj => (hr j).trans ((s.mem_meteredLines j).1 (hperm.mem_iff.1 hj))) r
  obtain ⟨ended, hrecords, hlength, hreasons⟩ := hall.records
  refine ⟨.trans (t := { s with orders := s.orders.tail }) rfl hall.outside,
    ⟨ended, hrecords, hlength.trans hperm.length_eq, hreasons⟩,
    fun j => (hall.entry j).trans (if_congr hperm.mem_iff rfl rfl), fun j hj => hall.kept j (mt hperm.mem_iff.1 hj),
    fun j hj => hall.ended j (hperm.mem_iff.2 hj), fun hup j hj => hall.hungUp hup j (hperm.mem_iff.2 hj)⟩

section
variable {t : State} {r : EndReason}

/-- After a mass end no entry is valid, since only the lines with a session had one (R148). -/
theorem State.MassEnded.entries_empty (h : s.MassEnded t r s.meteredLines) (hstore : s.StoreRight)
    (hmode : s.mode = .running) (j : LineId) : t.store.checkpoints.get j = none := by
  rw [h.entry]
  split
  · rfl
  next hj =>
    rw [← Option.not_isSome_iff_eq_none]
    exact fun he => hj ((s.mem_meteredLines j).2 ((hstore.entries hmode j).symm.trans he))

/-- No session is left after a mass end. -/
theorem State.MassEnded.unmetered (h : s.MassEnded t r s.meteredLines) (j : LineId) :
    (t.line j).state.metered = false := by
  by_cases hj : j ∈ s.meteredLines
  · exact LineState.metered_of_left (.inr (h.ended j hj).moved)
  · rw [h.kept j hj]
    exact Bool.eq_false_iff.2 (mt (s.mem_meteredLines j).2 hj)

theorem State.MassEnded.dialogLines (h : s.MassEnded t r s.meteredLines) : t.dialogLines = s.dialogLines := by
  refine List.filter_congr fun j _ => decide_eq_decide.2 ?_
  by_cases hj : j ∈ s.meteredLines
  · have hmetered := (s.mem_meteredLines j).1 hj
    have hafter : ¬ ((t.line j).state = .dialog ∨ (t.line j).state = .detecting) := by
      rcases (h.ended j hj).moved with e | e <;> simp [e]
    refine iff_of_false hafter fun hd => ?_
    rw [LineState.metered_of_dialog hd] at hmetered
    cases hmetered
  · rw [h.kept j hj]

end

end

end Sys2Proof.Machine
end


section
/-! The mass ends by their commands: CLOSE SERVICE (O12), RESET (O18), host silence (O36), the power-fail warning (O37). -/

namespace Sys2Proof.Machine

/-! ### Lines turned away by a service change -/

@[simp] theorem Line.toRejecting_reports (l : Line) : l.toRejecting.reports = l.reports := by
  unfold Line.toRejecting; rw [Line.settle_reports]; rfl

/-- A line refused by a service change goes to REJECTING, or on to HANGUP where nothing is to be sent (R15, R61, R73). -/
theorem Line.turnedAway (l : Line) (text : List Byte) : l.TurnedAway text (l.place text).toRejecting where
  reports := by simp
  tallies := by simp
  moved := by
    unfold Line.toRejecting Line.settle
    split
    · exact .inl rfl
    · refine .inr ⟨rfl, rfl, rfl, rfl, rfl, rfl, fun hspeed => ?_⟩
      rw [Line.place_of_speed hspeed]
      rfl
  waits hspeed htext := (Line.refused_place hspeed htext).1.state
  leaves hspeed hcur hwait hcontrol htx := by
    rw [Line.place_eq, if_pos hspeed, Line.toRejecting, Line.settle,
      if_pos ⟨.inl rfl, by simp [Line.outputDone, Line.goto, hcur, hwait, hcontrol, htx]⟩]
    rfl

/-- DTR, which the scan writes, is no part of a refusal. -/
theorem Line.TurnedAway.of_drive {text : List Byte} {old new : Line} (h : old.drive.TurnedAway text new) :
    old.TurnedAway text new := ⟨h.reports, h.tallies, h.moved, h.waits, h.leaves⟩

section
variable (s : State)

/-- The text 6 of a service change is the same for every line that it turns away. -/
theorem State.foldl_refuseLine (is : List LineId) : is.foldl State.refuseLine s
    = s.updLines is fun _ l => (l.place (s.textFor 6 none none)).toRejecting := by
  induction is generalizing s with
  | nil => rfl
  | cons i is ih => rw [List.foldl_cons, ih, State.updLines_cons]; rfl

theorem State.refuseDialogs_eq : s.refuseDialogs
    = s.updLines s.dialogLines fun _ l => (l.place (s.textFor 6 none none)).toRejecting := s.foldl_refuseLine _

theorem State.refuseDialogs_frame : s.refuseDialogs = { s with lines := s.refuseDialogs.lines } := by
  rw [State.refuseDialogs_eq]
  exact State.updLines_eq ..

theorem State.sameOutside_refuseDialogs : s.SameOutside s.refuseDialogs := by
  rw [State.refuseDialogs_eq]
  exact State.sameOutside_updLines ..

theorem State.line_refuseDialogs (i : LineId) : s.refuseDialogs.line i
    = if i ∈ s.dialogLines then ((s.line i).place (s.textFor 6 none none)).toRejecting else s.line i := by
  rw [State.refuseDialogs_eq]
  exact s.line_updLines (nodup_allLines.filter _) _ i

end

/-! ### The lines after a mass end, as the claims write them -/

theorem Line.EndedFor.claimed {i : LineId} {r : EndReason} {old new : Line} (h : old.EndedFor i r new) :
    (new.state = .draining ∨ new.state = .hangup) ∧ new.session = none
    ∧ ∃ e, new.reports.ended = some e ∧ e.reason = r
      ∧ e.tag = BitVec.ofNat 16 (i.val * 256 + old.generation.toNat) := ⟨h.moved, h.session, h.ended⟩

section
variable {s t : State} {r : EndReason} {i : LineId}

theorem State.MassEnded.claimed (h : s.MassEnded t r s.meteredLines) (hm : (s.line i).state.metered = true) :
    ((t.line i).state = .draining ∨ (t.line i).state = .hangup) ∧ (t.line i).session = none
    ∧ ∃ e, (t.line i).reports.ended = some e ∧ e.reason = r
      ∧ e.tag = BitVec.ofNat 16 (i.val * 256 + (s.line i).generation.toNat) :=
  (h.ended i ((s.mem_meteredLines i).2 hm)).claimed

theorem State.MassEnded.line_unmetered (h : s.MassEnded t r s.meteredLines) (hm : (s.line i).state.metered = false) :
    t.line i = s.line i := h.kept i fun hi => Bool.false_ne_true (hm.symm.trans ((s.mem_meteredLines i).1 hi))

theorem State.MassEnded.textFor (h : s.MassEnded t r s.meteredLines) (k : Fin 16) (budget : Option Int)
    (units : Option Nat) : t.textFor k budget units = s.textFor k budget units := by
  have htexts : t.texts = s.texts := (congrArg State.texts h.outside :)
  rw [State.textFor, State.textFor, htexts]

end

/-! ### CLOSE SERVICE -/

section
variable (s : State)

/-- The lines that the closing of the service turns away (R138; log 28). -/
def State.away : List LineId := if s.service = .closed then [] else s.dialogLines

/-- The service closed, the monitor stopped and lines turned away where it was open (R138, R164). -/
def State.shut : State :=
  if s.service = .closed then s
  else { s.refuseDialogs with service := .closed, link := { s.refuseDialogs.link with monitor := none } }

/-- The service state and the monitor after CLOSE SERVICE (R164, R165). -/
def State.serviceShut : State :=
  { s with
    service := .closed
    link := { s.link with monitor := if s.service = .closed then s.link.monitor else none } }

theorem State.serviceShut_eq : s.serviceShut = if s.service = .closed then s
    else { s with service := .closed, link := { s.link with monitor := none } } := by
  unfold State.serviceShut
  split
  next hc => rw [← hc]
  next => rfl

theorem State.shut_frame : s.shut = { s.serviceShut with lines := s.shut.lines } := by
  rw [State.serviceShut_eq]
  unfold State.shut
  split
  · rfl
  · rw [State.refuseDialogs_frame]

theorem State.line_shut (i : LineId) : s.shut.line i
    = if i ∈ s.away then ((s.line i).place (s.textFor 6 none none)).toRejecting else s.line i := by
  unfold State.shut State.away
  split
  · rfl
  · exact s.line_refuseDialogs i

theorem State.unmetered_of_away {i : LineId} (h : i ∈ s.away) : (s.line i).state.metered = false := by
  unfold State.away at h
  split at h
  · cases h
  · exact LineState.metered_of_dialog ((s.mem_dialogLines i).1 h)

variable {s} in
theorem State.MassEnded.away {t : State} {r : EndReason} (h : s.MassEnded t r s.meteredLines) : t.away = s.away := by
  have hservice : t.service = s.service := (congrArg State.service h.outside :)
  rw [State.away, State.away, hservice, h.dialogLines]

variable {s} in
theorem State.MassEnded.line_shut {t : State} {r : EndReason} (h : s.MassEnded t r s.meteredLines) (i : LineId) :
    t.shut.line i = if i ∈ s.away then ((s.line i).place (s.textFor 6 none none)).toRejecting else t.line i := by
  rw [State.line_shut, h.away, h.textFor]
  split
  next hi => rw [h.line_unmetered (s.unmetered_of_away hi)]
  next => rfl

variable {s} in
/-- The lines after END_ALL: no session, its END where there was one, and every other line turned away or as it was
(R131, R138). -/
theorem State.MassEnded.lines_shut {t : State} {r : EndReason} (h : s.MassEnded t r s.meteredLines) (i : LineId) :
    (t.shut.line i).state.metered = false
    ∧ ((s.line i).state.metered = true →
      ((t.shut.line i).state = .draining ∨ (t.shut.line i).state = .hangup) ∧ (t.shut.line i).session = none
      ∧ ∃ e, (t.shut.line i).reports.ended = some e ∧ e.reason = r
        ∧ e.tag = BitVec.ofNat 16 (i.val * 256 + (s.line i).generation.toNat))
    ∧ ((s.line i).state.metered = false →
      if i ∈ s.away then (s.line i).TurnedAway (s.textFor 6 none none) (t.shut.line i)
      else t.shut.line i = s.line i) := by
  rw [h.line_shut]
  refine ⟨?_, fun hm => ?_, fun hm => ?_⟩
  · split
    exacts [LineState.metered_of_left ((Line.toRejecting_state _).imp_right .inr), h.unmetered i]
  · rw [if_neg fun hi => Bool.false_ne_true ((s.unmetered_of_away hi).symm.trans hm)]
    exact h.claimed hm
  · split
    exacts [Line.turnedAway .., h.line_unmetered hm]

theorem closeServiceReq_stop (rest : List Byte) :
    closeServiceReq (0 :: rest) s = (s.shut, .done, [0, byteOf s.away.length]) := by
  unfold State.shut State.away
  by_cases hc : s.service = .closed <;> simp [closeServiceReq, withFields, u8, answerDone, hc] <;> rfl

theorem closeServiceReq_endAll (rest : List Byte) (hr : s.AllLines Line.SessionRight) :
    closeServiceReq (1 :: rest) s
      = ((s.massEnd .serviceClosed).shut, .done, [byteOf s.meteredLines.length, byteOf s.away.length]) := by
  have hservice : (s.massEnd .serviceClosed).service = s.service :=
    (congrArg State.service (State.massEnd_massEnded hr .serviceClosed).outside :)
  unfold State.shut State.away
  by_cases hc : s.service = .closed <;> simp [closeServiceReq, withFields, u8, answerDone, hc, hservice]

theorem closeServiceReq_badField {opt : Byte} (rest : List Byte) (h0 : opt ≠ 0) (h1 : opt ≠ 1) :
    closeServiceReq (opt :: rest) s = (s, .badField, [1, 0]) := if_pos ⟨h0, h1⟩

end

/-- Settles O12: both options close the service the same way (`State.shut`); END_ALL makes the mass end before it
(R137, R138, R164). -/
theorem closeServiceByOption : Obligations.CloseServiceByOption := by
  intro s label opt rest closed away hq hclosed haway
  obtain rfl : away = s.dropFrame.away := haway
  obtain rfl : closed = s.serviceShut := hclosed.trans s.serviceShut_eq.symm
  have hexec : exec .closeService s = _ := State.request_asked hq closeServiceReq
  refine ⟨fun h0 => ?_, fun h1 hr hstore => ?_, fun h0 h1 => ?_⟩
  · subst h0
    rw [closeServiceReq_stop] at hexec
    refine ⟨_, hexec, ?_, fun i => ?_⟩
    · rw [State.shut_frame]
      rfl
    · rw [State.line_pushReply, State.line_shut]
      split
      exacts [Line.turnedAway .., rfl]
  · subst h1
    have hend := State.massEnd_massEnded (s := s.dropFrame) hr .serviceClosed
    rw [closeServiceReq_endAll s.dropFrame rest hr] at hexec
    generalize s.dropFrame.massEnd .serviceClosed = t at hend hexec
    obtain ⟨ended, hrecords, hlength, hreasons⟩ := hend.records
    have houtside := hend.outside
    have hservice : t.service = s.service := (congrArg State.service houtside :)
    have hmonitor : t.link.monitor = s.link.monitor := (congrArg (fun x : State => x.link.monitor) houtside :)
    have hreplies : t.link.replies = s.link.replies := (congrArg (fun x : State => x.link.replies) houtside :)
    have hshut := t.shut_frame
    have hshutStore : t.shut.store = t.store := (congrArg State.store hshut :)
    have hshutMonitor : t.shut.link.monitor = if t.service = .closed then t.link.monitor else none :=
      (congrArg (fun x : State => x.link.monitor) hshut :)
    have hshutReplies : t.shut.link.replies = t.link.replies := (congrArg (fun x : State => x.link.replies) hshut :)
    refine ⟨_, ended, hexec, (congrArg State.service hshut :), ?_, ?_, hlength, hreasons, fun i => ?_, ?_, fun i => ?_⟩
    · refine hshutMonitor.trans ?_
      rw [hservice, hmonitor]; rfl
    · exact (congrArg Store.records hshutStore).trans hrecords
    · refine (congrArg (fun st : Store => st.checkpoints.get i) hshutStore).trans ?_
      exact hend.entries_empty ⟨hstore.good, hstore.counted, hstore.serials, hstore.room, hstore.mark, hstore.entries⟩
        hq.running i
    · exact congrArg (· ++ _) (hshutReplies.trans hreplies)
    · exact hend.lines_shut i
  · rw [closeServiceReq_badField _ _ h0 h1] at hexec
    exact hexec

/-! ### Host silence -/

theorem raiseService_eq (old : Option ServiceFlag) (v : Nat) : raiseService old v false = serviceFlagAfter old v := by
  cases old <;> rfl

/-- A mass end, and the lines in a dialog turned away after it: the lines (R15, R139). -/
theorem State.MassEnded.line_refuseDialogs {s t : State} {r : EndReason} (h : s.MassEnded t r s.meteredLines)
    (i : LineId) : t.refuseDialogs.line i
      = if i ∈ s.dialogLines then ((s.line i).place (s.textFor 6 none none)).toRejecting else t.line i := by
  rw [State.line_refuseDialogs, h.dialogLines, h.textFor]
  split
  next hi => rw [h.line_unmetered (LineState.metered_of_dialog ((s.mem_dialogLines i).1 hi))]
  next => rfl

section
variable {s : State}

theorem exec_hostSilenceExpiry_kept (hmode : s.mode = .running) (hopen : s.service = .opened)
    (hmonitor : s.link.monitor ≠ none) (haction : s.link.action = .none ∨ s.link.action = .refuse) :
    exec .hostSilenceExpiry s = .next (s.scan.loseLink 0) := by
  have hdue : s.service = .opened ∧ s.link.monitor.isSome = true := ⟨hopen, Option.isSome_iff_ne_none.2 hmonitor⟩
  rcases haction with haction | haction <;>
    simp only [exec, execHostSilenceExpiry, State.whenRunning_running hmode, if_pos hdue, haction]

theorem exec_hostSilenceExpiry_hangup (hmode : s.mode = .running) (hopen : s.service = .opened)
    (hmonitor : s.link.monitor ≠ none) (haction : s.link.action = .hangup) :
    exec .hostSilenceExpiry s
      = .next ((s.scan.loseLink s.meteredLines.length).massEnd .linkLost).refuseDialogs := by
  have hdue : s.service = .opened ∧ s.link.monitor.isSome = true := ⟨hopen, Option.isSome_iff_ne_none.2 hmonitor⟩
  simp only [exec, execHostSilenceExpiry, State.whenRunning_running hmode, if_pos hdue, haction]

theorem exec_hostSilenceExpiry_idle (hmode : s.mode = .running)
    (h : s.service ≠ .opened ∨ s.link.monitor = none) : exec .hostSilenceExpiry s = .next s := by
  refine (State.whenRunning_running hmode _).trans ?_
  rw [if_neg fun ⟨hopen, hmonitor⟩ => h.elim (fun hne => hne hopen) (Option.isSome_iff_ne_none.1 hmonitor)]

end

theorem State.meteredLines_scan (s : State) : s.scan.meteredLines = s.meteredLines :=
  List.filter_congr fun i _ => by rw [State.line_scan]; rfl

theorem State.loseLink_link {s : State} (h : s.link.action = .hangup) (n : Nat) : (s.loseLink n).link = { s.link with
    monitor := none, linkLost := serviceFlagAfter s.link.linkLost 2, applied := .hangup, lostSessions := n } := by
  rw [State.loseLink, ← raiseService_eq, h]
  rfl

/-- The lines after a mass end made at a scan, the dialogs refused after it: ENDs for the sessions, the dialogs turned
away, the other lines as the scan left them (R1, R131, R139). -/
theorem State.MassEnded.lines_refused {s z t : State} {r : EndReason} (h : z.MassEnded t r z.meteredLines)
    (hlines : ∀ i, z.line i = (s.line i).drive) (htexts : z.texts = s.texts) (i : LineId) :
    ((s.line i).state.metered = true →
      ((t.refuseDialogs.line i).state = .draining ∨ (t.refuseDialogs.line i).state = .hangup)
      ∧ (t.refuseDialogs.line i).session = none
      ∧ ∃ e, (t.refuseDialogs.line i).reports.ended = some e ∧ e.reason = r
        ∧ e.tag = BitVec.ofNat 16 (i.val * 256 + (s.line i).generation.toNat))
    ∧ ((s.line i).state = .dialog ∨ (s.line i).state = .detecting →
      (s.line i).TurnedAway (s.textFor 6 none none) (t.refuseDialogs.line i))
    ∧ ((s.line i).state.metered = false → (s.line i).state ≠ .dialog → (s.line i).state ≠ .detecting →
      t.refuseDialogs.line i = (s.line i).driven) := by
  have htext : z.textFor 6 none none = s.textFor 6 none none := by rw [State.textFor, State.textFor, htexts]
  have hdialog : i ∈ z.dialogLines ↔ (s.line i).state = .dialog ∨ (s.line i).state = .detecting := by
    rw [State.mem_dialogLines, hlines]; rfl
  have hmetered : (z.line i).state.metered = (s.line i).state.metered := by rw [hlines]; rfl
  rw [h.line_refuseDialogs, htext, hlines]
  refine ⟨fun hm => ?_, fun hd => ?_, fun hm hnd hnt => ?_⟩
  · have hclaim := h.claimed (hmetered.trans hm)
    rw [hlines] at hclaim
    rw [if_neg fun hd => Bool.false_ne_true ((LineState.metered_of_dialog (hdialog.1 hd)).symm.trans hm)]
    exact hclaim
  · rw [if_pos (hdialog.2 hd)]
    exact (Line.turnedAway _ _).of_drive
  · rw [if_neg fun hd => (hdialog.1 hd).elim hnd hnt, h.line_unmetered (hmetered.trans hm), hlines]
    rfl

/-- Settles O36: the link lost at the scan; with HANGUP the mass end follows, and then the dialogs are refused (R139,
R165, R166). -/
theorem hostSilenceLosesTheLink : Obligations.HostSilenceLosesTheLink := by
  intro s hmode
  refine ⟨exec_hostSilenceExpiry_idle hmode, fun hopen hmonitor => ⟨fun value hvalue => ?_,
    fun haction hr hstore => ?_⟩⟩
  · have haction : s.link.action = .none ∨ s.link.action = .refuse := hvalue.imp And.left And.left
    have hcode : s.link.action.code.toNat = value := by
      rcases hvalue with ⟨haction, rfl⟩ | ⟨haction, rfl⟩ <;> rw [haction] <;> decide
    rw [exec_hostSilenceExpiry_kept hmode hopen hmonitor haction, State.scanned_eq_scan, ← raiseService_eq, ← hcode,
      State.loseLink, State.scan_link]
  · have hexec := exec_hostSilenceExpiry_hangup hmode hopen hmonitor haction
    obtain ⟨z, hz⟩ : ∃ z, z = s.scan.loseLink s.meteredLines.length := ⟨_, rfl⟩
    have hsound : z.Sound := hz ▸ State.Sound.of_eq (State.Sound.scan ⟨⟨hr, hstore⟩, hmode⟩) rfl rfl rfl rfl
    have hlines (i : LineId) : z.line i = (s.line i).drive := hz ▸ s.line_scan i
    have hmetered : z.meteredLines = s.meteredLines := hz ▸ s.meteredLines_scan
    have hzlink := hz ▸ State.loseLink_link (s := s.scan) haction s.meteredLines.length
    obtain ⟨hzservice, hzclock, hztariff, hztexts, hzrecords⟩ : z.service = .linkLost ∧ z.clock = s.clock
      ∧ z.tariff = s.tariff ∧ z.texts = s.texts ∧ z.store.records = s.store.records := by
      rw [hz]; exact ⟨rfl, rfl, rfl, rfl, rfl⟩
    have hend := State.massEnd_massEnded hsound.sessions .linkLost
    rw [← hz] at hexec
    generalize z.massEnd .linkLost = t at hend hexec
    obtain ⟨ended, hrecords, hlength, hreasons⟩ := hend.records
    have houtside := hend.outside.trans t.sameOutside_refuseDialogs
    have hlink := (congrArg State.link houtside :)
    dsimp only at hlink
    rw [hzlink] at hlink
    have hstored : t.refuseDialogs.store = t.store := (congrArg State.store t.refuseDialogs_frame :)
    refine ⟨_, ended, hexec, (congrArg State.service houtside).trans hzservice,
      (congrArg Link.monitor hlink :), (congrArg Link.linkLost hlink :), (congrArg Link.applied hlink :),
      (congrArg Link.lostSessions hlink :), ?_, hlength.trans (congrArg List.length hmetered), hreasons, fun i => ?_,
      (congrArg State.clock houtside).trans hzclock, (congrArg State.tariff houtside).trans hztariff,
      hend.lines_refused hlines hztexts⟩
    · rw [hstored, hrecords, hzrecords]
    · rw [hstored, hend.entries_empty hsound.store hsound.running]

/-! ### The power-fail warning -/

theorem State.line_hangupAnswered (s : State) (i : LineId) : s.hangupAnswered.line i
    = if (s.line i).state.answered = true ∧ (s.line i).state.metered = false then (s.line i).hangup else s.line i := by
  refine (s.line_updLines nodup_allLines _ i).trans ((if_pos (mem_allLines i)).trans (if_congr ?_ rfl rfl))
  rw [Bool.not_eq_true]

theorem State.hangupAnswered_frame (s : State) : s.hangupAnswered = { s with lines := s.hangupAnswered.lines } :=
  s.updLines_eq allLines _

theorem State.sameOutside_hangupAnswered (s : State) : s.SameOutside s.hangupAnswered :=
  s.sameOutside_updLines allLines _

theorem Line.hangup_eq_onHook (l : Line) : l.hangup = l.onHook := rfl

theorem LineState.answered_of_metered {st : LineState} (h : st.metered = true) : st.answered = true := by
  cases st
  case active | grace => rfl
  all_goals cases h

/-- A mass end that hangs up, and the other answered lines hung up after it: no line is answered (R140, R141). -/
theorem State.MassEnded.line_hangupAnswered {s t : State} {r : EndReason} (h : s.MassEnded t r s.meteredLines)
    (hup : r.hangsUp = true) (i : LineId) : t.hangupAnswered.line i
      = if (s.line i).state.metered = true then t.line i
        else if (s.line i).state.answered = true then (s.line i).onHook else s.line i := by
  rw [State.line_hangupAnswered]
  cases hm : (s.line i).state.metered with
  | true => rw [h.hungUp hup i ((s.mem_meteredLines i).2 hm)]; rfl
  | false => simp [h.line_unmetered hm, hm, Line.hangup_eq_onHook]

/-- Settles O37: the mass end of reason POWER, the other lines hung up, and POWERDOWN entered (R140, R169). -/
theorem powerFailWarningEndsEverything : Obligations.PowerFailWarningEndsEverything := by
  intro s hmode hr hstore
  have hexec : exec .powerFailWarning s = .next s.powerFail := State.whenRunning_running hmode _
  refine ⟨fun hdown => ?_, fun hdown => ?_⟩
  · rw [hexec, State.powerFail, hdown]
  · have hfail : s.powerFail
        = State.enterPowerdown (s.massEnd .power).hangupAnswered s.meteredLines.length := by
      unfold State.powerFail
      split
      next e => exact absurd e hdown
      all_goals rfl
    have hdtr (i : LineId) : (s.powerFail.line i).dtr = (s.line i).dtr := exec_dtr_unscanned rfl rfl hexec i
    rw [hfail] at hexec hdtr
    have hend := State.massEnd_massEnded hr .power
    generalize s.massEnd .power = t at hend hexec hdtr
    obtain ⟨ended, hrecords, hlength, hreasons⟩ := hend.records
    have houtside := hend.outside.trans t.sameOutside_hangupAnswered
    have hstored : t.hangupAnswered.store = t.store := (congrArg State.store t.hangupAnswered_frame :)
    have hlines := hend.line_hangupAnswered rfl
    generalize t.hangupAnswered = u at hexec hdtr houtside hstored hlines
    refine ⟨_, ended, hexec, rfl, rfl, (congrArg State.clock houtside :), (congrArg State.tariff houtside :),
      (congrArg State.texts houtside :), ⟨u.link.chargesPending, ?_⟩, ?_, hlength, hreasons, fun i => ?_, fun i => ?_⟩
    · have hlink := (congrArg State.link houtside :)
      dsimp only at hlink
      rw [← raiseService_eq, State.enterPowerdown, hlink]
    · exact (congrArg Store.records hstored).trans hrecords
    · exact (congrArg (fun st : Store => st.checkpoints.get i) hstored).trans (hend.entries_empty hstore hmode i)
    · have hdtr := hdtr i
      have hline : (u.enterPowerdown s.meteredLines.length).line i = _ := hlines i
      have hup (hm : (s.line i).state.metered = true) : (t.line i).state = .hangup :=
        hend.hungUp rfl i ((s.mem_meteredLines i).2 hm)
      rw [hline] at hdtr ⊢
      refine ⟨?_, hdtr, fun ha => ?_, fun ha hm => ?_, fun hm => ?_⟩
      · split
        next hm => rw [hup hm]; rfl
        next =>
          split
          next => rfl
          next ha => exact Bool.eq_false_iff.2 ha
      · rw [if_neg fun hm => Bool.false_ne_true (ha.symm.trans (LineState.answered_of_metered hm)),
          if_neg (by simp [ha])]
      · rw [if_neg (by simp [hm]), if_pos ha]
      · obtain ⟨-, hsession, hended⟩ := hend.claimed hm
        rw [if_pos hm]
        exact ⟨hup hm, hsession, hended⟩

/-! ### The RESET request -/

/-- A start-up finds nothing to recover in a good store without valid entries (R155, R156). -/
theorem Store.startUp_unclaimed {st : Store} (hgood : st.headerGood = true) (hnone : ∀ i, st.checkpoint i = none) :
    st.startUp = (st, .intact, 0) := by
  have hconvert (is : List LineId) : is.foldl Store.convert (st, 0) = (st, 0) := by
    induction is with
    | nil => rfl
    | cons i is ih => rw [List.foldl_cons, Store.convert, hnone]; exact ih
  rw [Store.startUp, if_pos hgood, hconvert]

theorem State.headFrame_asked {s : State} {kind label : Byte} {fields : List Byte} (h : s.Asked kind label fields) :
    s.headFrame = some (kind, label, fields) := by
  obtain ⟨rest, hrest⟩ := List.head?_eq_some_iff.1 h.head
  rw [State.headFrame, hrest]

theorem exec_reset {s : State} {label : Byte} {fields : List Byte} {pins : Pins} (h : s.Asked 0x0A label fields) :
    exec (.reset pins) s = .next ((s.massEnd .reset).hangupAnswered.startUp .resetRequest pins) := by
  have htake : s.mayTake = true := by simp [State.mayTake, h.service, h.room]
  rw [exec, execReset, State.whenRunning_running h.running, State.headFrame_asked h]
  exact congrArg _ (if_pos ⟨htake, rfl, h.label⟩)

/-- Settles O18: the mass end of reason RESET leaves a store without valid entries, from which the start-up recovers
nothing (R141, R155, R156). -/
theorem resetRequestClosesAndStartsUp : Obligations.ResetRequestClosesAndStartsUp := by
  intro s label fields pins hq hr hstore
  have hexec := exec_reset (pins := pins) hq
  have hend := State.massEnd_massEnded hr .reset
  have hsound : (s.massEnd .reset).Sound := State.Sound.massEnd ⟨⟨hr, hstore⟩, hq.running⟩ .reset
  generalize s.massEnd .reset = t at hend hexec hsound
  obtain ⟨ended, hrecords, hlength, hreasons⟩ := hend.records
  have hnone := hend.entries_empty hstore hq.running
  have houtside := hend.outside.trans t.sameOutside_hangupAnswered
  have hstored : t.hangupAnswered.store = t.store := (congrArg State.store t.hangupAnswered_frame :)
  have hcount : t.store.count = s.store.count + s.meteredLines.length := by
    rw [← hsound.store.counted, ← hstore.counted, ← hlength, hrecords, List.length_append]
  have hscans : t.hangupAnswered.scans = s.scans := (congrArg State.scans houtside :)
  have hpending : t.hangupAnswered.pending = s.pending := (congrArg State.pending houtside :)
  generalize t.hangupAnswered = u at hexec hstored hscans hpending
  have hstart : u.startUp .resetRequest pins
      = { u.volatileStart pins (some ⟨.resetRequest, .intact, t.store.count, 0⟩) with store := t.store } := by
    rw [State.startUp, hstored, Store.startUp_unclaimed hsound.store.good hnone]
  rw [hstart, hcount] at hexec
  refine ⟨_, ended, hexec, hrecords, hlength, hreasons, hnone, u.orders, ?_⟩
  rw [State.volatileStart, hscans, hpending]
  rfl

end Sys2Proof.Machine
end

section
/-! The charge store's own requests and the monitor's settings (O15, O30). -/

namespace Sys2Proof.Machine

/-! ### SET MONITOR -/

/-- The silence action of a code byte (R166). -/
theorem SilenceAction.ofCode_eq (b : Byte) : SilenceAction.ofCode b
    = if 2 < b.toNat then Option.none else some (if b = 0 then .none else if b = 1 then .refuse else .hangup) := by
  split
  next h =>
    have h0 : b ≠ 0 := by rintro rfl; simp at h
    have h1 : b ≠ 1 := by rintro rfl; simp at h
    have h2 : b ≠ 2 := by rintro rfl; simp at h
    rw [SilenceAction.ofCode, if_neg h0, if_neg h1, if_neg h2]
  next h => rcases toNat_le_two h with rfl | rfl | rfl <;> rfl

/-- The reply gives an action back by the byte that named it (R166). -/
theorem SilenceAction.code_ofCode {b : Byte} {a : SilenceAction} (h : SilenceAction.ofCode b = some a) :
    a.code = b := by
  unfold SilenceAction.ofCode at h
  split_ifs at h <;> cases h <;> exact Eq.symm ‹_›

/-- The checks of SET MONITOR on its fields, in their order, with their numbers (R166; log 27). -/
def monitorChecks (action m1 m2 m3 m4 : Byte) : List (Bool × Byte) :=
  [(decide (2 < action.toNat), 2), (decide (1 < m1.toNat), 3), (decide (1 < m2.toNat), 4),
    (decide (1 < m3.toNat), 5), (decide (1 < m4.toNat), 6)]

section
variable {s : State} {label period action m1 m2 m3 m4 : Byte} {level : Nat} {fields rest : List Byte}

/-- The first failing check names its field (R166). -/
theorem checkMonitor_error (x : Bool × Byte) (hx : (monitorChecks action m1 m2 m3 m4).find? (·.1) = some x) :
    checkMonitor action m1 m2 m3 m4 = .error x.2.toNat := by
  have one (b : Byte) (h : decide (1 < b.toNat) = false) : ∃ v, boolOf b = some v :=
    ⟨_, (boolOf_eq b).trans (if_neg (of_decide_eq_false h))⟩
  have tooBig (b : Byte) (h : decide (1 < b.toNat) = true) : boolOf b = none :=
    (boolOf_eq b).trans (if_pos (of_decide_eq_true h))
  unfold checkMonitor
  exact check_step 2 (fun h => (SilenceAction.ofCode_eq _).trans (if_pos (of_decide_eq_true h)))
    (fun _ _ => check_step 3 (tooBig _) (fun _ _ => check_step 4 (tooBig _) (fun _ _ => check_step 5 (tooBig _)
      (fun _ _ => check_step 6 (tooBig _) (fun _ _ _ h => by simp at h) (one _)) (one _)) (one _)) (one _))
    (fun h => ⟨_, (SilenceAction.ofCode_eq _).trans (if_neg (of_decide_eq_false h))⟩) x hx

/-- With no failing check the action and the mask are taken (R166). -/
theorem checkMonitor_ok (hx : (monitorChecks action m1 m2 m3 m4).find? (·.1) = none) :
    checkMonitor action m1 m2 m3 m4
      = .ok (if action = 0 then .none else if action = 1 then .refuse else .hangup,
          ⟨decide (m1 = 1), decide (m2 = 1), decide (m3 = 1), decide (m4 = 1)⟩) := by
  simp only [monitorChecks, List.find?_eq_none, List.mem_cons, List.not_mem_nil, or_false, forall_eq_or_imp,
    forall_eq, decide_eq_true_eq] at hx
  obtain ⟨ha, h1, h2, h3, h4⟩ := hx
  rw [checkMonitor, SilenceAction.ofCode_eq, if_neg ha, boolOf_eq m1, if_neg h1, boolOf_eq m2, if_neg h2,
    boolOf_eq m3, if_neg h3, boolOf_eq m4, if_neg h4]
  rfl

/-- No failing check leaves an action byte that is an action's code (R166). -/
theorem action_code_of_checks (hx : (monitorChecks action m1 m2 m3 m4).find? (·.1) = none) :
    SilenceAction.code (if action = 0 then .none else if action = 1 then .refuse else .hangup) = action := by
  simp only [monitorChecks, List.find?_eq_none, List.mem_cons, forall_eq_or_imp, decide_eq_true_eq] at hx
  obtain ⟨ha, -⟩ := hx
  exact SilenceAction.code_ofCode ((SilenceAction.ofCode_eq action).trans (if_neg ha))

/-- The fields of SET MONITOR read in the order of their layout (section 11.2). -/
theorem readSetMonitor_eq (h : level < 65536) :
    readSetMonitor ([period, action, m1, m2, m3, m4] ++ be16 level ++ rest)
      = some (period, action, m1, m2, m3, m4, level) := by
  rw [List.append_assoc]
  show (u16 (be16 level ++ rest) >>= fun p => some (period, action, m1, m2, m3, m4, p.1)) = _
  rw [u16_be16 h]; rfl

theorem exec_setMonitor (h : s.Asked 0x09 label fields) :
    exec .setMonitor s = .next ((setMonitorReq fields s.dropFrame).1.pushReply
      ⟨0x09 + 0x80, label, (setMonitorReq fields s.dropFrame).2.1, (setMonitorReq fields s.dropFrame).2.2⟩) :=
  State.request_asked h setMonitorReq

theorem setMonitorReq_badField (hr : readSetMonitor fields = some (period, action, m1, m2, m3, m4, level)) {n : Nat}
    (hc : checkMonitor action m1 m2 m3 m4 = .error n) : setMonitorReq fields s = (s, answerBad n) := by
  simp only [setMonitorReq, withFields, hr, hc]

/-- With the fields good the settings are replaced and the monitor restarts in OPEN (R154, R165, R166). -/
theorem setMonitorReq_taken (hr : readSetMonitor fields = some (period, action, m1, m2, m3, m4, level))
    {a : SilenceAction} {mask : Mask} (hc : checkMonitor action m1 m2 m3 m4 = .ok (a, mask)) :
    setMonitorReq fields s =
      ({ s with
          chargeArmed := decide (min level 2048 ≠ 0 ∧ s.store.count < min level 2048)
          link := { s.link with
            period := period.toNat
            action := a
            mask := mask
            chargeLevel := min level 2048
            monitor := if s.service = .opened then (if period = 0 then none else some (period.toNat * 100))
              else s.link.monitor } },
        answerDone ([period, a.code, m1, m2, m3, m4] ++ be16 (min level 2048))) := by
  have hperiod : period.toNat = 0 ↔ period = 0 := ⟨fun h => BitVec.eq_of_toNat_eq h, fun h => h ▸ rfl⟩
  simp only [setMonitorReq, withFields, hr, hc, Link.startMonitor, hperiod, Bool.decide_and]
  split <;> rfl

end

/-- Settles O15: the fields are checked in their order, and then replace the settings (R154, R166). -/
theorem setMonitorReplacesTheSettings : Obligations.SetMonitorReplacesTheSettings := by
  intro s label period action m1 m2 m3 m4 level rest hlevel hq checks hchecks
  have hr := readSetMonitor_eq (period := period) (action := action) (m1 := m1) (m2 := m2) (m3 := m3) (m4 := m4)
    (rest := rest) hlevel
  obtain rfl : checks = monitorChecks action m1 m2 m3 m4 := hchecks
  refine ⟨fun c hc => ?_, fun hc => ?_⟩
  · rw [exec_setMonitor hq, setMonitorReq_badField hr (checkMonitor_error c hc)]
    simp only [answerBad, byteOf, BitVec.ofNat_toNat, BitVec.setWidth_eq]
    rfl
  · rw [exec_setMonitor hq, setMonitorReq_taken hr (checkMonitor_ok hc), action_code_of_checks hc]
    rfl

/-! ### READ CHARGES and RELEASE CHARGES -/

section
variable {s : State} {label : Byte} {fields rest : List Byte}

theorem exec_readCharges (h : s.Asked 0x28 label fields) :
    exec .readCharges s = .next ((readChargesReq fields s.dropFrame).1.pushReply
      ⟨0x28 + 0x80, label, (readChargesReq fields s.dropFrame).2.1, (readChargesReq fields s.dropFrame).2.2⟩) :=
  State.request_asked h readChargesReq

theorem exec_releaseCharges (h : s.Asked 0x29 label fields) :
    exec .releaseCharges s = .next ((releaseChargesReq fields s.dropFrame).1.pushReply
      ⟨0x29 + 0x80, label, (releaseChargesReq fields s.dropFrame).2.1, (releaseChargesReq fields s.dropFrame).2.2⟩) :=
  State.request_asked h releaseChargesReq

/-- The count of READ CHARGES is clamped to 1 to 8 (R151). -/
theorem readChargesReq_eq (s : State) (count : Byte) (rest : List Byte) {n k : Nat} (hn : n = max 1 (min 8 count.toNat))
    (hk : k = min n s.store.count) :
    readChargesReq (count :: rest) s = ({ s with readMark := max s.readMark k },
      answerDone ([byteOf n, byteOf k] ++ be16 s.store.count ++ be16 (max s.readMark k)
        ++ (s.store.records.take k).flatMap recordBytes)) := by
  have hclamp : (if count.toNat < 1 then 1 else if 8 < count.toNat then 8 else count.toNat) = n := by
    split_ifs <;> omega
  simp only [readChargesReq, withFields, u8, hclamp, ← hk]

/-- Only records that have been read are released (R152). -/
theorem releaseChargesReq_eq (s : State) {count n : Nat} (h : count < 65536) (rest : List Byte)
    (hn : n = min count s.readMark) :
    releaseChargesReq (be16 count ++ rest) s = (s.release n,
      answerDone (be16 n ++ be16 (s.release n).store.count ++ be16 (s.release n).readMark)) := by
  simp only [releaseChargesReq, withFields, u16_be16 h, ← hn]

/-- A release of some records: the list, the header and the read mark move on, and the charge level may be armed (R144,
R152, R154). -/
theorem State.release_pos (s : State) {n : Nat} (h : n ≠ 0) :
    s.release n = { s with
      store := {
        records := s.store.records.drop n
        count := s.store.count - n
        oldest := (s.store.oldest + n) % 2048
        nextSerial := s.store.nextSerial
        integrity := integrityOf (s.store.count - n) ((s.store.oldest + n) % 2048) s.store.nextSerial
        checkpoints := s.store.checkpoints }
      readMark := s.readMark - n
      chargeArmed := s.chargeArmed || (s.link.chargeLevel ≠ 0 && s.store.count - n < s.link.chargeLevel) } := by
  rw [State.release, if_neg h, Store.release, if_neg h]
  rfl

end

/-- Settles O30: the clamped count and the read mark bound what is read and released (R150 to R152). -/
theorem chargesAreReadAndReleased : Obligations.ChargesAreReadAndReleased := by
  refine ⟨fun s label count rest n k hq hn hk => ?_,
    fun s label count n rest hcount hq hn => ⟨fun h0 => ?_, fun h0 => ?_⟩⟩
  · rw [exec_readCharges hq, readChargesReq_eq s.dropFrame count rest hn hk]
    rfl
  · rw [exec_releaseCharges hq, releaseChargesReq_eq s.dropFrame hcount rest hn, State.release, if_pos h0, h0]
    rfl
  · rw [exec_releaseCharges hq, releaseChargesReq_eq s.dropFrame hcount rest hn, State.release_pos _ h0]
    rfl

end Sys2Proof.Machine
end

section
/-! Retained memory as bytes: header, record slots, records and checkpoint entries (O31). -/

namespace Sys2Proof.Machine

/-! ### Numbers as bytes -/

theorem ofBytes_byteOf {n : Nat} (h : n < 256) : ofBytes [byteOf n] = n := by
  have hn := byteOf_toNat_of_lt h
  show 0 * 256 + (byteOf n).toNat = n
  omega

theorem ofBytes_be16 {n : Nat} (h : n < 65536) : ofBytes (be16 n) = n := by
  simp only [be16, ofBytes, List.foldl_cons, List.foldl_nil, byteOf_toNat]
  omega

theorem ofBytes_be24 {n : Nat} (h : n < 16777216) : ofBytes (be24 n) = n := by
  simp only [be24, ofBytes, List.foldl_cons, List.foldl_nil, byteOf_toNat]
  omega

theorem ofBytes_be32 {n : Nat} (h : n < 4294967296) : ofBytes (be32 n) = n := by
  simp only [be32, ofBytes, List.foldl_cons, List.foldl_nil, byteOf_toNat]
  omega

/-! ### Record slots -/

section
variable {st : Store}

/-- The slots are the places of the list, counted from the oldest (R143). -/
theorem Store.slot_add {o k : Nat} (ho : st.oldest = o % 2048) (hk : k < 2048) :
    st.slot ((o + k) % 2048) = st.records[k]? := by
  have hindex : ((o + k) % 2048 + 2048 - st.oldest % 2048) % 2048 = k := by omega
  rw [Store.slot, Config.storeSize, if_pos (Nat.mod_lt _ (by decide)), hindex]

theorem Store.slotBytes_add {o k : Nat} (ho : st.oldest = o % 2048) (hk : k < 2048) :
    st.slotBytes ((o + k) % 2048) = st.records[k]?.map recordBytes := by
  rw [Store.slotBytes, Store.slot_add ho hk]

/-- Every slot is reached from the oldest (R143). -/
theorem exists_slot_add (o : Nat) {slot : Nat} (h : slot < 2048) : ∃ k < 2048, slot = (o + k) % 2048 :=
  ⟨(slot + 2048 - o % 2048) % 2048, by omega, by omega⟩

/-- An append writes the slot after the newest record (R143, R145). -/
theorem Store.append_slotBytes (hlen : st.records.length = st.count) (hcount : st.count < 2048)
    (hold : st.oldest < 2048) (i : LineId) (c : Charge) (r : EndReason) (recovered : Bool) :
    (st.append i c r recovered).slotBytes ((st.oldest + st.count) % 2048)
      = some (recordBytes ⟨st.nextSerial, c, r, recovered⟩) := by
  have ho : (st.append i c r recovered).oldest = st.oldest % 2048 := (Nat.mod_eq_of_lt hold).symm
  rw [Store.slotBytes_add ho hcount, Store.append_records, ← hlen, List.getElem?_concat_length]
  rfl

/-- It writes no other (R143, R145). -/
theorem Store.append_slotBytes_ne (hlen : st.records.length = st.count) (hold : st.oldest < 2048) {slot : Nat}
    (hslot : slot < 2048) (hne : slot ≠ (st.oldest + st.count) % 2048) (i : LineId) (c : Charge) (r : EndReason)
    (recovered : Bool) : (st.append i c r recovered).slotBytes slot = st.slotBytes slot := by
  obtain ⟨k, hk, rfl⟩ := exists_slot_add st.oldest hslot
  have ho : st.oldest = st.oldest % 2048 := (Nat.mod_eq_of_lt hold).symm
  have hkc : k ≠ st.records.length := fun e => hne (by rw [e, hlen])
  rw [Store.slotBytes_add (st := st.append i c r recovered) ho hk, Store.slotBytes_add ho hk, Store.append_records]
  rcases Nat.lt_or_gt_of_ne hkc with hlt | hgt
  · rw [List.getElem?_append_left hlt]
  · rw [List.getElem?_eq_none (by rw [List.length_append]; exact hgt), List.getElem?_eq_none hgt.le]

/-- A release empties the slots of the records removed, and no other (R143, R152). -/
theorem Store.release_slotBytes (hlen : st.records.length = st.count) (hcount : st.count ≤ 2048)
    (hold : st.oldest < 2048) {n k : Nat} (hn : n ≤ st.count) (hk : k < 2048) :
    (st.release n).slotBytes ((st.oldest + k) % 2048)
      = if k < n then none else st.slotBytes ((st.oldest + k) % 2048) := by
  rcases Nat.eq_zero_or_pos n with rfl | hpos
  · rw [if_neg (Nat.not_lt_zero k)]; rfl
  have hrecords : (st.release n).records = st.records.drop n := by rw [Store.release, if_neg hpos.ne']; rfl
  have holdest : (st.release n).oldest = (st.oldest + n) % 2048 := by rw [Store.release, if_neg hpos.ne']; rfl
  split
  next hkn =>
    have hslot : (st.oldest + k) % 2048 = (st.oldest + n + (k + 2048 - n)) % 2048 := by omega
    have hnone : (st.records.drop n)[k + 2048 - n]? = none :=
      List.getElem?_eq_none (by rw [List.length_drop]; omega)
    rw [hslot, Store.slotBytes_add holdest (by omega), hrecords, hnone]
    rfl
  next hkn =>
    have hslot : (st.oldest + k) % 2048 = (st.oldest + n + (k - n)) % 2048 := by omega
    rw [Store.slotBytes_add (Nat.mod_eq_of_lt hold).symm hk, hslot, Store.slotBytes_add holdest (by omega), hrecords,
      List.getElem?_drop, Nat.add_sub_cancel' (Nat.not_lt.1 hkn)]

end

/-! ### Records and checkpoint entries -/

/-- The 22 bytes of a charge between its account and its end reason (R173). -/
def chargeFields (c : Charge) (recovered : Bool) : List Byte :=
  [byteOf c.cls.val, byteOf c.line.val, byteOf c.speed.val, flagsByte c recovered]
  ++ be16 c.startDay.toNat ++ be24 c.startSecond ++ be16 c.endDay.toNat ++ be24 c.endSecond
  ++ be32 c.seconds ++ be32 c.units

section
variable (serial : Nat) (c : Charge) (recovered : Bool) (reason : Byte)

theorem chargeBytes_eq : chargeBytes serial c recovered reason
    = be32 serial ++ padName c.account ++ chargeFields c recovered ++ [reason] := by
  simp only [chargeBytes, chargeFields, List.append_assoc]

theorem chargeBytes_untilReason_length :
    (be32 serial ++ padName c.account ++ chargeFields c recovered).length = 34 := by
  rw [List.length_append, List.length_append, padName_length]; rfl

theorem chargeBytes_length : (chargeBytes serial c recovered reason).length = 35 := by
  rw [chargeBytes_eq, List.length_append, chargeBytes_untilReason_length]; rfl

theorem chargeBytes_serial : (chargeBytes serial c recovered reason).take 4 = be32 serial := rfl

theorem chargeBytes_account : ((chargeBytes serial c recovered reason).drop 4).take 8 = padName c.account := by
  rw [chargeBytes_eq, List.append_assoc, List.append_assoc]
  exact List.take_left' (padName_length _)

/-- What stands from offset 12 on is of fixed size (R173). -/
theorem chargeBytes_slice (offset n : Nat) : ((chargeBytes serial c recovered reason).drop (12 + offset)).take n
    = ((chargeFields c recovered ++ [reason]).drop offset).take n := by
  have hlen : (be32 serial ++ padName c.account).length = 12 := by rw [List.length_append, padName_length]; rfl
  rw [chargeBytes_eq, List.append_assoc, ← List.drop_drop, List.drop_left' hlen]

/-- Two layouts of a charge that differ in the end reason differ in the last byte alone (R173). -/
theorem chargeBytes_reason (reason' : Byte) : chargeBytes serial c recovered reason'
    = (chargeBytes serial c recovered reason).take 34 ++ [reason'] := by
  rw [chargeBytes_eq, chargeBytes_eq, List.take_left' (chargeBytes_untilReason_length ..)]

end

/-- The four flags stand in bits 0 to 3, and nothing above them (R173). -/
theorem flagsByte_bits (c : Charge) (recovered : Bool) :
    (flagsByte c recovered).getLsbD 0 = c.clockSet ∧ (flagsByte c recovered).getLsbD 1 = c.saturated
      ∧ (flagsByte c recovered).getLsbD 2 = c.graceFlag ∧ (flagsByte c recovered).getLsbD 3 = recovered
      ∧ (flagsByte c recovered).toNat < 16 := by
  have hbits : ∀ b₀ b₁ b₂ b₃ : Bool, ∀ f, f = byteOf (b₀.toNat + 2 * b₁.toNat + 4 * b₂.toNat + 8 * b₃.toNat) →
      f.getLsbD 0 = b₀ ∧ f.getLsbD 1 = b₁ ∧ f.getLsbD 2 = b₂ ∧ f.getLsbD 3 = b₃ ∧ f.toNat < 16 := by
    rintro b₀ b₁ b₂ b₃ f rfl
    revert b₀ b₁ b₂ b₃
    decide
  exact hbits _ _ _ _ _ rfl

/-- Settles O31: the header is four fields of fixed size, the slots are the list counted from the oldest
(`Store.slotBytes_add`), and a record's fields of fixed size follow its account (R143, R144, R173). -/
theorem retainedMemoryLayout : Obligations.RetainedMemoryLayout := by
  refine ⟨fun st hcount hold hint => ⟨rfl, ofBytes_be16 hcount, ofBytes_be16 hold, ofBytes_be32 st.nextSerial.isLt,
    ofBytes_be16 hint⟩, fun st hlen hcount hold => ⟨fun k hk => Store.slotBytes_add (Nat.mod_eq_of_lt hold).symm hk, ?_,
    fun n k hn hk => Store.release_slotBytes hlen hcount hold hn hk⟩, ?_⟩
  · rintro i c r recovered slot hlt rfl
    exact ⟨Store.append_slotBytes hlen hlt hold i c r recovered,
      fun k hk hne => Store.append_slotBytes_ne hlen hold hk hne i c r recovered⟩
  · rintro r c bytes slice rfl haccount hstart hend hseconds hunits rfl rfl
    have field (offset n : Nat) : (((recordBytes r).drop (12 + offset)).take n) = _ :=
      chargeBytes_slice r.serial.toNat r.charge r.recovered r.reason.code offset n
    obtain ⟨hclock, hsaturated, hgrace, hrecovered, hflags⟩ := flagsByte_bits r.charge r.recovered
    refine ⟨chargeBytes_length .., ofBytes_be32 r.serial.isLt, (chargeBytes_account ..).trans (padName_eq haccount),
      (congrArg ofBytes (field 0 1)).trans (ofBytes_byteOf (by omega)),
      (congrArg ofBytes (field 1 1)).trans (ofBytes_byteOf (by omega)),
      (congrArg ofBytes (field 2 1)).trans (ofBytes_byteOf (by omega)),
      ⟨flagsByte r.charge r.recovered, field 3 1, hclock, hsaturated, hgrace, hrecovered, hflags⟩,
      (congrArg ofBytes (field 4 2)).trans (ofBytes_be16 r.charge.startDay.isLt),
      (congrArg ofBytes (field 6 3)).trans (ofBytes_be24 (by omega)),
      (congrArg ofBytes (field 9 2)).trans (ofBytes_be16 r.charge.endDay.isLt),
      (congrArg ofBytes (field 11 3)).trans (ofBytes_be24 (by omega)),
      (congrArg ofBytes (field 14 4)).trans (ofBytes_be32 hseconds),
      (congrArg ofBytes (field 18 4)).trans (ofBytes_be32 hunits), field 22 1, ?_⟩
    exact chargeBytes_reason 0 r.charge false r.reason.code 0

end Sys2Proof.Machine
end

section
/-! Supply, reset and start-up: what a hold keeps (O39), and what a start-up restores and recovers (O38). -/

namespace Sys2Proof.Machine

/-! ### Held in reset, or without power -/

theorem line_linesAtStart {s : State} {pins : Pins} (h : s.lines = linesAtStart pins) (i : LineId) :
    s.line i = Line.atStart (pins.ri.getLsbD i.val) (pins.cd.getLsbD i.val) := by
  rw [State.line, h, linesAtStart, Vector.get_eq_getElem, Vector.getElem_ofFn]

theorem line_linesAtStart_low {s : State} (h : s.lines = linesAtStart ⟨0, 0, 0⟩) (i : LineId) :
    s.line i = Line.atStart false false := by
  rw [line_linesAtStart h]; simp

/-- The pin asserted on a part that has power (R168). -/
theorem exec_resetPinAsserted {s : State} (h : s.mode ≠ .unpowered) :
    exec .resetPinAsserted s = .next { s.volatileStart ⟨0, 0, 0⟩ none with mode := .inReset } := by
  rw [exec, execResetPinAsserted]
  split
  · rfl
  · rfl
  next hm => exact absurd hm h

theorem exec_resetPinAsserted_unpowered {s : State} (h : s.mode = .unpowered) :
    exec .resetPinAsserted s = .next s := by
  rw [exec, execResetPinAsserted, h]

/-- The pin released on a part that has power (R168, R170). -/
theorem exec_resetPin {s : State} (h : s.mode ≠ .unpowered) (pins : Pins) (pfw : Bool) :
    exec (.resetPin pins pfw) s = .next (s.startUpSeeing .resetPin pins pfw) := by
  rw [exec, execResetPin]
  split
  · rfl
  · rfl
  next hm => exact absurd hm h

theorem exec_resetPin_unpowered {s : State} (h : s.mode = .unpowered) (pins : Pins) (pfw : Bool) :
    exec (.resetPin pins pfw) s = .next s := by
  rw [exec, execResetPin, h]

/-- The commands that a part held in reset or without power may obey: those of the supply and of the RESET pin. -/
def ofSupplyOrPin : Instr → Bool
  | .powerOn _ _ _ | .resetPin _ _ | .resetPinAsserted | .powerLoss => true
  | _ => false

/-- Every other command waits for a running controller (log 11). -/
theorem exec_stopped {s : State} (h : s.mode ≠ .running) {c : Instr} (hc : ofSupplyOrPin c = false) :
    exec c s = .next s := by
  cases c
  case powerOn | resetPin | resetPinAsserted | powerLoss => cases hc
  all_goals exact congrArg Host.Outcome.next (if_neg h)

/-- Settles O39: both holds start the volatile state alone, and all but the supply and the pin wait for a running
controller (R143, R145, R168). -/
theorem holdAndPowerLossKeepTheStore : Obligations.HoldAndPowerLossKeepTheStore := by
  refine fun s => ⟨fun c mode hc => ?_, fun h => ⟨exec_resetPinAsserted_unpowered h, exec_resetPin_unpowered h⟩,
    fun h c hon hpin hassert hloss => exec_stopped h ?_⟩
  · rcases hc with ⟨rfl, rfl⟩ | ⟨rfl, rfl, hm⟩
    · exact ⟨_, rfl, rfl, rfl, rfl, rfl, rfl, rfl, rfl, rfl, line_linesAtStart_low rfl⟩
    · exact ⟨_, exec_resetPinAsserted hm, rfl, rfl, rfl, rfl, rfl, rfl, rfl, rfl, line_linesAtStart_low rfl⟩
  · cases c
    case powerOn pins pfw ram => exact absurd rfl (hon pins pfw ram)
    case resetPin pins pfw => exact absurd rfl (hpin pins pfw)
    case resetPinAsserted => exact absurd rfl hassert
    case powerLoss => exact absurd rfl hloss
    all_goals rfl

/-! ### The entries recovered at a start-up -/

/-- The records that recovered entries become, with the next serials from `serial` on (R156). -/
def recoveredRecords (serial : BitVec 32) (charges : List Charge) : List Record :=
  charges.zipIdx.map fun p => ⟨serial + BitVec.ofNat 32 p.2, p.1, .lost, true⟩

theorem recoveredRecords_length (serial : BitVec 32) (charges : List Charge) :
    (recoveredRecords serial charges).length = charges.length := by simp [recoveredRecords]

theorem recoveredRecords_cons (serial : BitVec 32) (c : Charge) (charges : List Charge) :
    recoveredRecords serial (c :: charges)
      = ⟨serial, c, .lost, true⟩ :: recoveredRecords (serial + 1) charges := by
  have hshift (k : Nat) : serial + BitVec.ofNat 32 (k + 1) = serial + 1 + BitVec.ofNat 32 k := by bv_omega
  rw [recoveredRecords, List.zipIdx_cons, List.zipIdx_succ, List.map_cons, List.map_map, BitVec.add_zero]
  exact congrArg _ (List.map_congr_left fun p _ => by rw [Function.comp_apply, hshift])

section
variable {st : Store} {i : LineId} {c : Charge}

/-- A valid entry has a place among the records (R148). -/
theorem Store.Lawful.count_lt (h : st.Lawful) (hi : (st.checkpoint i).isSome = true) : st.count < Config.storeSize := by
  have hvalid := st.validCount_setCheckpoint i none
  rw [hi, Bool.toNat_true, Option.isSome_none, Bool.toNat_false] at hvalid
  have hsum : st.count + st.validCount ≤ Config.storeSize := h.room
  omega

theorem Store.convert_none (hi : st.checkpoint i = none) (k : Nat) : Store.convert (st, k) i = (st, k) := by
  simp only [Store.convert, hi]

/-- In a lawful store no valid entry is lost to a full list (R148, R156). -/
theorem Store.Lawful.convert_some (h : st.Lawful) (hi : st.checkpoint i = some c) (k : Nat) :
    Store.convert (st, k) i = (st.append i c .lost true, k + 1) := by
  have hlt := h.count_lt (i := i) (by rw [hi]; rfl)
  simp only [Store.convert, hi]
  exact if_pos hlt

/-- What the conversion of the entries of `is` makes of the list and of the header (R156). -/
structure Store.Recovers (st : Store) (charges : List Charge) (st' : Store) : Prop where
  records : st'.records = st.records ++ recoveredRecords st.nextSerial charges
  count : st'.count = st.count + charges.length
  oldest : st'.oldest = st.oldest
  nextSerial : st'.nextSerial = st.nextSerial + BitVec.ofNat 32 charges.length

theorem Store.Recovers.nil (st : Store) : st.Recovers [] st where
  records := (List.append_nil _).symm
  count := rfl
  oldest := rfl
  nextSerial := (BitVec.add_zero _).symm

/-- One record more before the others (R145, R156). -/
theorem Store.Recovers.cons {charges : List Charge} {st' : Store}
    (h : (st.append i c .lost true).Recovers charges st') : st.Recovers (c :: charges) st' where
  records := by
    rw [h.records, Store.append_records, Store.append_nextSerial, recoveredRecords_cons, List.append_assoc]; rfl
  count := by rw [h.count, Store.append_count, List.length_cons]; omega
  oldest := h.oldest
  nextSerial := by rw [h.nextSerial, Store.append_nextSerial, List.length_cons]; bv_omega

/-- The conversions in the order of `is` recover its valid entries in that order (R156). -/
theorem Store.Lawful.foldl_convert_recovers (h : st.Lawful) {is : List LineId} (hnd : is.Nodup) (k : Nat) :
    st.Recovers (is.filterMap st.checkpoint) (is.foldl Store.convert (st, k)).1
      ∧ (is.foldl Store.convert (st, k)).2 = k + (is.filterMap st.checkpoint).length := by
  induction is generalizing st k with
  | nil => exact ⟨.nil st, rfl⟩
  | cons i is ih =>
    obtain ⟨hi, hnd⟩ := List.nodup_cons.1 hnd
    rw [List.foldl_cons]
    cases hc : st.checkpoint i with
    | none =>
      rw [Store.convert_none hc, List.filterMap_cons_none hc]
      exact ih h hnd k
    | some c =>
      have hlaw : (st.append i c .lost true).Lawful := h.append (by rw [hc]; rfl) ..
      have hrest : is.filterMap (st.append i c .lost true).checkpoint = is.filterMap st.checkpoint :=
        List.filterMap_congr fun j hj =>
          (Store.append_checkpoints ..).trans (if_neg fun e : j = i => hi (e ▸ hj))
      obtain ⟨hrec, hcount⟩ := ih hlaw hnd (k + 1)
      rw [hrest] at hrec hcount
      rw [h.convert_some hc, List.filterMap_cons_some hc]
      refine ⟨hrec.cons, hcount.trans ?_⟩
      rw [List.length_cons]; omega

theorem Store.checkpoints_eq_empty (h : ∀ j, st.checkpoint j = none) : st.checkpoints = Vector.replicate 48 none :=
  Vector.eq_replicate_of_mem fun b hb => by
    obtain ⟨k, hk, rfl⟩ := Vector.getElem_of_mem hb
    exact h ⟨k, hk⟩

/-- A start-up on a lawful store (R155, R156). -/
theorem Store.Lawful.startUp_eq (h : st.Lawful) {recovered : List Record}
    (hrec : recovered = recoveredRecords st.nextSerial (allLines.filterMap st.checkpoint)) :
    st.startUp = ({
        records := st.records ++ recovered
        count := st.count + recovered.length
        oldest := st.oldest
        nextSerial := st.nextSerial + BitVec.ofNat 32 recovered.length
        integrity := integrityOf (st.count + recovered.length) st.oldest
          (st.nextSerial + BitVec.ofNat 32 recovered.length)
        checkpoints := Vector.replicate 48 none }, .intact, recovered.length) := by
  obtain ⟨hfold, htaken⟩ := h.foldl_convert_recovers nodup_allLines 0
  obtain ⟨hlaw, hentries⟩ := h.foldl_convert (p := (st, 0)) allLines
  have hgood := ((Store.headerGood_iff _).1 hlaw.good).1
  have hempty := Store.checkpoints_eq_empty fun j => (hentries j).trans (if_pos (mem_allLines j))
  have hlen : recovered.length = (allLines.filterMap st.checkpoint).length := hrec ▸ recoveredRecords_length ..
  rw [Store.startUp, if_pos h.good]
  generalize allLines.foldl Store.convert (st, 0) = p at hfold htaken hgood hempty
  obtain ⟨⟨records, count, oldest, nextSerial, integrity, checkpoints⟩, taken⟩ := p
  obtain ⟨hrecords, hcount, holdest, hserial⟩ := hfold
  dsimp only at hrecords hcount holdest hserial hgood hempty htaken
  rw [← hlen] at hcount hserial htaken
  rw [← hrec] at hrecords
  subst hrecords hcount holdest hserial hgood hempty
  rw [htaken, Nat.zero_add]

theorem Store.startUp_bad (h : st.headerGood = false) : st.startUp = (Store.emptied, .lost, 0) := by
  rw [Store.startUp, h]; rfl

end

/-! ### The state after a start-up -/

section
variable {s : State} {kind : StartKind} {pins : Pins}

/-- A start-up by what it makes of the store (R155, R170). -/
theorem State.startUp_of {store : Store} {verdict : Verdict} {n : Nat} (h : s.store.startUp = (store, verdict, n)) :
    s.startUp kind pins
      = { s.volatileStart pins (some ⟨kind, verdict, store.count, n⟩) with store := store } := by
  rw [State.startUp, h]

/-- The commands that start the part up with PFW clear, with the kinds of start-up they make (R155). -/
def StartsUpBy (s : State) (pins : Pins) (c : Instr) (kind : StartKind) : Prop :=
  c = .powerOn pins false .kept ∧ kind = .powerOn
    ∨ c = .resetPin pins false ∧ s.mode ≠ .unpowered ∧ kind = .resetPin
    ∨ c = .powerRecovery pins ∧ s.mode = .running ∧ s.service = .powerdown ∧ kind = .powerRecovery

theorem StartsUpBy.exec_eq {c : Instr} (h : StartsUpBy s pins c kind) : exec c s = .next (s.startUp kind pins) := by
  rcases h with ⟨rfl, rfl⟩ | ⟨rfl, hm, rfl⟩ | ⟨rfl, hm, hs, rfl⟩
  · rfl
  · exact exec_resetPin hm pins false
  · rw [exec, execPowerRecovery, State.whenRunning_running hm, if_pos hs]

/-- With PFW asserted the start-up of a pin or of the supply goes on into the power-fail warning (R170). -/
theorem StartsUpBy.exec_seeing {c c' : Instr} (h : StartsUpBy s pins c kind)
    (hc : c = .powerOn pins false .kept ∧ c' = .powerOn pins true .kept
      ∨ c = .resetPin pins false ∧ c' = .resetPin pins true) :
    exec c' s = .next (s.startUp kind pins).powerFail := by
  rcases h with ⟨rfl, rfl⟩ | ⟨rfl, hm, rfl⟩ | ⟨rfl, -⟩
  · obtain rfl : c' = .powerOn pins true .kept := by simpa using hc
    rfl
  · obtain rfl : c' = .resetPin pins true := by simpa using hc
    exact exec_resetPin hm pins true
  · simp at hc

theorem State.hangupAnswered_unanswered (ha : ∀ i, (s.line i).state.answered = false) : s.hangupAnswered = s := by
  have hlines : s.hangupAnswered.lines = s.lines := Vector.ext fun k hk =>
    (s.line_hangupAnswered ⟨k, hk⟩).trans (if_neg fun h => Bool.false_ne_true ((ha _).symm.trans h.1))
  rw [State.hangupAnswered_frame, hlines]

theorem State.powerFail_of_closed (h : s.service = .closed) :
    s.powerFail = State.enterPowerdown (s.massEnd .power).hangupAnswered s.meteredLines.length := by
  rw [State.powerFail, h]

/-- A power-fail warning on a part with every line idle or disabled ends nothing (R140, R169). -/
theorem State.powerFail_unanswered (h : s.service = .closed) (ha : ∀ i, (s.line i).state.answered = false) :
    s.powerFail = State.enterPowerdown { s with orders := s.orders.tail } 0 := by
  have hmetered : s.meteredLines = [] := List.eq_nil_iff_forall_not_mem.2 fun i hi => by
    have := LineState.answered_of_metered ((s.mem_meteredLines i).1 hi)
    rw [ha i] at this; cases this
  have hmass : s.massEnd .power = { s with orders := s.orders.tail } := by
    have horder := (s.takeOrder_spec (fun i : LineId => i.val) s.nodup_meteredLines).1
    rw [hmetered] at horder
    rw [State.massEnd, hmetered, List.perm_nil.1 horder]
    rfl
  rw [State.powerFail_of_closed h, hmetered, hmass,
    State.hangupAnswered_unanswered (s := { s with orders := s.orders.tail }) ha]
  rfl

/-- A start-up that finds PFW asserted enters POWERDOWN with a count of 0 (R170). -/
theorem State.startUp_powerFail : (s.startUp kind pins).powerFail = { s.startUp kind pins with
    pfw := true, service := .powerdown, orders := (s.startUp kind pins).orders.tail
    link := { (s.startUp kind pins).link with powerWarning := some ⟨1, 0⟩ } } := by
  have hidle (i : LineId) : ((s.startUp kind pins).line i).state.answered = false := by
    rw [line_linesAtStart (s := s.startUp kind pins) rfl]; rfl
  rw [State.powerFail_unanswered rfl hidle]
  rfl

end

/-- Settles O38: a start-up is its store's start-up (`Store.Lawful.startUp_eq`, `Store.startUp_bad`) in a state of
start-up values, and with PFW asserted the warning finds nothing to end (R155 to R157, R170). -/
theorem startUpsRestoreAndRecover : Obligations.StartUpsRestoreAndRecover := by
  intro s pins c kind start hc hstart
  have hstarts : StartsUpBy s pins c kind := hc
  subst hstart
  refine ⟨fun hstore recovered hrec => ?_, fun hbad => ?_, ?_, fun t ht c' hc' => ?_⟩
  · rw [hstarts.exec_eq, State.startUp_of (hstore.lawful.startUp_eq hrec)]
    rfl
  · rw [hstarts.exec_eq, State.startUp_of (Store.startUp_bad hbad)]
    rfl
  · have hbad : State.startUp { s with store := Store.bad } .powerOn pins = _ :=
      State.startUp_of (Store.startUp_bad Store.bad_headerGood)
    exact congrArg Host.Outcome.next hbad
  · rw [hstarts.exec_eq] at ht
    cases ht
    rw [hstarts.exec_seeing hc', State.startUp_powerFail]

end Sys2Proof.Machine
end

section
/-! Every command answers (O3), KEEPALIVE and STATUS (O10), and the arbiter's first choices (O33). -/

namespace Sys2Proof.Machine

/-! ### Every command answers -/

/-- Settles O3: a command of the RESET pin or of the supply answers in each mode and on each memory found, and every
other is its work on a running part (`State.whenRunning`), which answers whatever that work is. -/
theorem everyCommandAnswersNext : Obligations.EveryCommandAnswersNext := by
  intro c s
  cases c
  case resetPinAsserted =>
    by_cases hm : s.mode = .unpowered
    exacts [⟨_, exec_resetPinAsserted_unpowered hm⟩, ⟨_, exec_resetPinAsserted hm⟩]
  case resetPin pins pfw =>
    by_cases hm : s.mode = .unpowered
    exacts [⟨_, exec_resetPin_unpowered hm pins pfw⟩, ⟨_, exec_resetPin hm pins pfw⟩]
  case powerOn pins pfw ram =>
    cases ram
    all_goals exact ⟨_, rfl⟩
  all_goals exact ⟨_, rfl⟩

/-! ### KEEPALIVE and STATUS -/

/-- Settles O10: the answers of the two requests, STATUS with its items in their order (R167). -/
theorem keepaliveAndStatusAnswerDone : Obligations.KeepaliveAndStatusAnswerDone := by
  refine fun s label fields => ⟨fun h => State.request_asked h keepaliveReq, fun h => ?_⟩
  rw [← State.meteredLines_eq]
  exact State.request_asked h statusReq

/-! ### READY, replies and service events -/

section
variable {s : State}

/-- Ahead of the service flags the arbiter looks for READY and for a reply (R162, R170). -/
theorem State.choose_service {c : Choice} (hready : s.link.ready = none) (hreplies : s.link.replies = [])
    (hc : s.chooseService = some c) : s.choose = some c := by
  rw [State.choose, State.chooseReady, hready, State.chooseReply, hreplies, hc]
  rfl

/-- With nothing to send the transmitter is idle (R162). -/
theorem exec_arbiterChoice_none (h : s.mode = .running) (hc : s.choose = none) :
    exec .arbiterChoice s = .next { s with link := { s.link with tx := none } } := by
  rw [exec, execArbiterChoice, State.whenRunning_running h, hc]

/-- Without a held buffer no LINE DATA is chosen (R46, R162). -/
theorem State.chooseData_eq_none (h : ∀ i ses, (s.line i).session = some ses → ses.held = none) :
    s.chooseData = none := by
  refine List.findSome?_eq_none_iff.2 fun i _ => ?_
  cases hses : (s.line i).session with
  | none => rfl
  | some ses => rw [Option.bind_some, h i ses hses]; rfl

end

/-- Settles O33: READY, then the oldest reply, then the service flags in their order; and with no place of the arbiter's
order holding anything, no choice (R162, R163, R170). -/
theorem arbiterSendsReadyRepliesServiceEvents : Obligations.ArbiterSendsReadyRepliesServiceEvents := by
  intro s h
  refine ⟨fun r hr => exec_arbiterChoice_plain h ?_, fun hready => ⟨fun r rest hr => exec_arbiterChoice_plain h ?_,
    fun hreplies => ?_⟩, fun hahead hsilent hbudget hdata => exec_arbiterChoice_none h ?_⟩
  · rw [State.choose, State.chooseReady, hr]; rfl
  · rw [State.choose, State.chooseReady, hready, State.chooseReply, hr]; rfl
  · have service {body : List Byte} {t : State} (hc : s.chooseService = some (.plain body t)) :=
      exec_arbiterChoice_plain h (State.choose_service hready hreplies hc)
    refine ⟨fun f hf => service ?_, fun hwarning => ⟨fun f hf => service ?_, fun hlost => ⟨fun f hf => service ?_,
      fun hrestored hmask f hf => service ?_⟩⟩⟩
    · rw [State.chooseService, hf]; rfl
    · rw [State.chooseService, hwarning, hf]; rfl
    · rw [State.chooseService, hwarning, hlost, hf]; rfl
    · rw [State.chooseService, hwarning, hlost, hrestored, hmask, hf]; rfl
  · rw [State.choose_of_nothingAhead hahead, State.chooseLine_silent hsilent, State.chooseBudget_eq_none hbudget,
      State.chooseData_eq_none hdata]
    rfl

end Sys2Proof.Machine
end

section
/-! The receiver of the host link (O32). -/

namespace Sys2Proof.Machine

/-! ### The bytes of a frame, one by one -/

section
variable {s : State}

theorem exec_frameReceived (h : s.mode = .running) (bytes : List Byte) :
    exec (.frameReceived bytes) s = .next (bytes.foldl State.receiveByte s) := by
  rw [exec, execFrameReceived, State.whenRunning_running h]

theorem State.setReceiver_setReceiver (s : State) (r r' : Receiver) :
    (s.setReceiver r).setReceiver r' = s.setReceiver r' := rfl

theorem State.setReceiver_self {r : Receiver} (h : s.link.receiver = r) : s.setReceiver r = s := by
  subst h; rfl

theorem State.receiveByte_hunting (h : s.link.receiver = .hunting) (b : Byte) :
    s.receiveByte b = s.setReceiver (Receiver.hunt b) := by
  rw [State.receiveByte, h]

/-- The hunt passes over every byte but a start byte (R159). -/
theorem State.foldl_receiveByte_noise (h : s.link.receiver = .hunting) {noise : List Byte}
    (hn : ∀ b ∈ noise, b ≠ startByte) : noise.foldl State.receiveByte s = s := by
  induction noise with
  | nil => rfl
  | cons b noise ih =>
    have hb : s.receiveByte b = s := by
      rw [State.receiveByte_hunting h, Receiver.hunt, if_neg (hn b (List.mem_cons_self ..)), State.setReceiver_self h]
    rw [List.foldl_cons, hb]
    exact ih fun b' hb' => hn b' (List.mem_cons_of_mem _ hb')

/-- A second length byte that makes a good length begins the body (R159). -/
theorem State.receiveByte_length {hi lo : Byte} (h : s.link.receiver = .length [hi])
    (hl : 2 ≤ lengthOf hi lo ∧ lengthOf hi lo ≤ 400) : s.receiveByte lo = s.setReceiver (.body hi lo []) := by
  simp only [State.receiveByte, h, if_pos hl]

/-- A second length byte that makes a bad length is tallied, and the two bytes are hunted over (R159). -/
theorem State.receiveByte_badLength {hi lo : Byte} (h : s.link.receiver = .length [hi])
    (hl : ¬ (2 ≤ lengthOf hi lo ∧ lengthOf hi lo ≤ 400)) :
    s.receiveByte lo = { s with link := { s.link with
      badLength := min 65535 (s.link.badLength + 1), receiver := Receiver.resume hi lo } } := by
  simp only [State.receiveByte, h, if_neg hl]
  rfl

/-- The bytes of body and check gather until both are whole (R159). -/
theorem State.foldl_receiveByte_body (s : State) {hi lo : Byte} {got more : List Byte}
    (h : got.length + more.length < lengthOf hi lo + 2) :
    more.foldl State.receiveByte (s.setReceiver (.body hi lo got)) = s.setReceiver (.body hi lo (got ++ more)) := by
  induction more generalizing got with
  | nil => rw [List.append_nil]; rfl
  | cons b more ih =>
    rw [List.length_cons] at h
    have hgot : (got ++ [b]).length = got.length + 1 := List.length_append
    have hb : (s.setReceiver (.body hi lo got)).receiveByte b = s.setReceiver (.body hi lo (got ++ [b])) :=
      if_pos (by rw [hgot]; omega)
    rw [List.foldl_cons, hb, ih (by omega), List.append_assoc]
    rfl

/-- With the last byte of the check the frame is whole: a good check makes its body a valid frame, a bad one is tallied
and the frame discarded (R158, R159). -/
theorem State.receiveByte_last {hi lo c d : Byte} {body : List Byte}
    (h : s.link.receiver = .body hi lo (body ++ [c])) (hlen : body.length = lengthOf hi lo) :
    s.receiveByte d = if be16 (crc (hi :: lo :: body)).toNat = [c, d] then (s.setReceiver .hunting).validFrame body
      else { s with link := { s.link with
        receiver := .hunting, badCheck := min 65535 (s.link.badCheck + 1) } } := by
  have hgot : body ++ [c] ++ [d] = body ++ [c, d] := List.append_assoc ..
  have hwhole : ¬ (body ++ [c, d]).length < lengthOf hi lo + 2 := by
    rw [List.length_append, hlen]; exact Nat.lt_irrefl _
  have htake : (body ++ [c, d]).take (lengthOf hi lo) = body := List.take_left' hlen
  have hdrop : (body ++ [c, d]).drop (lengthOf hi lo) = [c, d] := List.drop_left' hlen
  simp only [State.receiveByte, h, hgot, if_neg hwhole, htake, hdrop]
  rfl

/-- A frame made of a body by R158 gives that body back (R159). -/
theorem State.foldl_receiveByte_frameOf (h : s.link.receiver = .hunting) {body : List Byte} (h2 : 2 ≤ body.length)
    (h400 : body.length ≤ 400) : (frameOf body).foldl State.receiveByte s = s.validFrame body := by
  obtain ⟨hi, lo, hlength, hlen⟩ : ∃ hi lo, be16 body.length = [hi, lo] ∧ body.length = lengthOf hi lo :=
    ⟨_, _, rfl, by rw [lengthOf, byteOf_toNat, byteOf_toNat]; omega⟩
  obtain ⟨c, d, hcheck⟩ : ∃ c d, be16 (crc (hi :: lo :: body)).toNat = [c, d] := ⟨_, _, rfl⟩
  have hframe : frameOf body = startByte :: hi :: lo :: ((body ++ [c]) ++ [d]) := by
    rw [frameOf, hlength]
    show startByte :: hi :: lo :: (body ++ be16 (crc (hi :: lo :: body)).toNat) = _
    rw [hcheck, List.append_assoc]
    rfl
  have hstart : s.receiveByte startByte = s.setReceiver (.length []) := State.receiveByte_hunting h startByte
  have hfirst : (s.setReceiver (.length [])).receiveByte hi = s.setReceiver (.length [hi]) := rfl
  have hsecond : (s.setReceiver (.length [hi])).receiveByte lo = s.setReceiver (.body hi lo []) :=
    State.receiveByte_length (s := s.setReceiver _) rfl (by rw [← hlen]; exact ⟨h2, h400⟩)
  have hbody : (body ++ [c]).foldl State.receiveByte (s.setReceiver (.body hi lo []))
      = s.setReceiver (.body hi lo (body ++ [c])) :=
    s.foldl_receiveByte_body (by simp [hlen])
  have hlast : (s.setReceiver (.body hi lo (body ++ [c]))).receiveByte d = s.validFrame body := by
    rw [State.receiveByte_last (s := s.setReceiver _) rfl hlen, if_pos hcheck, State.setReceiver_setReceiver,
      State.setReceiver_self h]
  rw [hframe, List.foldl_cons, List.foldl_cons, List.foldl_cons, List.foldl_append, hstart, hfirst, hsecond, hbody]
  exact hlast

/-! ### What a valid frame does -/

/-- The link after a body is offered: at the tail of the intake queue, or tallied as OVERFLOW with four waiting (R160). -/
def Link.offered (k : Link) (body : List Byte) : Link :=
  if k.intake.length < 4 then { k with intake := k.intake ++ [body] }
  else { k with overflow := min 65535 (k.overflow + 1) }

/-- The host-silence monitor as a valid frame restarts it (R165). -/
def Link.restarted (k : Link) : Timer := if k.period = 0 then none else some (k.period * 100)

theorem State.offer_eq (s : State) (body : List Byte) : s.offer body = { s with link := s.link.offered body } := by
  by_cases hroom : s.link.intake.length < 4
  · rw [Link.offered, if_pos hroom]; exact if_pos hroom
  · rw [Link.offered, if_neg hroom]; exact if_neg hroom

section
variable (body : List Byte)

theorem State.validFrame_closed (h : s.service = .closed) :
    s.validFrame body = { s with link := s.link.offered body } := by
  rw [← State.offer_eq, State.validFrame, h]

theorem State.validFrame_powerdown (h : s.service = .powerdown) : s.validFrame body = s := by
  rw [State.validFrame, h]

/-- In OPEN a valid frame restarts the monitor (R165). -/
theorem State.validFrame_opened (h : s.service = .opened) :
    s.validFrame body = { s with link := { s.link.offered body with monitor := s.link.restarted } } := by
  rw [State.validFrame, h]
  refine (State.offer_eq _ body).trans ?_
  dsimp only [Link.offered, Link.startMonitor]
  split <;> rfl

/-- In LINK_LOST a valid frame restores the service (R165). -/
theorem State.validFrame_linkLost (h : s.service = .linkLost) : s.validFrame body = { s with
    service := .opened
    link := { s.link.offered body with
      monitor := s.link.restarted
      linkRestored := raiseService s.link.linkRestored s.link.lostSessions true } } := by
  rw [State.validFrame, h]
  refine (State.offer_eq _ body).trans ?_
  dsimp only [Link.offered, Link.startMonitor]
  split <;> rfl

end

end

/-! ### What the receiver gives up -/

section
variable {s : State}

/-- A gap while hunting does nothing (R159). -/
theorem exec_frameTimeout_hunting (h : s.mode = .running) (hr : s.link.receiver = .hunting) :
    exec .frameTimeout s = .next s := by
  rw [exec, execFrameTimeout, State.whenRunning_running h, hr]

/-- A gap within a frame is tallied, and the hunt starts again (R159). -/
theorem exec_frameTimeout_within (h : s.mode = .running) (hr : s.link.receiver ≠ .hunting) :
    exec .frameTimeout s = .next
      { s with link := { s.link with receiver := .hunting, timeout := min 65535 (s.link.timeout + 1) } } := by
  rw [exec, execFrameTimeout, State.whenRunning_running h]
  split
  next e => exact absurd e hr
  · rfl
  · rfl

/-- The two bytes of a bad length are hunted over: the first may start a frame whose length the second begins (R159). -/
theorem Receiver.resume_eq (hi lo : Byte) : Receiver.resume hi lo
    = if hi = 0xA5 then .length [lo] else if lo = 0xA5 then .length [] else .hunting := by
  unfold Receiver.resume Receiver.hunt startByte
  by_cases h : hi = 0xA5
  · rw [if_pos h, if_pos h]
  · rw [if_neg h, if_neg h]

end

/-- Settles O32: the receiver gathers a frame byte by byte and gives its body back (`State.foldl_receiveByte_frameOf`),
which is then offered; and each of its errors is tallied (R159, R160, R165). -/
theorem receiverTakesFramesOutOfBytes : Obligations.ReceiverTakesFramesOutOfBytes := by
  refine ⟨fun s body bytes link monitor h hr h2 h400 hbytes hlink hmonitor => ?_, fun s h =>
    ⟨exec_frameTimeout_within h, exec_frameTimeout_hunting h, fun hi lo hrec hbad => ?_,
      fun hi lo c d body hrec hlen hcheck => ?_⟩⟩
  · have hframe : exec (.frameReceived bytes) s = .next (s.validFrame body) := by
      rw [exec_frameReceived h, hbytes]
      exact congrArg _ (State.foldl_receiveByte_frameOf hr h2 h400)
    obtain rfl : link = s.link.offered body := hlink
    obtain rfl : monitor = s.link.restarted := hmonitor
    refine ⟨fun hs => ?_, fun hs => ?_, fun hs => ?_, fun hs => ?_, fun noise hnoise => ?_⟩
    · rw [hframe, State.validFrame_closed body hs]
    · rw [hframe, State.validFrame_opened body hs]
    · rw [hframe, State.validFrame_linkLost body hs]
      cases s.link.linkRestored <;> rfl
    · rw [hframe, State.validFrame_powerdown body hs]
    · rw [exec_frameReceived h, State.foldl_receiveByte_noise hr hnoise]
  · have hlength : ¬ (2 ≤ lengthOf hi lo ∧ lengthOf hi lo ≤ 400) := by rw [lengthOf]; omega
    rw [exec_frameReceived h, List.foldl_cons, State.receiveByte_badLength hrec hlength, Receiver.resume_eq]
    rfl
  · rw [exec_frameReceived h, List.foldl_cons, State.receiveByte_last hrec hlen, if_neg hcheck]
    rfl

end Sys2Proof.Machine
end

section
/-! The taking of requests: bodies too short for their layouts, label 0, unknown kinds, and nothing to take (O16). -/

namespace Sys2Proof.Machine

/-! ### Readers and the bytes they take -/

/-- A reader that takes at least `n` bytes off the front of what it is given. -/
def Takes {α : Type} (read : List Byte → Option (α × List Byte)) (n : Nat) : Prop :=
  ∀ f a r, read f = some (a, r) → r.length + n ≤ f.length

theorem takes_u8 : Takes u8 1 := by
  rintro (_ | ⟨b, f⟩) a r h
  · cases h
  · cases h; exact Nat.le_refl _

theorem takes_u16 : Takes u16 2 := by
  rintro (_ | ⟨b, _ | ⟨c, f⟩⟩) a r h
  · cases h
  · cases h
  · cases h; exact Nat.le_refl _

theorem takes_u24 : Takes u24 3 := by
  rintro (_ | ⟨b, _ | ⟨c, _ | ⟨d, f⟩⟩⟩) a r h
  · cases h
  · cases h
  · cases h
  · cases h; exact Nat.le_refl _

theorem takes_u32 : Takes u32 4 := by
  rintro (_ | ⟨b, _ | ⟨c, _ | ⟨d, _ | ⟨e, f⟩⟩⟩⟩) a r h
  · cases h
  · cases h
  · cases h
  · cases h
  · cases h; exact Nat.le_refl _

section
variable {α β : Type} {read : List Byte → Option (α × List Byte)} {f : List Byte} {m n : Nat}

/-- Fewer bytes than a reader takes are too short for it. -/
theorem Takes.short (h : Takes read n) (hf : f.length < n) : read f = none := by
  refine Option.eq_none_iff_forall_not_mem.2 fun p hp => ?_
  have hlen := h f p.1 p.2 hp
  omega

/-- Fields too short for a reader are too short for it and what follows it. -/
theorem Takes.last_short (h : Takes read n) (hf : f.length < n) {g : α × List Byte → Option β} :
    (read f).bind g = none := by
  rw [h.short hf]; rfl

/-- Fields are too short for a reader and what follows it where what it leaves is too short for that. -/
theorem Takes.bind_short (h : Takes read n) (hf : f.length < m + n) {g : α × List Byte → Option β}
    (hg : ∀ a r, r.length < m → g (a, r) = none) : (read f).bind g = none := by
  cases hread : read f with
  | none => rfl
  | some p =>
    have hlen := h f p.1 p.2 hread
    exact hg p.1 p.2 (by omega)

theorem Takes.map (h : Takes read n) (g : α → β) : Takes (fun f => (read f).map fun p => (g p.1, p.2)) n := by
  intro f b r e
  obtain ⟨p, hread, hp⟩ := Option.map_eq_some_iff.1 e
  obtain ⟨-, rfl⟩ := Prod.mk.injEq .. ▸ hp
  exact h f p.1 p.2 hread

theorem Takes.mono (h : Takes read n) (hm : m ≤ n) : Takes read m :=
  fun f a r e => (Nat.add_le_add_left hm _).trans (h f a r e)

/-- A reader and one that reads what it leaves. -/
theorem Takes.bind {g : α → List Byte → Option (β × List Byte)} (h : Takes read m) (hg : ∀ a, Takes (g a) n) :
    Takes (fun f => (read f).bind fun p => g p.1 p.2) (m + n) := by
  intro f b r e
  obtain ⟨p, hread, hp⟩ := Option.bind_eq_some_iff.1 e
  have hlen := h f p.1 p.2 hread
  have hmore := hg p.1 p.2 b r hp
  omega

theorem takes_pure (a : α) : Takes (fun f => some (a, f)) 0 := by
  intro f a r h
  cases h
  exact Nat.le_refl _

theorem takes_takeBytes (n : Nat) : Takes (takeBytes n) n := by
  intro f a r h
  unfold takeBytes at h
  split at h
  next hn =>
    cases h
    rw [List.length_drop]
    omega
  next => cases h

end

theorem takes_s16 : Takes s16 2 := takes_u16.map fun n => (BitVec.ofNat 16 n).toInt
theorem takes_s32 : Takes s32 4 := takes_u32.map fun n => (BitVec.ofNat 32 n).toInt
theorem takes_readName : Takes readName 8 := (takes_takeBytes 8).map nameOf

theorem takes_readFwd : Takes readFwd 5 := by
  rintro (_ | ⟨n, _ | ⟨a, _ | ⟨b, _ | ⟨c, _ | ⟨d, f⟩⟩⟩⟩⟩) x r h
  iterate 5 cases h
  · cases h; exact Nat.le_refl _

theorem takes_readOptChar : Takes readOptChar 2 := by
  rintro (_ | ⟨p, _ | ⟨c, f⟩⟩) x r h
  · cases h
  · cases h
  · cases h; exact Nat.le_refl _

/-- Fields of one kind, one after another. -/
theorem Takes.many {α : Type} {read : List Byte → Option (α × List Byte)} {k : Nat} (h : Takes read k) (n : Nat) :
    Takes (many read n) (n * k) := by
  induction n with
  | zero =>
    intro f as r e
    cases e
    rw [Nat.zero_mul]
    exact Nat.le_refl _
  | succ n ih =>
    have hboth : Takes (Machine.many read (n + 1)) (k + n * k) :=
      h.bind fun a => ih.bind fun as => takes_pure (a :: as)
    rwa [Nat.succ_mul, Nat.add_comm (n * k)]

theorem takes_readEntry : Takes readEntry 3 := takes_u16.bind fun start => takes_u8.bind fun band => takes_pure (start, band)

theorem takes_readSchedule : Takes readSchedule 1 :=
  takes_u8.bind fun _ => (takes_readEntry.many _).mono (Nat.zero_le _)

/-! ### The layouts and their lengths (section 11.2) -/

section
variable {f : List Byte}

theorem readSetClock_short (h : f.length < 5) : readSetClock f = none :=
  takes_u16.bind_short h fun _ _ h => takes_u24.last_short h

theorem readLoadText_short (h : f.length < 3) : readLoadText f = none :=
  takes_u8.bind_short h fun _ _ h => takes_u8.bind_short h fun _ _ h => takes_u8.last_short h

theorem readSetMonitor_short (h : f.length < 8) : readSetMonitor f = none :=
  takes_u8.bind_short h fun _ _ h => takes_u8.bind_short h fun _ _ h => takes_u8.bind_short h fun _ _ h =>
  takes_u8.bind_short h fun _ _ h => takes_u8.bind_short h fun _ _ h => takes_u8.bind_short h fun _ _ h =>
  takes_u16.last_short h

theorem readTariff_short (h : f.length < 33) : readTariff f = none :=
  takes_u8.bind_short h fun _ _ h => ((takes_u16.many _).mono (Nat.zero_le _)).bind_short h fun _ _ h =>
  takes_readSchedule.bind_short h fun _ _ h => takes_readSchedule.bind_short h fun _ _ h =>
  (show Takes _ 3 from takes_u8.many 3).bind_short h fun _ _ h =>
  (show Takes _ 8 from takes_u16.many 4).bind_short h fun _ _ h =>
  (show Takes _ 16 from takes_u32.many 4).bind_short h fun _ _ h =>
  takes_u16.bind_short h fun _ _ h => takes_u8.last_short h

theorem readConfig_short (h : f.length < 22) : readConfig f = none :=
  takes_u8.bind_short h fun _ _ h => takes_u8.bind_short h fun _ _ h => takes_u8.bind_short h fun _ _ h =>
  takes_u8.bind_short h fun _ _ h => takes_u8.bind_short h fun _ _ h => takes_u8.bind_short h fun _ _ h =>
  takes_u16.bind_short h fun _ _ h => takes_u8.bind_short h fun _ _ h => takes_u8.bind_short h fun _ _ h =>
  takes_u8.bind_short h fun _ _ h => takes_u8.bind_short h fun _ _ h => takes_readFwd.bind_short h fun _ _ h =>
  takes_u8.bind_short h fun _ _ h => takes_readOptChar.bind_short h fun _ _ h => takes_u8.bind_short h fun _ _ h =>
  takes_u8.last_short h

theorem readConfigureLine_short (h : f.length < 23) : readConfigureLine f = none :=
  takes_u8.bind_short h fun _ _ h => congrArg (Option.bind · _) (readConfig_short h)

theorem readAccountFields_short (h : f.length < 24) : readAccountFields f = none :=
  takes_readName.bind_short h fun _ _ h => takes_u32.bind_short h fun _ _ h => takes_u8.bind_short h fun _ _ h =>
  takes_s32.bind_short h fun _ _ h => takes_u32.bind_short h fun _ _ h => takes_u8.bind_short h fun _ _ h =>
  takes_u8.bind_short h fun _ _ h => takes_u8.last_short h

theorem readCredit_short (h : f.length < 12) : readCredit f = none :=
  takes_readName.bind_short h fun _ _ h => takes_s32.last_short h

theorem readSetState_short (h : f.length < 9) : readSetState f = none :=
  takes_readName.bind_short h fun _ _ h => takes_u8.last_short h

theorem readOutput_short (h : f.length < 4) : readOutput f = none :=
  takes_u16.bind_short h fun _ _ h => takes_u16.last_short h

theorem readCopies_short (h : f.length < 11) : readCopies f = none :=
  takes_u8.bind_short h fun _ _ h => takes_readFwd.bind_short h fun _ _ h => takes_u8.bind_short h fun _ _ h =>
  takes_readOptChar.bind_short h fun _ _ h => takes_u8.bind_short h fun _ _ h => takes_u8.last_short h

theorem readSetSession_short (h : f.length < 13) : readSetSession f = none :=
  takes_u16.bind_short h fun _ _ h => congrArg (Option.bind · _) (readCopies_short h)

theorem readEndSession_short (h : f.length < 3) : readEndSession f = none :=
  takes_u16.bind_short h fun _ _ h => takes_u8.last_short h

end

/-- A text shorter than its count (section 11.2). -/
theorem readLoadText_cut (index mode : Byte) {count : Byte} {f : List Byte} (h : f.length < count.toNat) :
    readLoadText (index :: mode :: count :: f) = none :=
  (takes_takeBytes count.toNat).last_short h

/-- Output data shorter than its count (section 11.2). -/
theorem readOutput_cut (tag : Nat) {count : Nat} (hc : count < 65536) {f : List Byte} (h : f.length < count) :
    readOutput (be16 tag ++ be16 count ++ f) = none := by
  have htag : u16 (be16 tag ++ (be16 count ++ f))
      = some ((BitVec.ofNat 8 (tag / 256)).toNat * 256 + (BitVec.ofNat 8 tag).toNat, be16 count ++ f) := rfl
  simp only [readOutput, List.append_assoc, htag, u16_be16 hc, Option.bind_eq_bind, Option.bind_some]
  exact (takes_takeBytes count).last_short h

/-! ### A tariff set cut short -/

/-- A reader makes nothing of any part of `bytes` that is cut short. -/
def FailsCut {β : Type} (read : List Byte → Option β) (bytes : List Byte) : Prop :=
  ∀ k < bytes.length, read (bytes.take k) = none

/-- A reader reads `a` off the front of all bytes that start with `bytes`, and nothing of these cut short. -/
structure ReadsAs {α : Type} (read : List Byte → Option (α × List Byte)) (bytes : List Byte) (a : α) : Prop where
  whole : ∀ rest, read (bytes ++ rest) = some (a, rest)
  cut : FailsCut read bytes

section
variable {α β : Type} {read : List Byte → Option (α × List Byte)} {bytes more : List Byte} {a : α}

theorem ReadsAs.of_takes {n : Nat} (h : Takes read n) (hn : bytes.length = n)
    (whole : ∀ rest, read (bytes ++ rest) = some (a, rest)) : ReadsAs read bytes a :=
  ⟨whole, fun k hk => h.short (by rw [List.length_take]; omega)⟩

/-- Cut bytes end within those of the first reader, or within those of what follows it. -/
theorem ReadsAs.cut_bind (h : ReadsAs read bytes a) {g : α × List Byte → Option β}
    (hg : FailsCut (fun r => g (a, r)) more) : FailsCut (fun f => (read f).bind g) (bytes ++ more) := by
  intro k hk
  rw [List.length_append] at hk
  dsimp only
  by_cases hfirst : k < bytes.length
  · rw [List.take_append_of_le_length hfirst.le, h.cut k hfirst]; rfl
  · rw [List.take_append, List.take_of_length_le (Nat.le_of_not_lt hfirst), h.whole]
    exact hg _ (by omega)

theorem failsCut_nil {read : List Byte → Option β} : FailsCut read [] := fun _ h => absurd h (Nat.not_lt_zero _)

end

theorem readsAs_u8 (b : Byte) : ReadsAs u8 [b] b := .of_takes takes_u8 rfl fun _ => rfl

theorem readsAs_u16 {n : Nat} (h : n < 65536) : ReadsAs u16 (be16 n) n := .of_takes takes_u16 rfl (u16_be16 h)

theorem readsAs_many_u16 {xs : List Nat} (h : ∀ n ∈ xs, n < 65536) :
    ReadsAs (many u16 xs.length) (xs.flatMap be16) xs :=
  .of_takes (takes_u16.many _) (by simp [be16]) (many_u16 h)

theorem readsAs_many_u32 {xs : List Nat} (h : ∀ n ∈ xs, n < 4294967296) :
    ReadsAs (many u32 xs.length) (xs.flatMap be32) xs :=
  .of_takes (takes_u32.many _) (by simp [be32]) (many_u32 h)

theorem readsAs_schedule {sched : List SchedEntry} (hn : sched.length < 256) (h : ∀ e ∈ sched, e.start < 65536) :
    ReadsAs readSchedule (scheduleBytes sched) (sched.map SchedEntry.raw) := by
  refine ⟨readSchedule_eq hn h, (readsAs_u8 (byteOf sched.length)).cut_bind fun k hk => ?_⟩
  refine (takes_readEntry.many (byteOf sched.length).toNat).short ?_
  have hlen : (sched.flatMap fun e => be16 e.start ++ [byteOf e.band]).length = sched.length * 3 := by simp [be16]
  rw [byteOf_toNat_of_lt hn, ← hlen, List.length_take]
  exact (Nat.min_le_left ..).trans_lt hk

/-- A tariff set cut short anywhere is no tariff set (R171, section 11.2). -/
theorem readTariff_cut {t : Tariff} (h : t.Fits) (rounding : Byte) : FailsCut readTariff (t.fields rounding) := by
  obtain ⟨⟨hbands, hweekday, hholiday⟩, hrates, hsched, -, hsetup, hwarn, hgrace⟩ := h
  have hrates : ReadsAs (many u16 (4 * (byteOf t.bands.length).toNat)) ((t.bands.flatMap classValues).flatMap be16)
      (t.bands.flatMap classValues) := by
    rw [byteOf_toNat_of_lt hbands, ← length_flatMap_classValues]
    refine readsAs_many_u16 fun n hn => ?_
    obtain ⟨b, hb, hn⟩ := List.mem_flatMap.1 hn
    exact forall_mem_classValues (P := (· < 65536)) (hrates b hb) n hn
  have hweights : ReadsAs (many u8 3) ([t.weightLow, t.weightMedium, t.weightHigh].flatMap fun w => [byteOf w])
      ([t.weightLow, t.weightMedium, t.weightHigh].map byteOf) := .of_takes (takes_u8.many 3) rfl fun _ => rfl
  have hsetup : ReadsAs (many u16 4) ((classValues t.setup).flatMap be16) (classValues t.setup) :=
    readsAs_many_u16 (forall_mem_classValues hsetup)
  have hwarn : ReadsAs (many u32 4) ((classValues t.warn).flatMap be32) (classValues t.warn) :=
    readsAs_many_u32 (forall_mem_classValues hwarn)
  rw [Tariff.fields_eq]
  exact (readsAs_u8 _).cut_bind <| hrates.cut_bind <|
    (readsAs_schedule hweekday fun e he => (hsched e (List.mem_append_left _ he)).1).cut_bind <|
    (readsAs_schedule hholiday fun e he => (hsched e (List.mem_append_right _ he)).1).cut_bind <|
    hweights.cut_bind <| hsetup.cut_bind <| hwarn.cut_bind <| (readsAs_u16 hgrace).cut_bind <|
    (readsAs_u8 rounding).cut_bind failsCut_nil

/-! ### Requests taken and not taken -/

section
variable {s : State}

/-- A request whose fields its reader makes nothing of is BAD_FIELD, field 0 (R161, R172). -/
theorem State.request_short {α : Type} {kind label : Byte} {fields : List Byte} {handle : Handler} {read : Option α}
    {act : α → State × Answer} (h : s.Asked kind label fields) (hnone : read = none)
    (hreads : handle fields s.dropFrame = withFields read s.dropFrame act) :
    s.whenRunning (State.takeRequest kind handle) = .next (s.answered kind label .badField [0, 0]) := by
  refine State.request_answered (t := s) h ?_
  rw [hreads, hnone]
  rfl

theorem State.headFrame_of_head {kind label : Byte} {fields : List Byte}
    (h : s.link.intake.head? = some (kind :: label :: fields)) : s.headFrame = some (kind, label, fields) := by
  obtain ⟨rest, hrest⟩ := List.head?_eq_some_iff.1 h
  rw [State.headFrame, hrest]

/-- A request may be taken but in POWERDOWN, and with a free place in the reply queue (R161). -/
theorem State.mayTake_iff : s.mayTake = true ↔ s.service ≠ .powerdown ∧ s.link.replies.length < 4 := by
  rw [State.mayTake, Bool.and_eq_true, bne_iff_ne, decide_eq_true_eq]
  rfl

/-- With no free place in the reply queue, or no frame waiting, there is nothing to take (R161; log 4). -/
theorem State.nothingToTake (h : s.link.replies.length = 4 ∨ s.link.intake = []) :
    s.mayTake = false ∨ s.headFrame = none := by
  refine h.imp (fun hfull => ?_) fun hempty => by rw [State.headFrame, hempty]
  rw [Bool.eq_false_iff, Ne, State.mayTake_iff, hfull]
  exact fun h => Nat.lt_irrefl _ h.2

/-- A command whose work leaves the state as it is. -/
theorem State.whenRunning_same {f : State → State} (h : f s = s) : s.whenRunning f = .next s := by
  rw [State.whenRunning, h, ite_self]

/-- Where there is nothing to take, a frame at the head of the intake queue may not be taken. -/
theorem State.not_mayTake_and (h : s.mayTake = false ∨ s.headFrame = none) {frame : Byte × Byte × List Byte}
    (hframe : s.headFrame = some frame) (p : Prop) : ¬ (s.mayTake = true ∧ p) := by
  have hno : s.mayTake = false := h.resolve_right (by rw [hframe]; exact Option.some_ne_none _)
  exact fun hc => Bool.false_ne_true (hno.symm.trans hc.1)

theorem State.takeRequest_nothing (h : s.mayTake = false ∨ s.headFrame = none) (kind : Byte) (handle : Handler) :
    s.takeRequest kind handle = s := by
  unfold State.takeRequest
  split
  next hframe => exact if_neg (State.not_mayTake_and h hframe _)
  next => rfl

theorem exec_reset_nothing (h : s.mayTake = false ∨ s.headFrame = none) (pins : Pins) :
    exec (.reset pins) s = .next s := by
  rw [exec, execReset]
  refine State.whenRunning_same ?_
  split
  next hframe => exact if_neg (State.not_mayTake_and h hframe _)
  next => rfl

theorem exec_labelZeroFrame_nothing (h : s.mayTake = false ∨ s.headFrame = none) :
    exec .labelZeroFrame s = .next s := by
  rw [exec, execLabelZeroFrame]
  refine State.whenRunning_same ?_
  split
  next hframe => exact if_neg (State.not_mayTake_and h hframe _)
  next => rfl

theorem exec_unknownKind_nothing (h : s.mayTake = false ∨ s.headFrame = none) : exec .unknownKind s = .next s := by
  rw [exec, execUnknownKind]
  refine State.whenRunning_same ?_
  split
  next hframe => exact if_neg (State.not_mayTake_and h hframe _)
  next => rfl

/-- With nothing to take, no command of a request does anything (R161; log 4, log 26). -/
theorem exec_nothingToTake (h : s.mayTake = false ∨ s.headFrame = none) (pins : Pins) (c : Instr)
    (hc : c ∈ ([.keepalive, .status, .openService, .closeService, .setClock, .adjustClock, .loadTariff, .loadText,
      .setMonitor, .reset pins, .configureLine, .enableLine, .disableLine, .lineStatus, .broadcast, .loadAccount,
      .deleteAccount, .creditAccount, .readAccount, .setAccountState, .output, .setSession, .endSession, .readCharges,
      .releaseCharges, .labelZeroFrame, .unknownKind] : List Instr)) : exec c s = .next s := by
  have request (kind : Byte) (handle : Handler) : s.whenRunning (State.takeRequest kind handle) = .next s :=
    State.whenRunning_same (State.takeRequest_nothing h kind handle)
  simp only [List.mem_cons, List.not_mem_nil, or_false] at hc
  rcases hc with rfl | rfl | rfl | rfl | rfl | rfl | rfl | rfl | rfl | rfl | rfl | rfl | rfl | rfl | rfl | rfl | rfl
    | rfl | rfl | rfl | rfl | rfl | rfl | rfl | rfl | rfl | rfl
  iterate 9 exact request _ _
  · exact exec_reset_nothing h pins
  iterate 15 exact request _ _
  · exact exec_labelZeroFrame_nothing h
  · exact exec_unknownKind_nothing h

/-- A frame of label 0 is taken with no reply (R161). -/
theorem exec_labelZeroFrame {kind : Byte} {fields : List Byte} (h : s.mode = .running) (htake : s.mayTake = true)
    (hhead : s.link.intake.head? = some (kind :: 0 :: fields)) : exec .labelZeroFrame s = .next s.dropFrame := by
  rw [exec, execLabelZeroFrame, State.whenRunning_running h, State.headFrame_of_head hhead]
  exact congrArg _ (if_pos ⟨htake, rfl⟩)

/-- A frame whose kind is no request code is answered UNKNOWN with kind FFh (R161, R172). -/
theorem exec_unknownKind {kind label : Byte} {fields : List Byte} (h : s.mode = .running) (htake : s.mayTake = true)
    (hhead : s.link.intake.head? = some (kind :: label :: fields)) (hlabel : label ≠ 0) (hkind : kind ∉ requestKinds) :
    exec .unknownKind s = .next (s.dropFrame.pushReply ⟨0xFF, label, .unknown, [0, 0]⟩) := by
  rw [exec, execUnknownKind, State.whenRunning_running h, State.headFrame_of_head hhead]
  exact congrArg _ (if_pos ⟨htake, hlabel, hkind⟩)

/-- Every request with fewer bytes than its layout's fields of fixed size is BAD_FIELD, field 0 (R161, R171). -/
theorem exec_short {label : Byte} {fields : List Byte} (p : Instr × Byte × Nat)
    (hp : p ∈ ([(.closeService, 0x04, 1), (.setClock, 0x05, 5), (.adjustClock, 0x06, 2), (.loadTariff, 0x07, 33),
      (.loadText, 0x08, 3), (.setMonitor, 0x09, 8), (.configureLine, 0x10, 23), (.enableLine, 0x11, 1),
      (.disableLine, 0x12, 1), (.lineStatus, 0x13, 1), (.broadcast, 0x14, 1), (.loadAccount, 0x18, 24),
      (.deleteAccount, 0x19, 8), (.creditAccount, 0x1A, 12), (.readAccount, 0x1B, 8), (.setAccountState, 0x1C, 9),
      (.output, 0x20, 4), (.setSession, 0x21, 13), (.endSession, 0x22, 3), (.readCharges, 0x28, 1),
      (.releaseCharges, 0x29, 2)] : List (Instr × Byte × Nat)))
    (hf : fields.length < p.2.2) (h : s.Asked p.2.1 label fields) :
    exec p.1 s = .next (s.answered p.2.1 label .badField [0, 0]) := by
  simp only [List.mem_cons, List.not_mem_nil, or_false] at hp
  rcases hp with rfl | rfl | rfl | rfl | rfl | rfl | rfl | rfl | rfl | rfl | rfl | rfl | rfl | rfl | rfl | rfl | rfl
    | rfl | rfl | rfl | rfl
  · exact State.request_short (handle := closeServiceReq) h (takes_u8.short hf) rfl
  · exact State.request_short (handle := setClockReq) h (readSetClock_short hf) rfl
  · exact State.request_short (handle := adjustClockReq) h (takes_s16.short hf) rfl
  · exact State.request_short (handle := loadTariffReq) h (readTariff_short hf) rfl
  · exact State.request_short (handle := loadTextReq) h (readLoadText_short hf) rfl
  · exact State.request_short (handle := setMonitorReq) h (readSetMonitor_short hf) rfl
  · exact State.request_short (handle := configureLineReq) h (readConfigureLine_short hf) rfl
  · exact State.request_short (handle := enableLineReq) h (takes_u8.short hf) rfl
  · exact State.request_short (handle := disableLineReq) h (takes_u8.short hf) rfl
  · exact State.request_short (handle := lineStatusReq) h (takes_u8.short hf) rfl
  · exact State.request_short (handle := broadcastReq) h (takes_u8.short hf) rfl
  · exact State.request_short (handle := loadAccountReq) h (readAccountFields_short hf) rfl
  · exact State.request_short (handle := deleteAccountReq) h (takes_readName.short hf) rfl
  · exact State.request_short (handle := creditAccountReq) h (readCredit_short hf) rfl
  · exact State.request_short (handle := readAccountReq) h (takes_readName.short hf) rfl
  · exact State.request_short (handle := setAccountStateReq) h (readSetState_short hf) rfl
  · exact State.request_short (handle := outputReq) h (readOutput_short hf) rfl
  · exact State.request_short (handle := setSessionReq) h (readSetSession_short hf) rfl
  · exact State.request_short (handle := endSessionReq) h (readEndSession_short hf) rfl
  · exact State.request_short (handle := readChargesReq) h (takes_u8.short hf) rfl
  · exact State.request_short (handle := releaseChargesReq) h (takes_u16.short hf) rfl

end

/-- Settles O16: each reader makes nothing of a body too short for its layout, and the other commands of the intake queue
look at the label, the kind and the free place (R161, R171, R172; log 4, log 26). -/
theorem requestsShortUnknownOrWaiting : Obligations.RequestsShortUnknownOrWaiting := by
  refine fun s => ⟨fun label fields => ⟨exec_short, fun index mode count hf h => ?_, fun tag count hc hf h => ?_,
    fun tariff rounding k hfits hk h => ?_⟩, fun kind label fields hmode hservice hroom hhead => ⟨?_, fun hlabel hkind =>
    ?_⟩, fun hnone => exec_nothingToTake (State.nothingToTake hnone)⟩
  · exact State.request_short (handle := loadTextReq) h (readLoadText_cut index mode hf) rfl
  · exact State.request_short (handle := outputReq) h (readOutput_cut tag hc hf) rfl
  · exact State.request_short (handle := loadTariffReq) h (readTariff_cut hfits rounding k hk) rfl
  · rintro rfl
    exact exec_labelZeroFrame hmode (State.mayTake_iff.2 ⟨hservice, hroom⟩) hhead
  · exact exec_unknownKind hmode (State.mayTake_iff.2 ⟨hservice, hroom⟩) hhead hlabel hkind

end Sys2Proof.Machine
end


section
/-! The step with a command waiting (O1), beside `step_idle` for the empty queue. -/

namespace Sys2Proof.Machine

theorem step_command {s : State} {c : Instr} {rest : List Instr} (h : s.pending = c :: rest) :
    step s = exec c { s with pending := rest } := by
  simp only [step, h]

/-- Settles O1, by `step_command`: the queue that held the command is overwritten, and only the rest is left (log 1). -/
theorem stepRunsFrontCommand : Obligations.StepRunsFrontCommand := fun _ _ _ => step_command rfl

end Sys2Proof.Machine
end
